-- ==== Sys2Proof/Word.lean ====
section
/-! DEFINITION. The words of the SQ7420 (R7, R8): bytes, words, and the index types of its units. -/
namespace Sys2Proof

/-- A byte. -/
abbrev Byte := BitVec 8
/-- A word is 32 bits (R8). -/
abbrev Word := BitVec 32
/-- A core that executes scalar instructions: 0 to 15 are the channels C0 to C15, 16 is the Binnacle core (R370), which
the manual numbers so itself: origin 210h beside the channels' 200h + n (R441), OWNER code 10h beside n (R306). -/
abbrev Chan := Fin 17
/-- The Binnacle core. -/
abbrev bnmCore : Chan := 16
/-- A G register number. -/
abbrev Reg := Fin 16
/-- A pipe number, P0 to P31. -/
abbrev Pipe := Fin 32
/-- An event number, EV000 to EV511. -/
abbrev Ev := Fin 512

end Sys2Proof
end

