-- ==== Sys2Proof/Operand.lean ====
section
/-! DEFINITION. The types of the commands' operands: who sends a command, the fields of the instruction
encodings (R49-R52, R142, R217), and what an outside unit supplies with a command. -/
namespace Sys2Proof

/-- The masters whose accesses the rules tell apart (R306, R441, R525). The Binnacle's port M0 stands once for each
origin that R525 gives it. -/
inductive Master where
  | bnm                      -- M0, the Binnacle's own accesses (origin 210h)
  | ring (n : Fin 4)         -- M0 for a command of ring n (213h + n)
  | console                  -- M0 for the console UART (217h)
  | vlan                     -- M0 for the management VLAN (218h)
  | host                     -- M1, PCIe inbound (21Ah)
  | sextant                  -- M2 (212h)
  | nx                       -- M3, network receive and transmit DMA
  | kl (q : Fin 4)           -- M4 for KL0 and KL1, M5 for KL2 and KL3
  | chan (c : Chan)          -- a channel, through M6 or an SMS port (200h + n); 16 the Binnacle core, through M0 (210h)
  | rst                      -- M7, reset controller and Logbook writer (211h)
  deriving DecidableEq, Repr

/-- The prefixes an instruction carries (R49, R50). `extra` is set when the byte sequence repeats a prefix or
carries F7h, which the other fields cannot show. -/
structure Prefixes where
  chain  : Bool
  mask   : Option Byte
  key    : Bool
  atomic : Bool
  ord    : Bool
  sat    : Bool
  wide   : Bool
  extra  : Bool
  deriving DecidableEq, Repr

/-- No prefix at all. -/
def Prefixes.none : Prefixes := ⟨false, .none, false, false, false, false, false, false⟩

/-- The b operand of the RRR, RI16 and RI32 forms (R52, R521). -/
inductive Src where
  | reg (b : Reg)
  | imm16 (v : BitVec 16)
  | imm32 (v : Word)
  deriving DecidableEq, Repr

/-- The displacement of the M16 and M32 forms. -/
inductive Disp where
  | d16 (v : BitVec 16)
  | d32 (v : Word)
  deriving DecidableEq, Repr

/-- The branch displacement of the B8 and B32 forms. -/
inductive Rel where
  | r8 (v : Byte)
  | r32 (v : Word)
  deriving DecidableEq, Repr

/-- AND, OR or XOR. -/
inductive BitOp where | and | or | xor
  deriving DecidableEq, Repr

/-- SHL, SHR or SAR. -/
inductive ShiftOp where | shl | shr | sar
  deriving DecidableEq, Repr

/-- DIV, DIVU, REM or REMU. -/
inductive DivOp where | div | divu | rem | remu
  deriving DecidableEq, Repr

/-- MIN, MINU, MAX or MAXU (and the reductions of those names). -/
inductive MinOp where | min | minu | max | maxu
  deriving DecidableEq, Repr

/-- SEXT.b, SEXT.h, ZEXT.b or ZEXT.h. -/
inductive ExtOp where | sextB | sextH | zextB | zextH
  deriving DecidableEq, Repr

/-- LD.b, LD.bu, LD.h, LD.hu or LD.w. -/
inductive LdKind where | b | bu | h | hu | w
  deriving DecidableEq, Repr

/-- ST.b, ST.h or ST.w. -/
inductive StKind where | b | h | w
  deriving DecidableEq, Repr

/-- The branch conditions of opcodes 70h-7Eh and 80h-8Eh, in the order of the low nibble (R53). -/
inductive Cond where
  | always | eq | ne | cs | cc | mi | pl | vs | vc | hi | ls | ge | lt | gt | le
  deriving DecidableEq, Repr

/-- The operand bytes of the S form (R142): the map byte (`vec`: F9h), the four operand fields and byte E. -/
structure SOps where
  vec : Bool
  d   : BitVec 4
  a   : BitVec 4
  b   : BitVec 4
  c   : BitVec 4
  e   : Byte
  deriving DecidableEq, Repr

/-- The operand bytes of the T form (R142): the four operand fields, byte N and byte G. -/
structure TOps where
  d : BitVec 4
  a : BitVec 4
  b : BitVec 4
  c : BitVec 4
  n : Byte
  g : Byte
  deriving DecidableEq, Repr

/-- What a memory controller finds in a line, or a chart bank in a word, when it reads it (R322, R334): outcomes
of the storage cells, which the device does not choose. -/
inductive LineCond where
  | clean
  | corrected        -- single-bit errors, or a seal that differs in one bit
  | uncorrectable    -- an uncorrectable beat that persists through R325
  | sealMismatch     -- a seal that differs in two or more bits, after one re-read
  deriving DecidableEq, Repr

/-- LDADD, SWP or CAS, as a controller performs them (R327). -/
inductive AtomOp where | ldadd | swp | cas
  deriving DecidableEq, Repr

/-- Where a command packet is executed from: a ring, the mailbox, the management VLAN, or a cascade link that
forwarded it for a ring of the lodestar (R340, R368, R384, R400). The console UART sends only the two messages of
cross-bearing (R298, R299), whose body it carries here. -/
inductive CmdSrc where
  | ring (n : Fin 4)
  | mailbox
  | vlan
  | forwarded (n : Fin 4)
  | console (body : List Byte)
  deriving DecidableEq, Repr

/-- The parties of cross-bearing (R298): ring 0, the management VLAN, the console. -/
inductive Party where | ring0 | vlan | console
  deriving DecidableEq, Repr

/-- The registers the Binnacle clears by a write of any value (R326, R334). -/
inductive EccReg where
  | mcEcc (m : Fin 8)
  | mcSeal (m : Fin 8)
  | cbc
  deriving DecidableEq, Repr

/-- The step counters: of a channel or of a pipe (R47, R494). -/
inductive StepCtr where
  | chan (c : Fin 16)
  | pipe (p : Pipe)
  deriving DecidableEq, Repr

/-- The outcome a completion brings back from PCI Express (R407). -/
inductive Completion where
  | success (data : Word)
  | poisoned
  | unsuccessful
  deriving DecidableEq, Repr

/-- The tamper sources (R396). -/
inductive TamperSrc where | pin | vglitch | cglitch
  deriving DecidableEq, Repr

/-- The rails whose brown-out is monitored (R472, R477). -/
inductive Rail where | aon | io18 | io33 | fab | sram | core | ddr
  deriving DecidableEq, Repr

/-- A line write: the address it is made for, and the line it reaches, which is the same unless the write went wrong
(R321). -/
structure LineAt where
  pa      : BitVec 48
  reached : BitVec 48
  deriving DecidableEq, Repr

/-- The stores whose uncorrectable or parity error is critical, in the coding of RST_CAUSE.CRIT, with the core whose
lookup has found a parity error (R285, R289); a key cache is also looked up for the Binnacle's copy engine. Of the
retained store, the contents and the CRC-32 that the reset controller has read, none where the error is uncorrectable
(R483). -/
inductive CritSrc where
  | patchRam
  | regionMap (c : Chan)
  | keyCache (c : Option Chan)
  | ledgerSlot
  | bnmSram
  | retained (read : Option (List Byte × Word))
  deriving DecidableEq, Repr

/-- What happened to a cascade member (record CASCADE_CHANGE of R444). -/
inductive CascadeCause where | admitted | lost | ninth | secondLodestar | rerouted
  deriving DecidableEq, Repr

/-- The supported image kinds (R388). -/
inductive ImgKind where | firmware | patch
  deriving DecidableEq, Repr

/-- The parts of an Ethernet frame the port's rules read (R409-R414): lengths and checks found on the wire, the
VLAN tag, the Ethertype, the UDP destination port if the frame is IPv4/UDP, and the payload from the sensor-frame
header onwards. -/
structure EthFrame where
  bytes     : Nat
  checkOk   : Bool
  pause     : Bool
  tagged    : Bool
  vid       : BitVec 12
  ethertype : BitVec 16
  udpPort   : Option (BitVec 16)
  payload   : List Byte
  deriving DecidableEq, Repr

/-- IEEE 802.1AS outcomes the end station acts on (R410, R419): the offset of the Chronometer from the grandmaster
in ns (positive: the Chronometer is behind). -/
structure GptpMsg where
  offset : Int
  deriving DecidableEq, Repr

/-- Ports of the cascade (R430). -/
abbrev KlPort := Fin 4
/-- Network ports (R409). -/
abbrev NxPort := Fin 4

/-- An access to one control-space word as R404 and R522 form it: the offset in the block's space, the byte
enables, and the write data or `none` for a read; `beyond` where a host's access does not lie within one naturally aligned
word. -/
structure WordAccess where
  offset : BitVec 28
  be     : BitVec 4
  wdata  : Option Word
  beyond : Bool
  deriving DecidableEq, Repr

end Sys2Proof
end

