-- ==== Sys2Proof/Syntax.lean ====
section
/-! DEFINITION. The commands of the SQ7420: one constructor for each row of spec/opcode_table.json, in the table's
order. A command is one whole step (spec/95_what_each_step_holds.md): an instruction a channel decodes, or an event
of one of the device's own engines, its registers, its pins or its links. -/
namespace Sys2Proof

/-- One command. A scalar instruction names its channel and its prefixes first. -/
inductive Instr where
  -- scalar instructions (R53)
  | bkpt (c : Chan) (p : Prefixes)
  | nop (c : Chan) (p : Prefixes)
  | ret (c : Chan) (p : Prefixes)
  | rete (c : Chan) (p : Prefixes)
  | svc (c : Chan) (p : Prefixes) (imm : Byte)
  | wait (c : Chan) (p : Prefixes)
  | fence (c : Chan) (p : Prefixes)
  | iflush (c : Chan) (p : Prefixes)
  | addSub (c : Chan) (p : Prefixes) (sub : Bool) (d a : Reg) (b : Src)
  | andOrXor (c : Chan) (p : Prefixes) (op : BitOp) (d a : Reg) (b : Src)
  | shlShrSar (c : Chan) (p : Prefixes) (op : ShiftOp) (d a : Reg) (b : Src)
  | rol (c : Chan) (p : Prefixes) (d a : Reg) (b : Src)
  | mul (c : Chan) (p : Prefixes) (d a : Reg) (b : Src)
  | mulhMulhu (c : Chan) (p : Prefixes) (uns : Bool) (d a : Reg) (b : Src)
  | divDivuRemRemu (c : Chan) (p : Prefixes) (op : DivOp) (d a : Reg) (b : Src)
  | mov (c : Chan) (p : Prefixes) (d a : Reg)
  | negNot (c : Chan) (p : Prefixes) (isNot : Bool) (d a : Reg)
  | cmp (c : Chan) (p : Prefixes) (d a : Reg)
  | cmpi (c : Chan) (p : Prefixes) (d : Reg) (imm : Word)
  | tst (c : Chan) (p : Prefixes) (d a : Reg)
  | movi (c : Chan) (p : Prefixes) (d : Reg) (imm : Disp)
  | sextZext (c : Chan) (p : Prefixes) (op : ExtOp) (d a : Reg)
  | clzPopc (c : Chan) (p : Prefixes) (popc : Bool) (d a : Reg)
  | ld (c : Chan) (p : Prefixes) (k : LdKind) (d base : Reg) (disp : Disp)
  | st (c : Chan) (p : Prefixes) (k : StKind) (d base : Reg) (disp : Disp)
  | ldr (c : Chan) (p : Prefixes) (d base : Reg) (disp : BitVec 16)
  | stc (c : Chan) (p : Prefixes) (d base s : Reg) (disp : BitVec 16)
  | ldadd (c : Chan) (p : Prefixes) (d base s : Reg) (disp : BitVec 16)
  | swp (c : Chan) (p : Prefixes) (d base s : Reg) (disp : BitVec 16)
  | cas (c : Chan) (p : Prefixes) (d base s : Reg) (disp : BitVec 16)
  | push (c : Chan) (p : Prefixes) (d a : Reg)
  | pop (c : Chan) (p : Prefixes) (d a : Reg)
  | ldd (c : Chan) (p : Prefixes) (d base : Reg) (disp : BitVec 16)
  | std (c : Chan) (p : Prefixes) (d base : Reg) (disp : BitVec 16)
  | brBcc (c : Chan) (p : Prefixes) (cond : Cond) (rel : Rel)
  | call (c : Chan) (p : Prefixes) (rel : Rel)
  | jmp (c : Chan) (p : Prefixes) (a : Reg)
  | callr (c : Chan) (p : Prefixes) (a : Reg)
  | loop (c : Chan) (p : Prefixes) (cnt : Reg) (len : BitVec 16)
  | loopi (c : Chan) (p : Prefixes) (cnt len : BitVec 16)
  | lexit (c : Chan) (p : Prefixes)
  | bcm (c : Chan) (p : Prefixes) (mask : BitVec 4) (rel : Byte)
  | mfc (c : Chan) (p : Prefixes) (d : Reg) (cr : Byte)
  | mtc (c : Chan) (p : Prefixes) (a : Reg) (cr : Byte)
  | setvl (c : Chan) (p : Prefixes) (d a : Reg)
  | illegalInstructionDecode (c : Chan)
  -- scalar completions
  | loadDataReturn (c : Chan) (id : Nat)
  | storeEnqueue (c : Chan)
  | storePerformed (c : Chan) (idx : Nat)
  | storeErrorResponse (c : Chan) (idx : Nat)
  | fenceComplete (c : Chan)
  | waitWakeup (c : Chan)
  -- stream and vector instructions (R152)
  | syncS (c : Chan) (p : Prefixes)
  | syncSComplete (c : Chan)
  | mandMorMxor (c : Chan) (p : Prefixes) (op : BitOp) (o : SOps)
  | mnot (c : Chan) (p : Prefixes) (o : SOps)
  | vld (c : Chan) (p : Prefixes) (o : SOps)
  | vst (c : Chan) (p : Prefixes) (o : SOps)
  | streamAddSub (c : Chan) (p : Prefixes) (sub : Bool) (o : SOps)
  | streamMul (c : Chan) (p : Prefixes) (o : SOps)
  | streamMulhMulhu (c : Chan) (p : Prefixes) (uns : Bool) (o : SOps)
  | streamDivRem (c : Chan) (p : Prefixes) (op : DivOp) (o : SOps)
  | streamAndOrXor (c : Chan) (p : Prefixes) (op : BitOp) (o : SOps)
  | streamShlShrSar (c : Chan) (p : Prefixes) (op : ShiftOp) (o : SOps)
  | minMinuMaxMaxu (c : Chan) (p : Prefixes) (op : MinOp) (o : SOps)
  | absNeg (c : Chan) (p : Prefixes) (neg : Bool) (o : SOps)
  | streamMov (c : Chan) (p : Prefixes) (o : SOps)
  | faddFsub (c : Chan) (p : Prefixes) (sub : Bool) (o : SOps)
  | fmul (c : Chan) (p : Prefixes) (o : SOps)
  | fdiv (c : Chan) (p : Prefixes) (o : SOps)
  | fma (c : Chan) (p : Prefixes) (o : SOps)
  | fminFmax (c : Chan) (p : Prefixes) (isMax : Bool) (o : SOps)
  | fabs (c : Chan) (p : Prefixes) (o : SOps)
  | fneg (c : Chan) (p : Prefixes) (o : SOps)
  | fsqrt (c : Chan) (p : Prefixes) (o : SOps)
  | cmul (c : Chan) (p : Prefixes) (o : SOps)
  | cmulc (c : Chan) (p : Prefixes) (o : SOps)
  | daddDsub (c : Chan) (p : Prefixes) (sub : Bool) (o : SOps)
  | streamCmp (c : Chan) (p : Prefixes) (o : SOps)
  | fcmp (c : Chan) (p : Prefixes) (o : SOps)
  | dcmp (c : Chan) (p : Prefixes) (o : SOps)
  | sel (c : Chan) (p : Prefixes) (o : SOps)
  | cvt (c : Chan) (p : Prefixes) (o : SOps)
  | rsum (c : Chan) (p : Prefixes) (o : SOps)
  | rminRmaxRminuRmaxu (c : Chan) (p : Prefixes) (op : MinOp) (o : SOps)
  | rcnt (c : Chan) (p : Prefixes) (o : SOps)
  | frsum (c : Chan) (p : Prefixes) (o : SOps)
  | frminFrmax (c : Chan) (p : Prefixes) (isMax : Bool) (o : SOps)
  | frssq (c : Chan) (p : Prefixes) (o : SOps)
  | drsum (c : Chan) (p : Prefixes) (o : SOps)
  | scan (c : Chan) (p : Prefixes) (o : SOps)
  | fscan (c : Chan) (p : Prefixes) (o : SOps)
  | wmul (c : Chan) (p : Prefixes) (o : TOps)
  | mag (c : Chan) (p : Prefixes) (o : SOps)
  | fft (c : Chan) (p : Prefixes) (o : TOps)
  | bpow (c : Chan) (p : Prefixes) (o : TOps)
  | env (c : Chan) (p : Prefixes) (o : TOps)
  -- stream progress; `sid` names an in-flight instruction or chain group
  | streamSlotGrant (c : Chan)
  | streamDispatchStart (c : Chan) (sid : Nat)
  | stripComplete (p : Pipe)
  | elementComplete (c : Chan) (sid : Nat) (i : Nat)
  | elementFault (c : Chan) (sid : Nat) (i : Nat)
  | unitComplete (c : Chan) (sid : Nat) (u : Nat)
  | streamRetire (c : Chan)
  | drainEnd (c : Chan) (k : Nat)
  -- Ledger instructions (R218) and the engine's steps
  | padd (c : Chan) (p : Prefixes) (d a : Reg) (l1 l2 : Byte)
  | psub (c : Chan) (p : Prefixes) (d a : Reg) (l1 l2 : Byte)
  | pset (c : Chan) (p : Prefixes) (d a : Reg) (l1 l2 : Byte)
  | pcmp (c : Chan) (p : Prefixes) (d a : Reg) (l1 l2 : Byte)
  | pmul (c : Chan) (p : Prefixes) (d a : Reg) (l1 l2 : Byte)
  | pdiv (c : Chan) (p : Prefixes) (d a m : Reg) (l1 l2 l3 : Byte)
  | pscl (c : Chan) (p : Prefixes) (d : Reg) (l1 s rnd : Byte)
  | pcvb (c : Chan) (p : Prefixes) (d a : Reg) (l1 : Byte)
  | pcvd (c : Chan) (p : Prefixes) (d a : Reg) (l1 : Byte)
  | pack (c : Chan) (p : Prefixes) (d a : Reg) (lpk lzn : Byte)
  | unpk (c : Chan) (p : Prefixes) (d a : Reg) (lpk lzn : Byte)
  | mvl (c : Chan) (p : Prefixes) (d a : Reg) (x : Byte)
  | cll (c : Chan) (p : Prefixes) (d a : Reg) (x : Byte)
  | trl (c : Chan) (p : Prefixes) (d a : Reg) (x : Byte)
  | trtl (c : Chan) (p : Prefixes) (d a f : Reg) (k : Byte)
  | edit (c : Chan) (p : Prefixes) (d a m : Reg) (f : Byte)
  | edtm (c : Chan) (p : Prefixes) (d a m : Reg) (f : Byte)
  | lpin (c : Chan) (p : Prefixes)
  | lunpin (c : Chan) (p : Prefixes)
  | ledgerEngineGrant (c : Chan)
  | ledgerUnitBoundary (c : Chan)
  | ledgerSliceExpiry (c : Chan)
  | ledgerSpillComplete (owner : Chan)
  | ledgerReloadComplete (c : Chan)
  -- events (R255-R278)
  | eventAssert (n : Ev)
  | msixUnmask (n : Ev)
  | eventRecognition (c : Chan)
  | atomWindowExpiry (c : Chan)
  | lockupDelayExpiry
  | stepCounterWrap (c : Chan)
  | pipeStepCounterWrap (p : Pipe)
  | evcfgWrite (m : Master) (n : Ev) (v : Word)
  | evcPendWrite (m : Master) (k : Fin 16) (v : Word)
  | evcSetWrite (m : Master) (v : Word)
  | stepcntlRead (m : Master) (k : StepCtr)
  -- memory controllers, key cache, initialisation, chart memory, default target
  | dramLineRead (m : Master) (pa : BitVec 48) (cond : LineCond)
  | dramReadRetry (pa : BitVec 48) (attempt : Fin 3) (cond : LineCond)
  | dramLineWrite (m : Master) (pa : LineAt) (data : BitVec 512)
  | dramPartialWrite (m : Master) (pa : BitVec 48) (data : List Byte) (cond : LineCond)
  | dramAtomic (m : Master) (op : AtomOp) (pa : BitVec 48) (cmp val : Word) (cond : LineCond)
  | keyCacheFill (line : Nat) (cond : LineCond)
  | memoryInitSweepStep
  | chunkInitComplete (chunk : Nat)
  | patrolScrubLine (m : Fin 8) (line : Nat) (cond : LineCond) (last : Bool)
  | dimmCaParityError (m : Fin 8) (pa : BitVec 48)
  | dimmSensorRead (m : Fin 8) (hot : Bool)
  | eccCounterClear (m : Master) (r : EccReg)
  | chartAccess (m : Master) (bank : Fin 33) (row : BitVec 16) (wdata : Option (BitVec 256)) (be : BitVec 32)
      (word : Fin 8) (cond : LineCond)
  | chartScrubRow (bank : Fin 33) (row : BitVec 16) (word : Fin 8) (cond : LineCond)
  | cbnOwnerWrite (m : Master) (bank : Fin 32) (v : Word)
  | chartHandoverEffect (bank : Fin 32)
  | chartWipeComplete (bank : Fin 32)
  | sealedBankWipeComplete
  | defaultTargetAnswer (m : Master) (pa : BitVec 48) (wr : Bool)
  -- command rings and packets (R340-R369)
  | dbCtailWrite (n : Fin 4) (v : Word)
  | dbSheadWrite (n : Fin 4) (v : Word)
  | dbEvinjWrite (v : Word)
  | ringEnable (m : Master) (n : Fin 4)
  | ringDisable (m : Master) (n : Fin 4)
  | packetStart (n : Fin 4) (readOk : Bool)
  | progressReply (n : Fin 4) (frac : BitVec 16)
  | mbxGo (v : Word)
  | chLoadctx (s : CmdSrc)
  | chSetregion (s : CmdSrc)
  | chGrant (s : CmdSrc)
  | chStart (s : CmdSrc)
  | chStop (s : CmdSrc)
  | chQuiesce (s : CmdSrc)
  | chReadctx (s : CmdSrc)
  | devReset (s : CmdSrc)
  | devResetBegin (s : CmdSrc)
  | memWrite (s : CmdSrc)
  | memRead (s : CmdSrc)
  | memFill (s : CmdSrc)
  | bankOwner (s : CmdSrc)
  | memStatus (s : CmdSrc)
  | memPpr (s : CmdSrc)
  | xbPropose (s : CmdSrc)
  | xbConfirm (s : CmdSrc)
  | crossBearingTimeout
  | xbStatus (s : CmdSrc)
  | tlmRead (s : CmdSrc)
  | tlmSnapshot (s : CmdSrc)
  | vcoreSet (s : CmdSrc)
  | lbFreeze (s : CmdSrc)
  | lbRead (s : CmdSrc)
  | lbClear (s : CmdSrc)
  | lbStatus (s : CmdSrc)
  | fwWrite (s : CmdSrc)
  | fwActivate (s : CmdSrc)
  | fwInfo (s : CmdSrc)
  | casStatus (s : CmdSrc)
  | casSetrole (s : CmdSrc)
  | attMeas (s : CmdSrc)
  | attCert (s : CmdSrc)
  | dbgHalt (s : CmdSrc)
  | dbgRelease (s : CmdSrc)
  | dbgPeek (s : CmdSrc)
  | forwardTimeout (n : Fin 4)
  -- SPDM (R381)
  | getVersion
  | getCapabilities
  | negotiateAlgorithms (asymOk hashOk : Bool)
  | getDigests
  | getCertificate (slot : Byte) (offset len : BitVec 16)
  | challenge (slot : Byte) (nonce : BitVec 256)
  | getMeasurements (index : Byte) (nonce : BitVec 256)
  | spdmUnsupportedRequest (code : Byte)
  -- Binnacle (R370-R400)
  | sensorSample (temps : List (BitVec 16)) (rails : List (BitVec 16)) (power : Word)
  | stepRateSample (readings : List (BitVec 16))
  | throttleStep (up : Bool)
  | thermalTrip
  | regulatorFault (readVout : Option (BitVec 16))
  | binnacleWatchdogExpiry
  | bnmWdgkickWrite (m : Master) (v : Word)
  | settingsRecordWrite (ok : Bool)
  | operatorCredential (digits : BitVec 256)
  | consoleLockExpiry
  | consolePartyExpiry
  | consoleLogout
  | managementKeyLoad (key : BitVec 256)
  | verifierProgram (slot : Fin 4) (v : BitVec 384)
  | managementPacket (port : NxPort) (packet : List Byte)
  | tamper (s : TamperSrc)
  | lifeCycleReset
  -- host, PCI Express, network, time, machine pins, SMBus, Kenrid (R401-R438)
  | bar0Access (a : WordAccess)
  | bar4Access (offset : BitVec 26) (wdata : Option Word) (be : BitVec 4)
  | outboundCompletion (tag : Nat) (r : Completion)
  | outboundCompletionTimeout (tag : Nat)
  | perst
  | hotReset
  | functionLevelReset
  | pcieLinkStateChange (up : Bool) (speed : BitVec 3) (width : BitVec 5)
  | frameReceive (port : NxPort) (f : EthFrame)
  | widxAdvance (port : NxPort) (ring : Fin 4)
  | nxRidxWrite (m : Master) (port : NxPort) (ring : Fin 4) (v : Word)
  | nxRingCfgWrite (m : Master) (port : NxPort) (ring : Fin 4) (v : Word)
  | nxCfgWrite (m : Master) (port : NxPort) (v : Word)
  | nxStatLowRead (m : Master) (port : NxPort) (k : Fin 11)
  | frameTransmit (port : NxPort) (ptp : Bool)
  | ethernetLinkStateChange (port : NxPort) (up : Bool)
  | gptpMessage (g : GptpMsg)
  | timeSynchronisationLost
  | chronometerAlarm (k : Fin 4)
  | chrArmWrite (m : Master) (v : Word)
  | chrTimelRead (m : Master)
  | timerCompareMatch (n : Fin 16)
  | timerWrap (n : Fin 16)
  | phaseReferenceCapture (i : Fin 16) (falling : Bool)
  | kpTslRead (m : Master) (i : Fin 16)
  | gpioEdge (i : Fin 32) (level : Bool)
  | gpioSetWrite (m : Master) (v : Word)
  | gpioClrWrite (m : Master) (v : Word)
  | tripLatchWrite (m : Master) (v : Word)
  | tripClrWrite (m : Master) (v : Word)
  | tripMaskWrite (m : Master) (v : Word)
  | tripHbkickWrite (m : Master) (v : Word)
  | tripHbcfgWrite (m : Master) (v : Word)
  | heartbeatExpiry
  | heartbeatToggle
  | smb1StatusRead
  | smb1TemperatureRead
  | smb1PowerRead
  | smb1VcoreRead
  | smb1ResetCauseRead
  | flitAckNak (q : KlPort) (ack : BitVec 12) (nak crcOk : Bool)
  | replayTimeout (q : KlPort)
  | kenridLinkStateChange (q : KlPort) (up : Bool) (width : BitVec 2)
  | cascadeDiscovery (q : KlPort) (c : CascadeCause) (dev peer : Fin 8)
  | cascadeReroute (q : KlPort) (dev : Fin 8)
  | kenridMemoryRequest (q : KlPort) (pa : BitVec 48) (len : Nat) (wdata : Option (List Byte)) (atomic : Bool)
  | kenridMemoryResponse (tag : Nat) (r : Completion)
  | kenridCommandPacket (q : KlPort) (ring : Fin 4) (packet : List Byte)
  | kenridStatusPacket (n : Fin 4) (status : List Byte)
  | timeFlit (q : KlPort) (offset : Int)
  | timeFlitSend
  | linkDelayMeasure (q : KlPort) (ns : Nat)
  | timeFlitLoss (q : KlPort)
  | signalFlit (q : KlPort) (src : BitVec 3) (kind : Bool) (value : BitVec 16)
  | klSignalWrite (m : Master) (v : Word)
  | followerSummary (d : Fin 8) (seqL seqH lost newer : Word)
  -- Logbook and Sextant (R439-R468)
  | logbookRecordWrite
  | recordWaitTimeout
  | lbFrzWrite (m : Master) (v : Word)
  | freezeTimeout
  | lbClearWrite (m : Master) (v : Word)
  | lbSeqlRead (m : Master)
  | idcode
  | samplePreload (bits : List Bool)
  | extest
  | clamp
  | highz
  | bypass
  | sxacc (a : BitVec 64)
  | sxHaltreqWrite (m : Master) (v : Word)
  | halt (c : Fin 16)
  | binnacleHalt
  | sxReleaseWrite (m : Master) (v : Word)
  | sxFeedctlWrite (m : Master) (v : Word)
  | sxMdataAccess (wdata : Option Word)
  | sxDtxChannelWrite (c : Fin 16) (v : Word)
  | sxDtxSextantRead (c : Fin 16)
  | sxDrxSextantWrite (c : Fin 16) (v : Word)
  | sxDrxChannelRead (c : Fin 16)
  -- reset and start-up (R469-R489)
  | powerOnReset (brownOut : Bool)
  | brownOut (r : Rail)
  | sysrstN
  | systemReset
  | coreReset
  | criticalError (s : CritSrc)
  | startUp (lodestar : Bool)
  | trainingComplete (cfgs : Vector Word 8)
  | startTimeout
  | computeWatchdogExpiry
  | wdgKickWrite (m : Master) (v : Word)
  | wdgCfgWrite (m : Master) (v : Word)
  -- the rest of the table
  | registerWrite (m : Master) (bar2 : Bool) (a : WordAccess)
  | configurationRequest (register : BitVec 12) (wdata : Option Word)
  | doeDiscovery (index : Byte)
  | testLogicReset
  | smb1UnsupportedCommand (code : Byte)
  deriving DecidableEq, Repr

end Sys2Proof
end

