-- ==== Sys2Proof/Decode.lean ====
section
/-! DEFINITION. The decoder of table words. No row of spec/opcode_table.json gives bits: the table lists steps of the
device, not encodings, so no word spells a command. (The scalar instruction bytes that the Sextant feeds to a channel,
R465, are decoded in Machine/Feed.lean.) -/
namespace Sys2Proof

/-- The command that a table word of `nbits` bits spells: none, since no row of the table has bits. -/
def decodeTableWord (_nbits _w : Nat) : Option Instr := none

end Sys2Proof
end

