-- ==== Sys2Proof/Config.lean ====
section
/-! DEFINITION. What the manual leaves open (log 1): constants without a body, so that no proof can see what they
are. A free value is one of these applied to the counter `State.free`, which the step reads and advances, or to the
operands it depends on. -/
namespace Sys2Proof.Config

/-- Free value number `n`, as a word. -/
opaque freeWord : Nat → Word
/-- Byte `k` of free value number `n`. -/
opaque freeByte : Nat → Nat → Byte
/-- What tSTEP of a replica stage (16 + p for pipe p) would be in a tick, in picoseconds, were it not for the limits of R26
and R524: it has no stated exact value. -/
opaque tStep : (stage tick : Nat) → Nat
/-- The spare column groups that the fuses of chart bank `n` (32: the sealed bank) choose, bit g for group g (R336). -/
opaque repair : Nat → BitVec 4
/-- Whether an ECDSA P-384 signature over a message verifies under a public key (R386, R388): a published standard's
function, which the manual names and does not restate. -/
opaque ecdsaVerify : (key msg sig : List Byte) → Bool
/-- AES-256-GCM decryption of a packet or image (R384, R388): `none` when the tag does not verify. -/
opaque gcmOpen : (key : BitVec 256) → (iv aad body : List Byte) → Option (List Byte)
/-- AES-256-GCM encryption of a reply (R384). -/
opaque gcmSeal : (key : BitVec 256) → (iv aad body : List Byte) → List Byte
/-- The image decryption key that the fuses are delivered with (R382). -/
opaque imageKey : BitVec 256
/-- The image-signing public keys that the fuses are delivered with: 0 production, 1 development (R382). -/
opaque imageSigner : Nat → List Byte

/-- The images a device is delivered with in its slots A, firmware and patch (log 5). -/
opaque factoryImage : (patch : Bool) → List Byte
/-- The plaintext of a delivered image (log 5). -/
opaque factoryPlain : (patch : Bool) → List Byte
/-- The bytes of the header that is measured when no patch set loads, but for its LENGTH, which R379 gives as 0. -/
opaque emptyHeader : Nat → Byte
/-- The settings image as bytes: the layout of the store within a record is not architectural (R484). -/
opaque settingsImage : (seq : Nat) → (regs : List (Nat × Word)) → (masks : List (Word × Nat)) → (rest : List Nat) → List Byte
/-- Free value number `n` of a width: the registers that are undefined after a reset (R40, R471). -/
opaque freeBits : (width n : Nat) → BitVec width
/-- The calibration factor that a die's fuses hold, in 65,536ths (R373, log 58). -/
opaque calib : Nat
/-- The device attestation private key (R380, R382). -/
opaque attestationKey : BitVec 384
/-- An ECDSA P-384 signature of a digest, r and s: signature number `n`, which its fresh secret number makes different from
others (R380; FIPS 186-5, which the manual names and does not restate). -/
opaque ecdsaSign : (key : BitVec 384) → (digest : List Byte) → (n : Nat) → BitVec 384 × BitVec 384
/-- The digest that an SPDM signature covers, of the messages exchanged, the request and the response before its signature
(R381; DSP0274, which the manual names and does not restate). -/
opaque spdmDigest : (msgs : List (List Byte)) → (request response : List Byte) → List Byte
/-- The boot ROM's 64 KiB (R371), whose digest MEAS0 takes (R379). -/
opaque bootRom : BitVec 16 → Byte
/-- Where an address of the Binnacle core leads: below 2^48 to port M0, and above that to its SRAM or boot ROM as
`sramBase` and `romBase` file them; `none` to nothing. The manual gives the memories (R371) and no map of them (log 47). -/
opaque bnmMap : (addr : Nat) → Option Nat
/-- The events that the Binnacle's firmware routes to the Binnacle core at a time (R370, log 47). -/
opaque bnmRoutes : (tick event : Nat) → Bool
/-- How many words lie free before the capability `n` of configuration space, modulo 8: the places of the capabilities in
their lists are not stated (R402, R406, log 59). -/
opaque capGap : (n : Nat) → Nat
/-- Where the power management capability stands in configuration space. -/
def pmCap : Nat := 0x40 + 4 * (capGap 0 % 8)
/-- Where the PCI Express capability stands, of 3Ch bytes. -/
def pcieCap : Nat := pmCap + 8 + 4 * (capGap 1 % 8)
/-- The configuration word that holds MSI-X Message Control. -/
def msixCap : Nat := pcieCap + 0x3C + 4 * (capGap 2 % 8)
/-- Whether the DOE capability is the first of the two extended ones, and AER the second. -/
opaque doeFirst : Bool
/-- Where the second extended capability stands; the first stands at 100h. -/
def extCap : Nat := 0x148 + 4 * (capGap 3 % 8)
/-- Where the AER capability stands. -/
def aerCap : Nat := if doeFirst then extCap else 0x100
/-- Where the DOE capability stands. -/
def doeCap : Nat := if doeFirst then 0x100 else extCap
/-- What a standard configuration register reads that nothing has written and whose value the manual does not state. -/
opaque cfgWord : (register : Nat) → Word
/-- The cell of the boundary register that drives a pin, the pins numbered as `tapped` does: R456 gives the register and no
order of its cells (log 60). -/
opaque boundaryCell : (pin : Nat) → Nat
/-- Whether a micro-operation of a unit class writes the micro-register D: the operations are outside the programming model
(R32, R37). -/
opaque microWrites : (cls : Nat) → (opc : BitVec 6) → Bool
/-- What a micro-operation of a unit class makes of the micro-registers A and B (R32, R37). -/
opaque microOp : (cls : Nat) → (opc : BitVec 6) → (a b : BitVec 64) → BitVec 64
/-- Whether a micro-operation of a unit class is one of a unit that uses DLY (R34, R37). -/
opaque microDelays : (cls : Nat) → (opc : BitVec 6) → Bool
/-- The payload bytes of a flit of a type that carries these numbers and bytes: R430 gives the payload its size and no
layout. -/
opaque flitPayload : (type : Nat) → (data : List Nat) → (bytes : List Byte) → List Byte
/-- How an outbound read ends whose completion no command reports: 0 with data, 1 unsuccessful, 2 poisoned, modulo 3 (R407,
R435). -/
opaque readEnds : (n : Nat) → Nat
/-- The SHA-384 of the Ndenil root certificate, with which an SPDM certificate chain begins. -/
opaque rootHash : BitVec 384
/-- The certificate chain of the attestation key (R380). -/
opaque certChain : List Byte

/-- The microcode ROMs: 32 K words for each unit class, 0 pipe, 1 Ledger, 2 SMS (R31); R37 leaves their contents out. -/
opaque microRom : (cls : Nat) → (addr : BitVec 15) → Word
/-- The ROM address at which a slice of a class begins a machine instruction (R37). -/
opaque microEntry : (cls slice code : Nat) → BitVec 15
/-- Whether a micro-operation is a jump, and whether it is a branch (R33, R35, R37). -/
opaque microJump : (cls : Nat) → (opc : BitVec 6) → Bool
/-- See `microJump`. -/
opaque microBranch : (cls : Nat) → (opc : BitVec 6) → Bool
/-- The ROM address that a jump or branch microword goes to (R37). -/
opaque microTarget : (cls : Nat) → (word : Word) → BitVec 15
/-- Whether a condition of a unit is true when a microword asks it, and how many quarters of a step a handshake holds
until it is (R32, R33, R37). -/
opaque microCond : (unit : Nat) → (cond : BitVec 5) → (n : Nat) → Bool
/-- See `microCond`. -/
opaque microHold : (unit : Nat) → (cond : BitVec 5) → (n : Nat) → Nat
/-- What stands in a carry record for a level whose blocks were all absent; the manual gives it no value (R111). -/
opaque absentEntry : BitVec 64
/-- Whether an element that reads a byte its instruction has already written reads it as it stood before (R101). -/
opaque readsBefore : Nat → Bool

end Sys2Proof.Config
end

