-- ==== Sys2Proof/Machine/Bits.lean ====
section
/-! DEFINITION. Bit fields, byte order (R7) and the sparse lists that hold memories and registers. -/
namespace Sys2Proof.Machine

/-- Bits [hi:lo] of a number. -/
def fld (w : Nat) (hi lo : Nat) : Nat := w / 2 ^ lo % 2 ^ (hi + 1 - lo)

/-- Bit `i` of a word. -/
def bit (w : Word) (i : Nat) : Bool := w.getLsbD i

/-- Field [hi:lo] of a word. -/
def wfld (w : Word) (hi lo : Nat) : Nat := fld w.toNat hi lo

/-- The word whose bits [hi:lo] are all 1. -/
def fmask (hi lo : Nat) : Word := BitVec.ofNat 32 ((2 ^ (hi + 1 - lo) - 1) * 2 ^ lo)

/-- `w` with field [hi:lo] set to `v`. -/
def wset (w : Word) (hi lo v : Nat) : Word :=
  (w &&& ~~~ fmask hi lo) ||| (BitVec.ofNat 32 (v * 2 ^ lo) &&& fmask hi lo)

/-- `w` with bit `i` set to `b`. -/
def wbit (w : Word) (i : Nat) (b : Bool) : Word := wset w i i b.toNat

/-- The bits of `new` where `mask` is 1, and of `old` elsewhere. -/
def merge (mask old new : Word) : Word := (old &&& ~~~ mask) ||| (new &&& mask)

/-- The word with 1 at `v`. -/
def ofBool (b : Bool) : Word := if b then 1 else 0

/-- `a` advanced to the next multiple of `k`. -/
def roundUp (a k : Nat) : Nat := (a + k - 1) / k * k

/-- ⌈a / b⌉. -/
def ceilDiv (a b : Nat) : Nat := (a + b - 1) / b

/-- A number raised by one, stopping at `cap`. -/
def satInc (cap n : Nat) : Nat := if n < cap then n + 1 else cap

/-- The `n` low bytes of a number, least significant first (R7). -/
def leBytes : Nat → Nat → List Byte
  | 0, _ => []
  | n + 1, v => BitVec.ofNat 8 v :: leBytes n (v / 256)

/-- The number that bytes spell, least significant first (R7). -/
def leNat : List Byte → Nat
  | [] => 0
  | b :: bs => b.toNat + 256 * leNat bs

/-- Bytes `off` to `off + n - 1` of a list, as a number. -/
def leAt (l : List Byte) (off n : Nat) : Nat := leNat ((l.drop off).take n)

/-- The bytes of a word. -/
def wordBytes (w : Word) : List Byte := leBytes 4 w.toNat

/-- A word from four bytes. -/
def bytesWord (l : List Byte) : Word := BitVec.ofNat 32 (leNat l)

/-- The words of a byte list. -/
def bytesWords : Nat → List Byte → List Word
  | 0, _ => []
  | n + 1, l => bytesWord (l.take 4) :: bytesWords n (l.drop 4)

/-- The signed value of an n-bit field. -/
def signed (n v : Nat) : Int := if v < 2 ^ (n - 1) then v else (v : Int) - 2 ^ n

/-- The word with the two's-complement value of an integer. -/
def ofInt (i : Int) : Word := BitVec.ofInt 32 i

/-- Replace `l[i]` by `f l[i]`; the list as it is where `i` is beyond it. -/
def modAt {α : Type} (l : List α) (i : Nat) (f : α → α) : List α :=
  match l, i with
  | [], _ => []
  | a :: l, 0 => f a :: l
  | a :: l, i + 1 => a :: modAt l i f

/-! Sparse lists: keys strictly rise, and no entry holds what an unlisted key reads as. -/

/-- The value at key `k`; `dflt k` where `k` is not listed. -/
def look {α : Type} (dflt : Nat → α) : List (Nat × α) → Nat → α
  | [], k => dflt k
  | (a, v) :: l, k => if a = k then v else look dflt l k

/-- Drop every entry of key `k`. -/
def eraseK {α : Type} (k : Nat) : List (Nat × α) → List (Nat × α)
  | [] => []
  | (a, v) :: l => if a = k then eraseK k l else (a, v) :: eraseK k l

/-- Put an entry at key `k`, in order. -/
def insertK {α : Type} (k : Nat) (v : α) : List (Nat × α) → List (Nat × α)
  | [] => [(k, v)]
  | (a, w) :: l => if k < a then (k, v) :: (a, w) :: l else if a = k then (k, v) :: l else (a, w) :: insertK k v l

/-- Store `v` at key `k`, keeping the canonical form. -/
def store {α : Type} [DecidableEq α] (dflt : Nat → α) (l : List (Nat × α)) (k : Nat) (v : α) : List (Nat × α) :=
  if v = dflt k then eraseK k l else insertK k v l

/-- The canonical form: keys rise strictly, and no entry equals what an unlisted key reads as. -/
def canonB {α : Type} [DecidableEq α] (dflt : Nat → α) : List (Nat × α) → Bool
  | [] => true
  | (a, v) :: l => decide (v ≠ dflt a) && (match l with | [] => true | (b, _) :: _ => decide (a < b)) && canonB dflt l

/-- A set of numbers as a rising list: insert. -/
def setIns (k : Nat) : List Nat → List Nat
  | [] => [k]
  | a :: l => if k < a then k :: a :: l else if a = k then a :: l else a :: setIns k l

/-- A set of numbers: remove. -/
def setDel (k : Nat) (l : List Nat) : List Nat := l.filter (· ≠ k)

end Sys2Proof.Machine
end

