-- ==== Sys2Proof/Machine/ChanState.lean ====
section
/-! DEFINITION. What a channel holds (R38-R47, R65, R69, R74-R112, R236, R254, R269, R270): its architectural
registers, the loads and stores on their way, its stream instructions in flight, its drains and its windows. -/
namespace Sys2Proof.Machine

/-- The channel states of R38. -/
inductive ChSt where
  | stopped | running | waiting | halted | lockedUp
  deriving DecidableEq, Repr

/-- CHn_CTL.STATE (R38). -/
def ChSt.code : ChSt → Nat
  | .stopped => 0 | .running => 1 | .waiting => 2 | .halted => 3 | .lockedUp => 4

/-- An exception with what its record names (R251, R269). -/
structure Exc where
  vec   : Nat
  addr  : Word
  sub   : Nat := 0
  opnd  : Nat := 15
  elem  : Option Word := none
  range : Bool := false
  svc   : Byte := 0
  impr  : Bool := false
  deriving DecidableEq, Repr

/-- Where the data of an outstanding load go (R56): a G register, or a descriptor (LDD). -/
inductive LDst where
  | g (r : Reg) (v : Word)
  | d (r : Fin 8) (v : BitVec 128)
  deriving DecidableEq, Repr

/-- An outstanding load, POP or atomic (R56): its number, the destinations its data have still to reach, the bridges that
its requests cross (0 to 7 the SMS ports for MC0 to MC7, 8 that of M6, R29, R306), and whether they have left those for
the queue of their controller (R312). -/
structure Load where
  id   : Nat
  dsts : List LDst
  via  : List (Fin 9)
  sent : Bool
  deriving DecidableEq, Repr

/-- A piece of a store within one line (R59): physical address and bytes. -/
structure Piece where
  pa    : Nat
  bytes : List Byte
  deriving DecidableEq, Repr

/-- A store in the store queue (R56, R62, R80): its effective address, its pieces not yet performed, the number of the
youngest stream instruction it follows (0: none), while which is unretired it is provisional, one more than the number
of the youngest load it follows that has left the device (0: none), and the mode it was made in (R293). -/
structure StEntry where
  ea     : Word
  pieces : List Piece
  after  : Nat
  behind : Nat
  sup    : Bool
  /-- where the request of its next piece stands: 0 in the store queue, 1 in the bridges it crosses, 2 beyond them in the
  queue of its controller or at its target (R29, R312) -/
  stage  : Nat := 0
  via    : List (Fin 9) := []
  deriving DecidableEq, Repr

/-- The operations of the stream and vector maps (R152). -/
inductive SOp where
  | mlogic (op : BitOp) | mnot | vld | vst
  | addSub (sub : Bool) | mul | mulh (uns : Bool) | div (op : DivOp) | logic (op : BitOp) | shift (op : ShiftOp)
  | minmax (op : MinOp) | absNeg (neg : Bool) | mov
  | fadd (sub : Bool) | fmul | fdiv | fma | fminmax (isMax : Bool) | fabs | fneg | fsqrt | cmul (conj : Bool)
  | dadd (sub : Bool) | cmp | fcmp | dcmp | sel | cvt
  | rsum | rminmax (op : MinOp) | rcnt | frsum | frminmax (isMax : Bool) | frssq | drsum | scan | fscan
  | wmul | mag | fft | bpow | env
  deriving DecidableEq, Repr

/-- A reduction, which writes one result. -/
def SOp.reduces : SOp → Bool
  | .rsum | .rminmax _ | .rcnt | .frsum | .frminmax _ | .frssq | .drsum => true
  | _ => false

/-- A scan. -/
def SOp.scans : SOp → Bool
  | .scan | .fscan => true
  | _ => false

/-- A unit instruction (R166). -/
def SOp.isUnit : SOp → Bool
  | .fft | .bpow | .env => true
  | _ => false

/-- The opcode of an operation in its map (R152). -/
def SOp.opcode : SOp → Nat
  | .mlogic .and => 0x04 | .mlogic .or => 0x05 | .mlogic .xor => 0x06 | .mnot => 0x07 | .vld => 0x08 | .vst => 0x09
  | .addSub sub => 0x10 + sub.toNat | .mul => 0x12 | .mulh uns => 0x13 + uns.toNat
  | .div .div => 0x15 | .div .divu => 0x16 | .div .rem => 0x17 | .div .remu => 0x18
  | .logic .and => 0x19 | .logic .or => 0x1A | .logic .xor => 0x1B
  | .shift .shl => 0x1C | .shift .shr => 0x1D | .shift .sar => 0x1E
  | .minmax .min => 0x1F | .minmax .minu => 0x20 | .minmax .max => 0x21 | .minmax .maxu => 0x22
  | .absNeg neg => 0x23 + neg.toNat | .mov => 0x25
  | .fadd sub => 0x30 + sub.toNat | .fmul => 0x32 | .fdiv => 0x33 | .fma => 0x34 | .fminmax m => 0x35 + m.toNat
  | .fabs => 0x37 | .fneg => 0x38 | .fsqrt => 0x39 | .cmul conj => 0x3A + conj.toNat
  | .dadd sub => 0x40 + sub.toNat | .cmp => 0x48 | .fcmp => 0x49 | .dcmp => 0x4A | .sel => 0x4C | .cvt => 0x50
  | .rsum => 0x60 | .rminmax .min => 0x61 | .rminmax .max => 0x62 | .rminmax .minu => 0x63 | .rminmax .maxu => 0x64
  | .rcnt => 0x65 | .frsum => 0x66 | .frminmax m => 0x67 + m.toNat | .frssq => 0x69 | .drsum => 0x6A
  | .scan => 0x70 | .fscan => 0x71 | .wmul => 0x78 | .mag => 0x79 | .fft => 0x7A | .bpow => 0x7B | .env => 0x7C

/-- The operand classes of R149. -/
inductive Cls where
  | I | F | X | DS | DL | L
  deriving DecidableEq, Repr

/-- A captured operand (R74, R143, R144): a descriptor's 128 bits, the relay with the TYPE it carries (R150), a scalar
G(g), a vector or a mask register. -/
inductive Opnd where
  | none
  | mem (d : BitVec 128)
  | relay (t : Nat)
  | scalar (w : Word)
  | vreg (r : Fin 16)
  | mreg (r : Fin 8)
  deriving DecidableEq, Repr

/-- A decoded stream or register-form instruction, with what it captures (R44, R51, R74, R147). -/
structure Member where
  pc    : Word
  op    : SOp
  d     : Opnd
  a     : Opnd
  b     : Opnd
  c     : Opnd
  /-- the operand codes or register fields of D, A, B and C, for CHn_XCAUSE.OPND -/
  codes : List (BitVec 4)
  /-- byte E of form S, byte N of form T -/
  ext   : Byte
  /-- G(g) where the instruction names one (BPOW, ENV) -/
  gval  : Word
  key   : BitVec 4
  sat   : Bool
  wide  : Bool
  /-- the class of operand A -/
  cls   : Cls
  /-- the operation is unsigned (R183) -/
  uns   : Bool
  /-- the TYPE of the result -/
  rty   : Nat
  deriving DecidableEq, Repr

/-- A completed element that WM has not passed: its value (buffered where a strip, a block or a register is written
later) and its flags (R92, R99, R109, R201). -/
structure Elem where
  val : BitVec 64
  fl  : BitVec 5
  dz  : Bool
  deriving DecidableEq, Repr

/-- What a provisional instruction may change (R80), as it stood when the stream instruction was decoded. -/
structure Snap where
  g     : Vector Word 16
  csw   : Word
  vl    : Nat
  d     : Vector (BitVec 128) 8
  lpst  : Nat
  lps   : Vector Word 4
  lpe   : Vector Word 4
  lpc   : Vector Word 4
  /-- control register 16h, which MFC of 15h latches -/
  stepsH : BitVec 16
  loads : List Load
  deriving DecidableEq, Repr

/-- A stream instruction, register-form instruction or chain group in flight (R74, R79, R104). -/
structure Slot where
  sid     : Nat
  members : List Member
  vec     : Bool
  /-- SC, or VL for a register form -/
  count   : Nat
  /-- captured mask after INV, and ZERO (R50, R148) -/
  mask    : Option (BitVec 256 × Bool)
  /-- the mask register it was captured from, which the scoreboard counts as read (R77) -/
  maskReg : Option (Fin 8)
  /-- FSW.RM, FSW.FTZ, CSW.TDZ and CSW.S as captured (R44, R74, R281) -/
  rm      : BitVec 2
  ftz     : Bool
  tdz     : Bool
  sup     : Bool
  ord     : Bool
  inPlace : Bool
  snap    : Snap
  /-- scalar instructions decoded since, before the next stream instruction (R80) -/
  younger : Nat
  /-- the element it starts at (R89) -/
  start   : Nat
  /-- the next strip, segment or unit to dispatch -/
  next    : Nat
  started : Bool
  /-- dispatch has stopped: a fault of an instruction that is not the head (R88) -/
  fault   : Option (Nat × Exc)
  /-- elements that have faulted -/
  bad     : List Nat
  /-- lowest element not known complete -/
  wm      : Nat
  elems   : List (Nat × Elem)
  /-- flags of the elements below `wm` -/
  fl      : BitVec 5
  dz      : Bool
  /-- carry stack and blocks folded (R109) -/
  carry   : List (Option (BitVec 64))
  blocks  : Nat
  /-- bytes of effective space that it has written, as they stood before (R101) -/
  olds    : List (Nat × Byte)
  /-- indices that the load slice has read ahead of their elements, by the address and width of the index and the key of
  its read (R125, R126) -/
  ixs     : List (Nat × Nat)
  /-- COUNT, NSAMP, DMIN and DMAX of the revolution table as read at the start (R132) -/
  hdr     : Option (Nat × Nat × Nat × Nat)
  deriving DecidableEq, Repr

/-- Where the end of a drain writes the final WM: the frame that was pushed, CHn_WM after a stop or a halt, or
nowhere after a lockup (R92, R276, R359, R460). -/
inductive DrainTo where
  | frame (addr : Word) (skey : BitVec 4)
  | stop
  | nowhere
  deriving DecidableEq, Repr

/-- A drain (R92): the head and the younger instructions undone with it. -/
structure Drain where
  id    : Nat
  slots : List Slot
  dest  : DrainTo
  deriving DecidableEq, Repr

/-- A Ledger instruction's encoding fields (R217). -/
structure LIns where
  opc : Byte
  d   : Reg
  a   : Reg
  m   : Reg
  b1  : Byte
  b2  : Byte
  b3  : Byte
  key : Bool
  len : Nat
  deriving DecidableEq, Repr

/-- One unit of a Ledger instruction, computed and waiting for its boundary (R233, R234). -/
structure LUnit where
  stores : List (Nat × List Byte)
  regs   : List (Reg × Word)
  cc     : Option (Fin 4)
  deriving DecidableEq, Repr

/-- The context of an unfinished slot-class instruction (R236, R241): the state that registers cannot hold. -/
structure LCtx where
  pc    : Word
  opc   : Byte
  home  : Word
  /-- boundaries passed -/
  done  : Nat
  units : List LUnit
  /-- the exception that its result raises in place of the last unit (R215, R220) -/
  exc   : Option Exc
  /-- what a handler must leave unchanged (R238): the source bytes as read, the pattern bytes not yet replaced, and the
  progress registers -/
  srcs  : List (Nat × List Byte)
  pat   : Nat × List Byte
  held  : List (Reg × Word)
  deriving DecidableEq, Repr

/-- The Ledger instruction a channel is executing or waiting with (R210). -/
structure LRun where
  ins     : LIns
  sup     : Bool
  key     : BitVec 4
  /-- it continues from a context: decoded with CSW.LRS = 1, or stopped at a boundary by the end of its slice -/
  resume  : Bool
  /-- the context is that of an interrupted instruction, whose operands a handler may have changed (R238) -/
  check   : Bool
  /-- its slice has expired (R246) -/
  expired : Bool
  /-- PACK or UNPK holds the engine, which nothing interrupts (R226) -/
  locked  : Bool
  deriving DecidableEq, Repr

/-- A load whose request has left the device through PCI Express or Kenrid (R56, R407, R435): its number among the
loads, the tag of its request, what it loads, its base register and effective address, what stood when it was decoded,
for an exception of its own is precise (R57), and the vector of that exception while an earlier one is still out. -/
structure RLoad where
  id     : Nat
  tag    : Nat
  kind   : LdKind
  base   : Reg
  ea     : Word
  pc     : Word
  snap   : Snap
  failed : Option Nat
  deriving DecidableEq, Repr

/-- What a decoded stream instruction asks of its slot (R74). -/
structure SlotReq where
  mem   : Member
  vec   : Bool
  count : Nat
  mask  : Option (BitVec 256 × Bool)
  maskReg : Option (Fin 8)
  ord   : Bool
  chain : Bool
  len   : Nat
  start : Nat
  deriving DecidableEq, Repr

/-- What a channel's decode is waiting for. -/
inductive Wait where
  | none
  | fence
  | syncS
  | storeRoom (e : StEntry) (sp : Option Word) (len : Nat)
  | slot (r : SlotReq)
  | ledger (r : LRun)
  deriving DecidableEq, Repr

/-- A cached vector entry (R252, R254). -/
structure VEntry where
  vec   : Nat
  words : BitVec 128
  fixed : Bool
  deriving DecidableEq, Repr

/-- A stop or quiesce command that a channel has still to apply, or its DETAIL bits once the channel has stopped for
it and the command has still to complete (R359). -/
inductive ChReq where
  | stop
  | quiesce
  | done (detail : Nat)
  deriving DecidableEq, Repr

/-- A bounded-atomic window: the steps left, and what it holds off (R270, R271). -/
structure Window where
  left : Nat
  deriving DecidableEq, Repr

/-- What windows have held off and is still waiting (R271). -/
structure HeldOff where
  events : List Nat
  halt   : Bool
  req    : Bool
  deriving DecidableEq, Repr

/-- A channel. -/
structure Channel where
  st     : ChSt
  g      : Vector Word 16
  pc     : Word
  csw    : Word
  fsw    : Word
  wm     : Word
  sc     : Word
  vl     : Nat
  slim   : Word
  lsav   : Word
  lpst   : Nat
  lps    : Vector Word 4
  lpe    : Vector Word 4
  lpc    : Vector Word 4
  vbar   : Word
  d      : Vector (BitVec 128) 8
  v      : Vector (BitVec 8192) 16
  m      : Vector (BitVec 256) 8
  pmask  : Word
  weight : Nat
  steps  : BitVec 48
  stepsH : BitVec 16
  wraps  : BitVec 16
  /-- picoseconds that the replica stage has spent on the step it is in -/
  inStep : Nat
  xcause : Word
  xaddr  : Word
  xelem  : Word
  rbase  : Vector Word 16
  rattr  : Vector Word 16
  resv   : Option Nat
  loads  : List Load
  /-- those of them whose requests have left the device, oldest first -/
  remotes : List RLoad
  nextId : Nat
  stq    : List StEntry
  wait   : Wait
  /-- lines of the instruction cache, and blocks of the fetch buffer (R71) -/
  icache : List Nat
  fbuf   : List Nat
  vcache : List VEntry
  /-- vectors that a preload has still to load, in order, while the fetch of the first has to wait (R254) -/
  preload : List Nat
  slots  : List Slot
  group  : Option Slot
  drains : List Drain
  nextSid : Nat
  /-- a provisional instruction's exception with the pc it stacks (R82) -/
  heldX  : Option (Exc × Word)
  /-- store errors not yet reported (R523) -/
  impr   : List Word
  window : Option Window
  heldOff : HeldOff
  req    : Option ChReq
  /-- a lookup has met a parity error: the channel issues nothing further before the reset that follows (R285) -/
  mute   : Bool
  /-- the model's own: the Sextant is feeding it an instruction; false between commands (R465) -/
  fed    : Bool
  deriving DecidableEq, Repr

/-- Every G register, vector, mask and descriptor register is undefined after reset (R40); the model starts them at 0
(log 2). The other values are those of R41-R47. -/
def Channel.reset : Channel where
  st := .stopped
  g := .replicate 16 0
  pc := 0
  csw := 0x1000
  fsw := 0
  wm := 0
  sc := 0
  vl := 0
  slim := 0
  lsav := 0
  lpst := 0
  lps := .replicate 4 0
  lpe := .replicate 4 0
  lpc := .replicate 4 0
  vbar := 0
  d := .replicate 8 0
  v := .replicate 16 0
  m := .replicate 8 0
  pmask := 0
  weight := 4
  steps := 0
  stepsH := 0
  wraps := 0
  inStep := 0
  xcause := 0
  xaddr := 0
  xelem := 0
  rbase := .replicate 16 0
  rattr := .replicate 16 0
  resv := none
  loads := []
  remotes := []
  nextId := 0
  stq := []
  wait := .none
  icache := []
  fbuf := []
  vcache := []
  preload := []
  slots := []
  group := none
  drains := []
  nextSid := 1
  heldX := none
  impr := []
  window := none
  heldOff := ⟨[], false, false⟩
  req := none
  mute := false
  fed := false

end Sys2Proof.Machine
end

