-- ==== Sys2Proof/Machine/DevState.lean ====
section
/-! DEFINITION. What the device holds beside its channels and registers: the pipes and the Ledger Engine, the Logbook,
the command rings, the Binnacle's management state, the reset controller and the Sextant. -/
namespace Sys2Proof.Machine

/-- A microsequencer slice (R16, R31, R35): the ROM address and the microword it fetched last, the patch RAM address it
fetches from next while it runs patched microwords, the microwords run of the present machine instruction, and the
quarters of a step that its microwords have lasted (R34), and the unit-local micro-registers of its A, B and D (R32; their
width is the model's choice, log 61). -/
structure USeq where
  addr     : BitVec 15
  word     : Word
  patch    : Option (BitVec 10)
  run      : Nat
  quarters : Nat
  regs     : Vector (BitVec 64) 32
  deriving DecidableEq, Repr

/-- A pipe (R16, R21): the strip it runs, its turn in the weighted round robin, whose microprogram it holds, its two
relay buffers and its operand staging buffer by position, and its load, execute and store slices. -/
structure PipeSt where
  work   : Option (Chan × Nat × Nat)
  turn   : Chan
  served : Nat
  prog   : Option (Chan × Nat)
  /-- entries of a relay buffer, 256 of 8 bytes, by position in the strip (R17, R105) -/
  relay  : Vector (List (Nat × BitVec 64)) 2
  /-- entries of the staging buffer, by the number of the memory operand in the group and the position in the strip (R16) -/
  stage  : List (Nat × BitVec 64)
  useq   : Vector USeq 3
  steps  : BitVec 48
  stepsH : BitVec 16
  wraps  : BitVec 16
  /-- picoseconds that its replica stage has spent on the step it is in -/
  inStep : Nat
  deriving DecidableEq, Repr

/-- A context slot of the Ledger Engine (R239). -/
structure LSlot where
  ctx   : Option LCtx
  pin   : Bool
  owner : Chan
  deriving DecidableEq, Repr

/-- Where a channel's context is (LGE_CTXn.LOC, R248). -/
inductive Loc where
  | none
  | inSlot (i : Fin 4)
  | saved
  | lost
  deriving DecidableEq, Repr

/-- A context that was spilled: the 240 bytes of STATE that went to memory, and what they stand for (R242). -/
structure Saved where
  state : List Byte
  ctx   : LCtx
  deriving DecidableEq, Repr

/-- A reload in progress (R241): the channel, the slot, and what the save area must name. -/
structure LLoad where
  chan : Chan
  slot : Fin 4
  pc   : Word
  opc  : Byte
  area : Word
  deriving DecidableEq, Repr

/-- The Ledger Engine. -/
structure Ledger where
  /-- the channel that holds the engine, the slot it works in, and its slot-class instruction once begun -/
  cur   : Option Chan
  using_ : Option (Fin 4)
  work  : Option LCtx
  slots : Vector LSlot 4
  /-- by channel; the entry of the Binnacle core, which runs no Ledger instruction (R370), is never used -/
  loc   : Vector Loc 17
  /-- where the contexts of outer frames are, innermost first: saved or lost, each with its home save area -/
  under : Vector (List (Loc × Word)) 17
  home  : Vector Word 17
  saved : Vector (List Saved) 17
  /-- slots, least recently served first (R239) -/
  order : List (Fin 4)
  /-- the round robin's last channel and the turns it has had (R24) -/
  turn  : Chan
  served : Nat
  /-- the context that a spill in progress moves: its owner and its slot -/
  spill : Option (Chan × LCtx × Fin 4)
  load  : Option LLoad
  deriving DecidableEq, Repr

/-- A Logbook record (R440): NCAP is the length of `words`. -/
structure LogRec where
  seq    : Nat
  cls    : Nat
  code   : Nat
  time   : Nat
  source : Nat
  rep    : Nat
  words  : List Word
  deriving DecidableEq, Repr

/-- A hold queue entry: its record, and the time of the last occurrence merged into it (R448, R451). -/
structure Held where
  rec_ : LogRec
  last : Nat
  deriving DecidableEq, Repr

/-- A token bucket of one generator and code (R447): the level in millionths of a token, and when it stood so. -/
structure Bucket where
  source : Nat
  cls    : Nat
  code   : Nat
  level  : Nat
  at_    : Nat
  deriving DecidableEq, Repr

/-- The Logbook (R439-R454). `recs` and `hold` have the newest record first. -/
structure Logbook where
  recs    : List LogRec
  hold    : List Held
  /-- merges into the last written record while frozen (R451) -/
  pend    : Nat
  seq     : Nat
  /-- time of the last occurrence merged into the newest record -/
  lastOcc : Nat
  frzAt   : Nat
  lossSeen : Bool
  rsel    : Vector Word 32
  buckets : List Bucket
  /-- records waiting for the recorder (R443) -/
  waiting : List LogRec
  /-- capture offsets in no block, whose reads the default target has still to answer (R305, R446) -/
  stray   : List Nat
  deriving DecidableEq, Repr

/-- A command packet (R345). -/
structure Packet where
  opcode  : Nat
  tag     : Nat
  fence   : Bool
  cond    : Bool
  prog    : Bool
  fwd     : Bool
  dev     : Nat
  pty     : Nat
  len     : Nat
  p0      : Word
  p1      : Word
  payload : List Byte
  deriving DecidableEq, Repr

/-- A status (R347): code, DETAIL and RESULT. -/
structure Status where
  code   : Nat
  detail : Word := 0
  result : Word := 0
  deriving DecidableEq, Repr

/-- What a started command waits for: its channel to stop (R359), the handover and wipe of its bank (R360), or the
channels it halts (R460). -/
inductive Awaits where
  | chan (c : Chan)
  | halts (mask : Word)
  | bank (b : Fin 32) (was : Nat) (wipe : Bool)
  deriving DecidableEq, Repr

/-- A command that has started (R351), with the status it ends with once that is known. -/
structure Running where
  pkt   : Packet
  fast  : Bool
  waits : Option Awaits
  final : Option Status
  deriving DecidableEq, Repr

/-- What a command ring holds beside its registers. -/
structure RingSt where
  run  : Option Running
  /-- status of the previous packet since the ring was enabled (R353) -/
  prev : Option Nat
  /-- a packet sent to a cascade device, waiting for its status (R368) -/
  fwd  : Option Packet
  /-- EN was cleared while the command ran: its status is discarded (R342) -/
  drop : Bool
  /-- SHEAD as the device uses it: a doorbell write that halts the ring moves only the register (R343) -/
  head : Nat
  /-- what the two doorbells were last written with, which a read of them returns (R344) -/
  dbC  : Nat
  dbS  : Nat
  deriving DecidableEq, Repr

/-- A packet that the device has accepted and not yet started: it waits for an earlier one of its source, for an object that
another command acts on, or for the Binnacle (R354, R368, R384, R400, R461). -/
structure WaitPkt where
  src   : CmdSrc
  bytes : List Byte
  /-- port and KEYID of a packet of the management VLAN -/
  port  : Fin 4
  keyId : Byte
  deriving DecidableEq, Repr

/-- A pending cross-bearing proposal (R302). -/
structure Proposal where
  party  : Party
  item   : Nat
  nonce  : Word
  digest : Word
  value  : List Byte
  time   : Nat
  deriving DecidableEq, Repr

/-- A boot descriptor copy (R387): its sequence number, the active slot and a valid bit per slot, for firmware and for
patches, and the CRC-32 that it holds. -/
structure BootDesc where
  seq    : Nat
  fwB    : Bool
  fwOk   : Bool × Bool
  pB     : Bool
  pOk    : Bool × Bool
  crc    : Word
  deriving DecidableEq, Repr

/-- What the settings image mirrors of the retained store (R483, R484). -/
structure Settings where
  regs   : List (Nat × Word)
  masks  : List (Word × Nat)     -- CHn_PMASK and CHn_WEIGHT, C0 first
  nonce  : Word
  role   : Bool
  subsys : Word
  rxCeil : Nat
  txCeil : Nat
  deriving DecidableEq, Repr

/-- A record position of the settings image, with the CRC-32 in its header (R484). -/
structure SettingsRec where
  pos : Nat
  seq : Nat
  val : Settings
  crc : Word
  deriving DecidableEq, Repr

/-- The SPI NOR (R386). -/
structure Nor where
  desc0    : BootDesc
  desc1    : BootDesc
  fwA      : List Byte
  fwB      : List Byte
  pA       : List Byte
  pB       : List Byte
  settings : List SettingsRec
  deriving DecidableEq, Repr

/-- The fuses (R336, R373, R382): the life-cycle state, a security version for each image kind, whether the image key has
been blown, the credential verifiers, the production and the development image-signing key, the image key, the
attestation key, the spare column groups of the banks, and the calibration factor of the step-rate monitors in
65,536ths (log 58). -/
structure Fuses where
  lcs       : Nat
  svnFw     : Nat
  svnPatch  : Nat
  keyBlown  : Bool
  verifiers : Vector (Option (BitVec 384)) 4
  signers   : Vector (List Byte) 2
  imageKey  : BitVec 256
  attKey    : BitVec 384
  repair    : Vector (BitVec 4) 33
  calib     : Nat
  deriving DecidableEq, Repr

/-- The sensors and the voltage loop (R372-R377). -/
structure Sensors where
  temps    : List (BitVec 16)
  rails    : List (BitVec 16)
  srm      : List (BitVec 16)
  power    : Word
  time     : Nat
  /-- EST values, newest first (R373) -/
  hist     : List Nat
  setpoint : Nat
  /-- the set-point it steps towards, and the tick of its last step (R28, R375) -/
  goal     : Nat
  stepAt   : Nat
  throttle : Bool
  /-- throttling has turned to raising the set-point -/
  rising   : Bool
  warned   : Bool
  fault    : Bool
  deriving DecidableEq, Repr

/-- The console (R383), in ticks. -/
structure Console where
  party : Option Nat
  fails : Nat
  lock  : Option Nat
  deriving DecidableEq, Repr

/-- The SPDM responder (R381): how far the negotiation has gone, and the messages exchanged since it began, newest first,
which its signatures cover. -/
structure Spdm where
  version : Bool
  caps    : Bool
  algs    : Bool
  msgs    : List (List Byte)
  deriving DecidableEq, Repr

/-- The Binnacle's own state. -/
structure Bnm where
  meas     : Vector (BitVec 384) 8
  mgmtKey  : Option (BitVec 256)
  rxLast   : Nat
  txNext   : Nat
  rxCeil   : Nat
  txCeil   : Nat
  patch    : List Byte
  fwVer    : Word
  patchVer : Word
  /-- a slot activated and not yet started to READY, firmware and patch (R392) -/
  freshFw  : Bool
  freshP   : Bool
  /-- the first start from the new slot has begun -/
  triedFw  : Bool
  triedP   : Bool
  prop     : Option Proposal
  /-- proposals ended by a reset or a tamper, whose outcome is logged at the next start (R302) -/
  aborted  : List (Proposal × Bool)
  console  : Console
  sensors  : Sensors
  spdm     : Spdm
  wdg      : Nat
  lastSet  : Option Nat
  role     : Bool
  subsys   : Word
  halted   : Bool
  /-- item 07h has been applied and its system reset is due (R395) -/
  lcReset  : Bool
  deriving DecidableEq, Repr

/-- The commands' state (R340-R369, R400). -/
structure Cmds where
  rings : Vector RingSt 4
  mbx   : Option Running
  mbxReq : List Byte
  mbxReply : List Byte
  mbxDone : Bool
  vlan  : Option Running
  /-- port, KEYID of the running VLAN packet, and the record its reply carries beside the status -/
  vlanPort : Fin 4
  vlanKey  : Byte
  vlanData : List Byte
  /-- packets forwarded to this device, by the ring they came from -/
  fwd   : Vector (Option Running) 4
  /-- packets that wait to start, oldest first -/
  waiting : List WaitPkt
  /-- a reset that DEV_RESET has asked for: `true` for a system reset (R359) -/
  asked : Option Bool
  deriving DecidableEq, Repr

/-- The levels of reset (R469). -/
inductive Level where | core | system | power
  deriving DecidableEq, Repr

/-- A reset that has been requested and not yet applied (R472, R473): its level, cause bits and CRIT. -/
structure ResetReq where
  level : Level
  bits  : Nat
  crit  : Nat
  /-- an error of the retained store is among the causes (R483) -/
  lost  : Bool
  deriving DecidableEq, Repr

/-- The reset controller (R472, R473, R480): the start step reached, and a reset being held. -/
structure Rst where
  /-- a reset of this level has been applied and not yet released -/
  hold    : Option Level
  req     : Option ResetReq
  stage   : Nat
  /-- the thermal trip holds the reset (R377) -/
  therm   : Bool
  /-- rails below their thresholds (R479) -/
  rails   : List Rail
  /-- the release comes no sooner than this tick: 1 ms after the last rail was good again (R479) -/
  railWait : Nat
  ddrLost : Bool
  /-- the coming start loads the settings image, as power-on does (R483, R485) -/
  load    : Bool
  /-- ticks since the release of the start in progress -/
  since   : Nat
  /-- step 1 of the start has sampled LODESTAR -/
  lodestar : Bool
  /-- compute watchdog: remaining ticks, and whether a CH_START has come since the reset (R474) -/
  cwdg    : Nat
  cwdgGo  : Bool
  /-- lockup delay running, ticks left (R277) -/
  lockup  : Option Nat
  deriving DecidableEq, Repr

/-- The Sextant and the TAP (R456, R457). -/
structure Sx where
  ir    : BitVec 6
  /-- boundary register, bypass bit and pins' hold -/
  bsr   : List Bool
  pinsHeld : Bool
  highz : Bool
  /-- the last SXACC result: data, offset, STATUS -/
  data  : Word
  off   : BitVec 28
  stat  : BitVec 2
  /-- who asked for the halt of each channel: the origin's code, and whether ALL -/
  asker : Vector Nat 17
  bnmAsker : Nat
  all   : Bool
  /-- accesses of SX_MDATA that wait, oldest first: address, and the word of a write (R457, R466) -/
  pend  : List (Nat × Option Word)
  /-- the fed instruction that waits for memory: its channel and its twelve bytes (R465) -/
  feeding : Option (Chan × List Byte)
  deriving DecidableEq, Repr

/-- The last answer the device gave to a command from outside (a read's data, a status, a message). -/
inductive Answer where
  | none
  | word (w : Word)
  | abort
  | unsupported
  | retry
  | bytes (l : List Byte)
  | bits (l : List Bool)
  deriving DecidableEq, Repr

end Sys2Proof.Machine
end

