-- ==== Sys2Proof/Machine/IfState.lean ====
section
/-! DEFINITION. What the interfaces hold beside their registers (13): PCI Express, the network ports, the Kenrid ports,
the phase-reference inputs, the Chronometer, the timers, the trip supervision and the GPIO pins. -/
namespace Sys2Proof.Machine

/-- A read that has left the device for a channel (R407, R435). -/
structure Remote where
  tag    : Nat
  chan   : Chan
  kenrid : Bool
  addr   : Nat
  deriving DecidableEq, Repr

/-- A frame in a port's transmit buffer (R416). -/
structure TxFrame where
  bytes : List Byte
  ptp   : Bool
  deriving DecidableEq, Repr

/-- A network port (R409-R418). -/
structure NxSt where
  up    : Bool
  stats : Vector (BitVec 64) 11
  /-- SEQ of the last frame each rule took since it was enabled (R415) -/
  seqs  : Vector (Option Word) 16
  /-- slots written whose WIDX advance has still to come (R417) -/
  full  : Vector Nat 4
  tx    : List TxFrame
  deriving DecidableEq, Repr

/-- What a flit carries to another device (R430): a memory request to its physical address, a command or status packet of a
ring, the time, or a signal. -/
inductive FlitBody where
  | read (addr len : Nat)
  | write (addr : Nat) (bytes : List Byte)
  | command (ring : Fin 4) (packet : List Byte)
  | status (ring : Fin 4) (packet : List Byte)
  | time (ns : Nat)
  | signal (kind : Bool) (value : Nat)
  deriving DecidableEq, Repr

/-- A flit: its destination, 15 for the neighbour only, what it carries, and its source device (R430). -/
structure Flit where
  dest : Nat
  body : FlitBody
  src  : Nat
  deriving DecidableEq, Repr

/-- A sent flit that has not been acknowledged (R431): its sequence number, how often it was replayed, and the CRC of its
256 bytes. -/
structure SentFlit where
  seq   : BitVec 12
  tries : Nat
  flit  : Flit
  crc   : Word
  deriving DecidableEq, Repr

/-- A Kenrid port (R430-R435). -/
structure KlSt where
  sent    : List SentFlit
  /-- flits that wait for room in the replay buffer, oldest first -/
  queued  : List Flit
  nextSeq : BitVec 12
  /-- the last sequence number received good, and whether the last flit was answered with a NAK -/
  got     : BitVec 12
  nak     : Bool
  /-- the link's delay in ns, as last measured (R433) -/
  delay   : Nat
  deriving DecidableEq, Repr

/-- The cascade (R432): whether this device is the lodestar, its index, the devices known, the ports that lead to
them, and the devices lost. -/
structure Cascade where
  lodestar : Bool
  index    : Nat
  devices  : Nat
  routes   : Vector (Option (Fin 4)) 8
  /-- the devices found behind each port, nearest first -/
  branch   : Vector (List (Fin 8)) 4
  deriving DecidableEq, Repr

/-- What the interfaces hold. -/
structure Ifc where
  /-- standard PCI Express configuration registers that have been written -/
  cfg     : List (Nat × Word)
  /-- AER uncorrectable error status (R402, R404) -/
  aer     : Word
  /-- MSI-X enable and function mask (R406), messages sent, newest first -/
  msixEn  : Bool
  fmask   : Bool
  msgs    : List Nat
  /-- configuration requests: 0 electrical idle, 1 retry, 2 normal (R480) -/
  cfgMode : Nat
  remote  : List Remote
  nextTag : Nat
  nx      : Vector NxSt 4
  kl      : Vector KlSt 4
  casc    : Cascade
  /-- ns of offset still to be removed by running fast or slow (R419) -/
  slew    : Int
  /-- prescaler counts of the timers (R421) -/
  tmrPre  : Vector Nat 16
  /-- values of TMRn_CMP and TMRn_CNT that wait for the next advance (R421) -/
  tmrNew  : Vector (Option Word × Option Word) 16
  kpFifo  : Vector (List (BitVec 64)) 16
  kpLast  : Vector (Option Nat) 16
  gpio    : Word
  /-- ticks since the last kick or period write, heartbeat level and its phase (R426) -/
  hbCnt   : Nat
  hbLevel : Bool
  hbPhase : Nat
  /-- the tick in which TRIP_LATCH bits were last set, and the bits set in it (R425) -/
  tripSet : Nat × Word
  deriving DecidableEq, Repr

end Sys2Proof.Machine
end

