-- ==== Sys2Proof/Machine/RegMap.lean ====
section
/-! DEFINITION. The map of the control space (R305): where each block and register lies, and for each register the
bits that are RW, W1C or W1S, its power-on value, which of its bits a system or a core reset keeps or restores
(R10), and who may write it. The registers of the channel blocks stand in `Channel` (Machine/State.lean), and a few
registers whose value is computed from other state are read in Machine/Ctl.lean. -/
namespace Sys2Proof.Machine

/-- Who may write a register. Every master but a channel writes with one of these permissions. -/
inductive Writers where
  | none       -- read-only registers, and those only the device itself changes
  | all        -- every master
  | bnm        -- the Binnacle (and the Sextant, R457)
  | bnmHost    -- the Binnacle and the host
  | sextant    -- the Sextant and the Binnacle (R468)
  deriving DecidableEq, Repr

/-- One row of the register map: instance `i, j` of the register lies at `base + i * s1 + j * s2`. -/
structure RegDesc where
  base : Nat
  s1   : Nat := 4
  n1   : Nat := 1
  s2   : Nat := 0
  n2   : Nat := 1
  rw   : Word := 0
  w1c  : Word := 0
  w1s  : Word := 0
  por  : Word := 0
  /-- bits marked T at system reset -/
  t    : Word := 0
  /-- bits marked K at system reset -/
  k    : Word := 0
  /-- bits kept or restored at core reset -/
  c    : Word := 0
  wr   : Writers := .none
  /-- an ordinary read has a side effect -/
  side : Bool := false
  /-- marked PK: a peek returns the value without the side effect -/
  pk   : Bool := false
  deriving DecidableEq, Repr

/-- All 32 bits. -/
def ones : Word := 0xFFFFFFFF

namespace R
/-! Offsets in the control space. -/
def evcfg (n : Nat) : Nat := 0x200000 + 4 * n
def evcPend (k : Nat) : Nat := 0x200800 + 4 * k
def evcSet : Nat := 0x200840
def evcLockCfg : Nat := 0x200844
def evcLockStat : Nat := 0x200848
def evcLockCause (n : Nat) : Nat := 0x200880 + 4 * n
def evcLockAddr (n : Nat) : Nat := 0x2008C0 + 4 * n
def lgeCfg : Nat := 0x400000
def lgeStat : Nat := 0x400004
def lgeSlot (i : Nat) : Nat := 0x400010 + 4 * i
def lgeCtx (n : Nat) : Nat := 0x400040 + 4 * n
def lgeSpillCnt : Nat := 0x400080
def lgeReloadCnt : Nat := 0x400084
def lgeSufCnt : Nat := 0x400088
def lgeLostCnt : Nat := 0x40008C
def smsCfg : Nat := 0x500000
def smsPrio : Nat := 0x500004
def smsResv : Nat := 0x500008
def smsOutst : Nat := 0x500010
def smsMinit : Nat := 0x500020
def mcCfg (m : Nat) : Nat := 0x600000 + 0x10000 * m
def mcCtl (m : Nat) : Nat := 0x600004 + 0x10000 * m
def mcEccCnt (m : Nat) : Nat := 0x600010 + 0x10000 * m
def mcSealCnt (m : Nat) : Nat := 0x600014 + 0x10000 * m
def mcErrAddrL (m : Nat) : Nat := 0x600018 + 0x10000 * m
def mcErrAddrH (m : Nat) : Nat := 0x60001C + 0x10000 * m
def mcScrubCnt (m : Nat) : Nat := 0x600020 + 0x10000 * m
def cbOwner (n : Nat) : Nat := 0x700000 + 4 * n
def cbcPolicy : Nat := 0x700100
def cbcSblend : Nat := 0x700104
def cbcDeny : Nat := 0x700108
def cbcDenyCnt : Nat := 0x70010C
def cbcRepair (n : Nat) : Nat := 0x700200 + 4 * n
def cbcEccCnt : Nat := 0x700300
def cbcErrInfo : Nat := 0x700304
def xbMwgt (n : Nat) : Nat := 0x800000 + 4 * n
def xbDefAddrL : Nat := 0x800040
def xbDefAddrH : Nat := 0x800044
def xbDefCnt : Nat := 0x800048
def nxCfg (p : Nat) : Nat := 0x900000 + 0x10000 * p
def nxTxtsL (p : Nat) : Nat := 0x900008 + 0x10000 * p
def nxTxtsH (p : Nat) : Nat := 0x90000C + 0x10000 * p
def nxStatL (p k : Nat) : Nat := 0x900100 + 0x10000 * p + 8 * k
def nxStatH (p k : Nat) : Nat := 0x900104 + 0x10000 * p + 8 * k
def nxRuleMatch (p r : Nat) : Nat := 0x900200 + 0x10000 * p + 0x10 * r
def nxRuleKey (p r : Nat) : Nat := 0x900204 + 0x10000 * p + 0x10 * r
def nxRuleConc (p r : Nat) : Nat := 0x900208 + 0x10000 * p + 0x10 * r
def nxRingCfg (p r : Nat) : Nat := 0x900400 + 0x10000 * p + 0x20 * r
def nxRingWidx (p r : Nat) : Nat := 0x900404 + 0x10000 * p + 0x20 * r
def nxRingRidx (p r : Nat) : Nat := 0x900408 + 0x10000 * p + 0x20 * r
def nxRingThr (p r : Nat) : Nat := 0x90040C + 0x10000 * p + 0x20 * r
def pxCfg : Nat := 0xA00000
def pxObbase : Nat := 0xA00004
def pxLink : Nat := 0xA00008
def msixTable (n w : Nat) : Nat := 0xA01000 + 16 * n + 4 * w
def msixPba (k : Nat) : Nat := 0xA03000 + 4 * k
def klCfg (q : Nat) : Nat := 0xB00000 + 0x10000 * q
def klStat (q : Nat) : Nat := 0xB00004 + 0x10000 * q
def klCrcCnt (q : Nat) : Nat := 0xB00008 + 0x10000 * q
def klReplayCnt (q : Nat) : Nat := 0xB0000C + 0x10000 * q
def klSigStat (q : Nat) : Nat := 0xB00010 + 0x10000 * q
def klWinBase (d : Nat) : Nat := 0xB08000 + 4 * d
def klSignal : Nat := 0xB08040
def kpCfg (i : Nat) : Nat := 0xC00000 + 0x20 * i
def kpTsl (i : Nat) : Nat := 0xC00004 + 0x20 * i
def kpTsh (i : Nat) : Nat := 0xC00008 + 0x20 * i
def kpStat (i : Nat) : Nat := 0xC0000C + 0x20 * i
def kpRevCnt (i : Nat) : Nat := 0xC00010 + 0x20 * i
def gpioDir : Nat := 0xC00400
def gpioOut : Nat := 0xC00404
def gpioSet : Nat := 0xC00408
def gpioClr : Nat := 0xC0040C
def gpioIn : Nat := 0xC00410
def gpioEdge (h : Nat) : Nat := 0xC00414 + 4 * h
def tripCfg : Nat := 0xC00600
def tripLatch : Nat := 0xC00604
def tripClr : Nat := 0xC00608
def tripMask : Nat := 0xC0060C
def tripHbcfg : Nat := 0xC00610
def tripHbkick : Nat := 0xC00614
def chrTimeL : Nat := 0xD00000
def chrTimeH : Nat := 0xD00004
def chrStat : Nat := 0xD00008
def chrAlmL (k : Nat) : Nat := 0xD00010 + 8 * k
def chrAlmH (k : Nat) : Nat := 0xD00014 + 8 * k
def chrArm : Nat := 0xD00030
def wdgCfg : Nat := 0xD00100
def wdgKick : Nat := 0xD00104
def wdgCnt : Nat := 0xD00108
def tmrCfg (n : Nat) : Nat := 0xD00200 + 0x10 * n
def tmrCmp (n : Nat) : Nat := 0xD00204 + 0x10 * n
def tmrCnt (n : Nat) : Nat := 0xD00208 + 0x10 * n
def lbCfg : Nat := 0xE00000
def lbStat : Nat := 0xE00004
def lbSeqL : Nat := 0xE00008
def lbSeqH : Nat := 0xE0000C
def lbClrCnt : Nat := 0xE00010
def lbLostCnt : Nat := 0xE00014
def lbHoldLostCnt : Nat := 0xE00018
def lbRlCnt : Nat := 0xE0001C
def lbFrz : Nat := 0xE00020
def lbFrzMask : Nat := 0xE00024
def lbClear : Nat := 0xE00028
def lbRsel : Nat := 0xE0002C
def lbRwin (w : Nat) : Nat := 0xE00040 + 4 * w
def lbTrig (k : Nat) : Nat := 0xE00100 + 4 * k
def lbRate (c : Nat) : Nat := 0xE00180 + 4 * c
def lbCap (c k : Nat) : Nat := 0xE00200 + 0x40 * c + 4 * k
def rstCause : Nat := 0xF00000
def rstStat : Nat := 0xF00004
def ringCbaseL (n : Nat) : Nat := 0x1000000 + 0x40 * n
def ringCbaseH (n : Nat) : Nat := 0x1000004 + 0x40 * n
def ringSbaseL (n : Nat) : Nat := 0x1000008 + 0x40 * n
def ringSbaseH (n : Nat) : Nat := 0x100000C + 0x40 * n
def ringCfg (n : Nat) : Nat := 0x1000010 + 0x40 * n
def ringChead (n : Nat) : Nat := 0x1000014 + 0x40 * n
def ringCtail (n : Nat) : Nat := 0x1000018 + 0x40 * n
def ringStail (n : Nat) : Nat := 0x100001C + 0x40 * n
def ringShead (n : Nat) : Nat := 0x1000020 + 0x40 * n
def ringStat (n : Nat) : Nat := 0x1000024 + 0x40 * n
def ringCmdCnt (n : Nat) : Nat := 0x1000028 + 0x40 * n
def bnmCmdCfg : Nat := 0x1000100
def bnmTstep : Nat := 0x1000200
def bnmVctl : Nat := 0x1000204
def bnmTherm : Nat := 0x1000208
def bnmLcs : Nat := 0x100020C
def bnmTamper : Nat := 0x1000210
def bnmWdgCfg : Nat := 0x1000214
def bnmWdgKick : Nat := 0x1000218
def bnmMeas (i : Nat) : Nat := 0x1000400 + 0x30 * i
def sxPeekFail : Nat := 0x1100000
def sxHaltReq : Nat := 0x1100004
def sxRelease : Nat := 0x1100008
def sxHalted : Nat := 0x110000C
def sxFeed (i : Nat) : Nat := 0x1100010 + 4 * i
def sxFeedCtl : Nat := 0x110001C
def sxFeedStat : Nat := 0x1100020
def sxFeedRes : Nat := 0x1100024
def sxMaddrL : Nat := 0x1100040
def sxMaddrH : Nat := 0x1100044
def sxMdata : Nat := 0x1100048
def sxMctl : Nat := 0x110004C
def sxDtx (n : Nat) : Nat := 0x1100100 + 4 * n
def sxDrx (n : Nat) : Nat := 0x1100140 + 4 * n
def sxTstat : Nat := 0x1100180
def kcKtbase : Nat := 0x1200000
def kcKtlen : Nat := 0x1200004
def kcCfg : Nat := 0x1200008
def kcMissCnt : Nat := 0x1200010
def kcRefuseCnt : Nat := 0x1200014
def xbgStat : Nat := 0x1201000
def xbgNonce : Nat := 0x1201004
def xbgGpol (n : Nat) : Nat := 0x1201040 + 4 * n
end R

/-- Register rows of the event controller, the Ledger Engine, the SMS, the memory controllers and the chart
controller (08 R258, 07 R248, 10 R315, R327, R337, 09 R296). -/
def regMapA : List RegDesc :=
  [ { base := R.evcfg 0, n1 := 512, rw := 0x37F, t := 0x37F, c := 0x37F, wr := .bnmHost },
    { base := R.evcPend 0, n1 := 16, w1c := ones, c := ones, wr := .bnmHost, pk := true },
    { base := R.evcSet, wr := .all },
    { base := R.evcLockCfg, rw := 0xFF, por := 0x8A, t := 0xFF, c := 0xFF, wr := .bnmHost },
    { base := R.evcLockStat },
    { base := R.evcLockCause 0, n1 := 16 },
    { base := R.evcLockAddr 0, n1 := 16 },
    { base := R.lgeCfg, rw := 0x71FFF, por := 0x30100, t := 0x71FFF, c := 0x71FFF, wr := .bnm },
    { base := R.lgeStat, por := 0x400 },
    { base := R.lgeSlot 0, n1 := 4 },
    { base := R.lgeCtx 0, n1 := 16 },
    { base := R.lgeSpillCnt, n1 := 4 },
    { base := R.smsCfg, rw := 0x707FF, por := 0x603E8, t := 0x707FF, c := 0x707FF, wr := .bnm },
    { base := R.smsPrio, rw := 0xFFFF, t := 0xFFFF, c := 0xFFFF, wr := .bnm },
    { base := R.smsResv, rw := 0x7F, t := 0x7F, c := 0x7F, wr := .bnm },
    { base := R.smsOutst, pk := true },
    { base := R.smsMinit, t := 0x8007FFFF, c := 0x8007FFFF },
    { base := R.mcCfg 0, s1 := 0x10000, n1 := 8, c := ones },
    { base := R.mcCtl 0, s1 := 0x10000, n1 := 8, rw := 0xFF03, por := 0x1801, t := 0xFF03, c := 0xFF03, wr := .bnm },
    { base := R.mcEccCnt 0, s1 := 0x10000, n1 := 8, c := ones, wr := .bnm, pk := true },
    { base := R.mcSealCnt 0, s1 := 0x10000, n1 := 8, c := ones, wr := .bnm, pk := true },
    { base := R.mcErrAddrL 0, s1 := 0x10000, n1 := 8, c := ones },
    { base := R.mcErrAddrH 0, s1 := 0x10000, n1 := 8, c := ones },
    { base := R.mcScrubCnt 0, s1 := 0x10000, n1 := 8, c := ones },
    { base := R.cbOwner 0, n1 := 32, rw := 0x1F, por := 0x10, t := 0x1F, c := 0x1F, wr := .all },
    { base := R.cbcPolicy, por := 1, t := 3, c := 3 },
    { base := R.cbcSblend },
    { base := R.cbcDeny },
    { base := R.cbcDenyCnt },
    { base := R.cbcRepair 0, n1 := 33, k := ones, c := ones },
    { base := R.cbcEccCnt, c := ones, wr := .bnm, pk := true },
    { base := R.cbcErrInfo, c := ones } ]

/-- Register rows of the crossbar, the network ports, the PCI Express and Kenrid blocks (10 R311, 13). -/
def regMapB : List RegDesc :=
  [ { base := R.xbMwgt 0, n1 := 16, rw := 0xF, por := 4, t := 0xF, c := 0xF, wr := .bnm },
    { base := R.xbDefAddrL, c := ones },
    { base := R.xbDefAddrH, c := ones },
    { base := R.xbDefCnt, c := ones },
    { base := R.nxCfg 0, s1 := 0x10000, n1 := 4, rw := 0x0FFF003F, t := 0x0FFF003F, c := 0x0FFF003F, wr := .bnmHost },
    { base := R.nxTxtsL 0, s1 := 0x10000, n1 := 4, s2 := 4, n2 := 2, c := ones, pk := true },
    { base := R.nxStatL 0 0, s1 := 0x10000, n1 := 4, s2 := 8, n2 := 11, c := ones, side := true },
    { base := R.nxStatH 0 0, s1 := 0x10000, n1 := 4, s2 := 8, n2 := 11, c := ones },
    { base := R.nxRuleMatch 0 0, s1 := 0x10000, n1 := 4, s2 := 0x10, n2 := 16, rw := 0x1FFFF, t := 0x1FFFF,
      c := 0x1FFFF, wr := .bnmHost },
    { base := R.nxRuleKey 0 0, s1 := 0x10000, n1 := 4, s2 := 0x10, n2 := 16, rw := 0xFFFF, t := 0xFFFF, c := 0xFFFF,
      wr := .bnmHost },
    { base := R.nxRuleConc 0 0, s1 := 0x10000, n1 := 4, s2 := 0x10, n2 := 16, rw := ones, por := 0xFFFF0000,
      t := ones, c := ones, wr := .bnmHost },
    { base := R.nxRingCfg 0 0, s1 := 0x10000, n1 := 4, s2 := 0x20, n2 := 4, rw := ones, t := ones, c := ones,
      wr := .bnmHost },
    { base := R.nxRingWidx 0 0, s1 := 0x10000, n1 := 4, s2 := 0x20, n2 := 4, c := 0x7FF, pk := true },
    { base := R.nxRingRidx 0 0, s1 := 0x10000, n1 := 4, s2 := 0x20, n2 := 4, rw := 0x7FF, c := 0x7FF, wr := .all },
    { base := R.nxRingThr 0 0, s1 := 0x10000, n1 := 4, s2 := 0x20, n2 := 4, rw := 0x7FF, t := 0x7FF, c := 0x7FF,
      wr := .bnmHost },
    { base := R.pxCfg, rw := 1, t := 1, c := 1, wr := .bnm },
    { base := R.pxObbase, rw := 0xFFFFFF, t := 0xFFFFFF, c := 0xFFFFFF, wr := .bnm },
    { base := R.pxLink, c := 0x1FF, pk := true },
    { base := R.msixTable 0 0, s1 := 16, n1 := 512, rw := 0xFFFFFFFC, c := ones, wr := .bnmHost },
    { base := R.msixTable 0 1, s1 := 16, n1 := 512, s2 := 4, n2 := 2, rw := ones, c := ones, wr := .bnmHost },
    { base := R.msixTable 0 3, s1 := 16, n1 := 512, rw := 1, por := 1, c := ones, wr := .bnmHost },
    { base := R.msixPba 0, n1 := 16, c := ones },
    { base := R.klCfg 0, s1 := 0x10000, n1 := 4, rw := 0xF1, t := 0xF1, c := 0xF1, wr := .bnmHost },
    { base := R.klStat 0, s1 := 0x10000, n1 := 4, c := 0x7F, pk := true },
    { base := R.klCrcCnt 0, s1 := 0x10000, n1 := 4, c := ones, pk := true },
    { base := R.klReplayCnt 0, s1 := 0x10000, n1 := 4, c := ones, pk := true },
    { base := R.klSigStat 0, s1 := 0x10000, n1 := 4, c := ones, pk := true },
    { base := R.klWinBase 0, n1 := 8, rw := 0xFF, t := 0xFF, c := 0xFF, wr := .bnmHost },
    { base := R.klSignal, wr := .all } ]

/-- Register rows of the phase-reference, GPIO, trip, Chronometer, timer and watchdog registers (13, 15). -/
def regMapC : List RegDesc :=
  [ { base := R.kpCfg 0, s1 := 0x20, n1 := 16, rw := 0xFFFF0003, t := 0xFFFF0003, c := 0xFFFF0003, wr := .all },
    { base := R.kpTsl 0, s1 := 0x20, n1 := 16, c := ones, side := true, pk := true },
    { base := R.kpTsh 0, s1 := 0x20, n1 := 16, c := ones },
    { base := R.kpStat 0, s1 := 0x20, n1 := 16, c := ones, pk := true },
    { base := R.kpRevCnt 0, s1 := 0x20, n1 := 16, c := ones },
    { base := R.gpioDir, rw := ones, t := ones, c := ones, wr := .all },
    { base := R.gpioOut, rw := ones, t := ones, c := ones, wr := .all },
    { base := R.gpioSet, wr := .all },
    { base := R.gpioClr, wr := .all },
    { base := R.gpioIn, c := ones },
    { base := R.gpioEdge 0, n1 := 2, rw := ones, t := ones, c := ones, wr := .all },
    { base := R.tripCfg, rw := 0x1FFFF, t := 0x1FFFF, c := 0x1FFFF, wr := .bnmHost },
    { base := R.tripLatch, w1s := 0xFF, c := 0xFF, wr := .all },
    { base := R.tripClr, wr := .bnmHost },
    { base := R.tripMask, rw := 0xFF, t := 0xFF, c := 0xFF, wr := .bnmHost },
    { base := R.tripHbcfg, rw := 0xFFFF, t := 0xFFFF, c := 0x1FFFF, wr := .bnmHost },
    { base := R.tripHbkick, wr := .all },
    { base := R.chrTimeL, c := ones, side := true, pk := true },
    { base := R.chrTimeH, c := ones, pk := true },
    { base := R.chrStat, c := 7 },
    { base := R.chrAlmL 0, n1 := 8, rw := ones, c := ones, wr := .all },
    { base := R.chrArm, w1s := 0xF, c := 0xF, wr := .all },
    { base := R.wdgCfg, rw := 0x13FFF, por := 0x3E8, t := 0x13FFF, c := 0x13FFF, wr := .bnmHost },
    { base := R.wdgKick, wr := .all },
    { base := R.wdgCnt, pk := true },
    { base := R.tmrCfg 0, s1 := 0x10, n1 := 16, rw := 0xF3, t := 0xF2, c := 0xF2, wr := .all },
    { base := R.tmrCmp 0, s1 := 0x10, n1 := 16, rw := ones, t := ones, c := ones, wr := .all },
    { base := R.tmrCnt 0, s1 := 0x10, n1 := 16, rw := ones, wr := .all, pk := true } ]

/-- Register rows of the Logbook, reset, Binnacle, Sextant, key-cache and cross-bearing blocks (14, 15, 11, 12, 09). -/
def regMapD : List RegDesc :=
  [ { base := R.lbCfg, rw := 0x3FF, por := 0x64, t := 0x3FF, c := 0x3FF, wr := .bnmHost },
    { base := R.lbStat, w1c := 0x800000, k := 0x80FFFF, c := ones, wr := .bnmHost, pk := true },
    { base := R.lbSeqL, k := ones, c := ones, side := true, pk := true },
    { base := R.lbSeqH, k := ones, c := ones, pk := true },
    { base := R.lbClrCnt, n1 := 4, k := ones, c := ones, pk := true },
    { base := R.lbFrz, wr := .all },
    { base := R.lbFrzMask, c := 0xFFFF0000, pk := true },
    { base := R.lbClear, wr := .all },
    { base := R.lbRsel, wr := .all },
    { base := R.lbRwin 0, n1 := 16 },
    { base := R.lbTrig 0, n1 := 15, rw := ones, t := ones, c := ones, wr := .bnmHost },
    { base := R.lbTrig 15, rw := ones, por := 0xFFFF0000, t := ones, c := ones, wr := .bnmHost },
    { base := R.lbRate 0, n1 := 16, rw := 0xFFFF, por := 0x64, t := 0xFFFF, c := 0xFFFF, wr := .bnmHost },
    { base := R.lbCap 0 0, s1 := 0x40, n1 := 16, s2 := 4, n2 := 11, rw := 0x9FFFFFFC, t := 0x9FFFFFFC,
      c := 0x9FFFFFFC, wr := .bnmHost },
    { base := R.rstCause, por := 1, k := ones, c := ones, pk := true },
    { base := R.rstStat, k := 0xC, c := 0xFF, pk := true },
    { base := R.ringCbaseL 0, s1 := 0x40, n1 := 4, s2 := 8, n2 := 2, rw := 0xFFFFFFC0, c := ones, wr := .bnmHost },
    { base := R.ringCbaseH 0, s1 := 0x40, n1 := 4, s2 := 8, n2 := 2, rw := ones, c := ones, wr := .bnmHost },
    { base := R.ringCfg 0, s1 := 0x40, n1 := 4, rw := 0x10F0F, por := 0x707, c := 0x10F0F, wr := .bnmHost },
    { base := R.ringChead 0, s1 := 0x40, n1 := 4, s2 := 4, n2 := 2, c := 0xFFFF, pk := true },
    { base := R.ringStail 0, s1 := 0x40, n1 := 4, por := 0x10000, c := 0x1FFFF, pk := true },
    { base := R.ringShead 0, s1 := 0x40, n1 := 4, c := 0xFFFF, pk := true },
    { base := R.ringStat 0, s1 := 0x40, n1 := 4, c := ones },
    { base := R.ringCmdCnt 0, s1 := 0x40, n1 := 4, c := ones, pk := true },
    { base := R.bnmCmdCfg, rw := 0x3FF, por := 0x64, t := 0x3FF, c := 0x3FF, wr := .bnmHost },
    { base := R.bnmTstep, c := ones, pk := true },
    { base := R.bnmVctl, rw := 0x3FF03FF, por := 0x2F80320, t := 0x3FF03FF, c := 0x3FF03FF, wr := .bnm },
    { base := R.bnmTherm, rw := 0xFFFF, por := 0x645F, t := 0xFFFF, c := 0xFFFF, wr := .bnm },
    { base := R.bnmLcs, t := 0x700, k := 7, c := ones },
    { base := R.bnmTamper, w1c := 7, k := ones, c := ones, wr := .bnm },
    { base := R.bnmWdgCfg, rw := 0x3FFF, por := 0x3E8, c := 0x3FFF, wr := .bnm },
    { base := R.bnmWdgKick, wr := .bnm },
    { base := R.bnmMeas 0, n1 := 96, c := ones, pk := true },
    { base := R.sxPeekFail, w1c := 0x80000000, k := ones, c := ones, wr := .sextant },
    { base := R.sxHaltReq, w1s := 0x3FFFF, c := 0x20000, wr := .sextant },
    { base := R.sxRelease, wr := .sextant },
    { base := R.sxHalted, c := 0x20000 },
    { base := R.sxFeed 0, n1 := 3, rw := ones, c := ones, wr := .sextant },
    { base := R.sxFeedCtl, wr := .sextant },
    { base := R.sxFeedStat },
    { base := R.sxFeedRes, c := ones },
    { base := R.sxMaddrL, rw := ones, c := ones, wr := .sextant },
    { base := R.sxMaddrH, rw := 0xFFFF, c := 0xFFFF, wr := .sextant },
    { base := R.sxMdata, c := ones, side := true, wr := .sextant },
    { base := R.sxMctl, rw := 0x1F, w1c := 0x20, por := 0x11, c := 0x3F, wr := .sextant },
    { base := R.sxDtx 0, n1 := 16, side := true, wr := .sextant },
    { base := R.sxDrx 0, n1 := 16, side := true, wr := .sextant },
    { base := R.sxTstat, pk := true },
    { base := R.kcKtbase, t := 0xFFFFFF, c := 0xFFFFFF },
    { base := R.kcKtlen, t := 0x7FFFF, c := 0x7FFFF },
    { base := R.kcCfg, rw := 0xFF, t := 0xFF, c := 0xFF, wr := .bnm },
    { base := R.kcMissCnt },
    { base := R.kcRefuseCnt },
    { base := R.xbgStat, t := 0xF0000, c := ones },
    { base := R.xbgNonce, t := ones, c := ones },
    { base := R.xbgGpol 0, n1 := 16, por := ones, t := ones, c := ones } ]

/-- The whole register map. -/
def regMap : List RegDesc := regMapA ++ regMapB ++ regMapC ++ regMapD

/-- Whether offset `o` is one of the instances of the row. -/
def RegDesc.covers (d : RegDesc) (o : Nat) : Bool :=
  d.base ≤ o &&
    (let r := o - d.base
     if d.n2 ≤ 1 then r % d.s1 == 0 && r / d.s1 < d.n1
     else r / d.s1 < d.n1 && (r % d.s1) % d.s2 == 0 && (r % d.s1) / d.s2 < d.n2)

/-- The row of the register at a word offset, if there is a register. -/
def regDesc (o : Nat) : Option RegDesc := regMap.find? (·.covers o)

/-- The power-on value of the word at an offset; reserved offsets read 0 (R11). -/
def regPor (o : Nat) : Word := ((regDesc o).map (·.por)).getD 0

/-- Whether an offset lies in one of the blocks of R305. A block extends over its instances; each single block is
taken to extend to the next block's base, the KC block to 1000h bytes (log 7). -/
def inBlock (o : Nat) : Bool :=
  o < 0x110000 || (0x200000 ≤ o && o < 0x320000) || (0x400000 ≤ o && o < 0x680000) ||
  (0x700000 ≤ o && o < 0x940000) || (0xA00000 ≤ o && o < 0xB40000) || (0xC00000 ≤ o && o < 0x1202000)

/-- The blocks BAR0 hides (R404): RST and RET, SX, KC and XBG. -/
def barHidden (o : Nat) : Bool :=
  (0xF00000 ≤ o && o < 0x1000000) || 0x1100000 ≤ o

end Sys2Proof.Machine
end

