-- ==== Sys2Proof/Machine/Sha.lean ====
section
/-! DEFINITION. SHA-384 of FIPS 180-4, which R300, R379, R383 and R388 name, and the CRC-32 of R520. -/
namespace Sys2Proof.Machine

/-! FIPS 180-4 defines its constants rather than choosing them: they are the first 64 bits of the fractional parts of
the cube roots of the first eighty primes and, for SHA-384, of the square roots of the ninth to the sixteenth. Computing
them here leaves no table to mistype. -/

/-- Whether `p`, which is below 529, is prime. -/
def isPrime (p : Nat) : Bool := 1 < p && (List.range 23).all fun d => d < 2 || p ≤ d || p % d != 0

/-- The first eighty primes. -/
def shaPrimes : List Nat := (List.range 410).filter isPrime

/-- The integer part of a `k`-th root below 2^70, bit by bit from the top. -/
def rootFloor (k n : Nat) : Nat := (List.range 70).foldr (fun i r => if (r + 2 ^ i) ^ k ≤ n then r + 2 ^ i else r) 0

/-- The first 64 bits of the fractional part of a `k`-th root. -/
def rootBits (k p : Nat) : BitVec 64 := BitVec.ofNat 64 (rootFloor k (p * 2 ^ (64 * k)))

/-- The constant of each of the eighty rounds. -/
def shaRounds : List (BitVec 64) := shaPrimes.map (rootBits 3)

/-- The working variables as two histories, newest first: `a` to `d` are the last four values of one recurrence, `e` to
`h` those of the other. -/
structure ShaWork where
  upper : List (BitVec 64)
  lower : List (BitVec 64)

/-- Where SHA-384 starts. -/
def shaStart : ShaWork :=
  let h := ((shaPrimes.drop 8).take 8).map (rootBits 2)
  ⟨h.take 4, h.drop 4⟩

/-- The exclusive or of a word's rotations to the right. -/
def turns (l : List Nat) (x : BitVec 64) : BitVec 64 := l.foldl (fun r k => r ^^^ x.rotateRight k) 0

/-- The number that bytes spell, most significant first. -/
def beNat (l : List Byte) : Nat := l.foldl (fun n b => n * 256 + b.toNat) 0

/-- The `n` low bytes of a number, most significant first. -/
def beBytes (n v : Nat) : List Byte := (leBytes n v).reverse

/-- The word after those of a message schedule that is written newest first. -/
def shaExtend (w : List (BitVec 64)) : BitVec 64 :=
  let near := w.getD 1 0
  let far := w.getD 14 0
  w.getD 15 0 + w.getD 6 0 + (turns [1, 8] far ^^^ far >>> 7) + (turns [19, 61] near ^^^ near >>> 6)

/-- One round, with the sum of its constant and its schedule word. -/
def shaRound (x : ShaWork) (kw : BitVec 64) : ShaWork :=
  let up := fun i => x.upper.getD i 0
  let lo := fun i => x.lower.getD i 0
  let choice := (lo 0 &&& lo 1) ||| (lo 2 &&& ~~~ lo 0)
  let majority := (up 0 &&& (up 1 ||| up 2)) ||| (up 1 &&& up 2)
  let t := kw + choice + turns [14, 18, 41] (lo 0) + lo 3
  ⟨(turns [28, 34, 39] (up 0) + majority + t) :: x.upper.take 3, (up 3 + t) :: x.lower.take 3⟩

/-- One block of 128 bytes: eighty rounds, whose outcome is added to what the block found. -/
def shaBlock (x : ShaWork) (blk : List Byte) : ShaWork :=
  let first := (List.range 16).foldl (fun w i => BitVec.ofNat 64 (beNat ((blk.drop (8 * i)).take 8)) :: w) []
  let words := ((List.range 64).foldl (fun w _ => shaExtend w :: w) first).reverse
  let y := (List.zipWith (· + ·) shaRounds words).foldl shaRound x
  ⟨List.zipWith (· + ·) x.upper y.upper, List.zipWith (· + ·) x.lower y.lower⟩

/-- A message with its padding: a one bit, zeros, and its length in bits, to whole blocks. -/
def shaPadded (m : List Byte) : List Byte :=
  m ++ 0x80 :: (List.replicate ((239 - m.length % 128) % 128) 0 ++ beBytes 16 (8 * m.length))

/-- SHA-384 of a byte string: the first six of the eight words that its last block leaves, 48 bytes. -/
def sha384 (m : List Byte) : List Byte :=
  let p := shaPadded m
  let x := (List.range (p.length / 128)).foldl (fun x i => shaBlock x ((p.drop (128 * i)).take 128)) shaStart
  (x.upper ++ x.lower.take 2).flatMap fun w => beBytes 8 w.toNat

/-- A digest as the value a register or fuse holds: its bytes, least significant first. -/
def digest (l : List Byte) : BitVec 384 := BitVec.ofNat 384 (leNat (sha384 l))

/-- The remainder of one bit less of the reflected polynomial of IEEE 802.3 (R520). -/
def crc32Bit (c : Word) : Word := c >>> 1 ^^^ (if c.getLsbD 0 then 0xEDB88320 else 0)

/-- One byte into the CRC-32 of R520, least significant bit first. -/
def crc32Byte (crc : Word) (b : Byte) : Word := Nat.repeat crc32Bit 8 (crc ^^^ b.zeroExtend 32)

/-- The CRC-32 of R520. -/
def crc32 (l : List Byte) : Word := ~~~ l.foldl crc32Byte 0xFFFFFFFF

end Sys2Proof.Machine
end

