-- ==== Sys2Proof/Machine/State.lean ====
section
/-! DEFINITION. The state of the SQ7420 and its state right after power-on reset (INVENTORY.md, ## State). -/
namespace Sys2Proof.Machine

/-- The reasons a step may stop with a fault. No meaning of this model raises one: every exception, error response
and lockup of the manual is a next state. -/
inductive Fault where
  /-- Raised by nothing (safe). -/
  | none
  deriving DecidableEq, Repr

/-- The reasons a command may be refused. -/
inductive Refusal where
  /-- Raised by `exec` for a command that has no meaning yet, named by its mnemonic (safe). -/
  | notModelled (mnemonic : String)
  deriving DecidableEq, Repr

/-- The machine. Memories and registers are sparse lists in canonical form (`canonB`). -/
structure State where
  /-- the commands that wait, first in first out -/
  pending  : List Instr
  /-- the channels C0 to C15, and at 16 the Binnacle core (R370) -/
  chans    : Vector Channel 17
  /-- control-space words outside the channel blocks, by offset; an unlisted word holds its power-on value -/
  regs     : List (Nat × Word)
  /-- DRAM, chart banks and sealed bank by physical address; an unlisted byte is 0 (R329, R337) -/
  mem      : List Host.Cell
  /-- host memory by host address; an unlisted byte reads 0 (log 8) -/
  host     : List Host.Cell
  /-- poisoned DRAM lines, by physical address / 64 (R323) -/
  poison   : List Nat
  /-- stored seals that are not their own line's, by line, newest first: a write that reached the wrong line left them
  (R321); every other sealed line holds its own -/
  seals    : List (Nat × BitVec 16)
  /-- poisoned chart and sealed-bank words, by physical address / 4 (R334) -/
  cpoison  : List Nat
  /-- 1 GiB chunks initialised ahead of the sweep (R328) -/
  chunks   : List Nat
  /-- key-cache lines, by physical address / 64 of the key table (R289) -/
  kcache   : List Nat
  /-- banks that are being wiped, 32 for the sealed bank (R294, R296) -/
  wiping   : List Nat
  /-- handovers that have not taken effect: bank, new owner, wipe (R294) -/
  handover : List (Nat × Nat × Bool)
  pipes    : Vector PipeSt 32
  lge      : Ledger
  /-- the microsequencer slices of the SMS and of the Ledger Engine (R16, R31) -/
  smsSeq   : USeq
  lgeSeq   : USeq
  patchRam : List Word
  comps    : List Word
  log      : Logbook
  cmds     : Cmds
  nor      : Nor
  fuses    : Fuses
  bnm      : Bnm
  rst      : Rst
  sx       : Sx
  ifc      : Ifc
  /-- the Chronometer (R419) -/
  time     : BitVec 64
  /-- ticks of the fabric since power-on: the measure of every interval in ticks -/
  ticks    : Nat
  /-- the model's own: how many free values have been taken (log 1) -/
  free     : Nat
  /-- the model's own: the last answer given to the outside (log 9) -/
  answer   : Answer
  deriving DecidableEq, Repr

/-- A microsequencer slice that has fetched nothing. -/
def USeq.reset : USeq := ⟨0, 0, none, 0, 0, .replicate 32 0⟩

/-- A pipe after reset. -/
def PipeSt.reset : PipeSt := ⟨none, 0, 0, none, .replicate 2 [], [], .replicate 3 .reset, 0, 0, 0, 0⟩

/-- The Ledger Engine after reset: four free slots, no context. -/
def Ledger.reset : Ledger where
  cur := none
  using_ := none
  work := none
  slots := .replicate 4 ⟨none, false, 0⟩
  loc := .replicate 17 .none
  under := .replicate 17 []
  home := .replicate 17 0
  saved := .replicate 17 []
  order := [0, 1, 2, 3]
  turn := 0
  served := 0
  spill := none
  load := none

/-- The record that power-on writes into slot 0 (R439, R444): its word is the reset-cause register. -/
def powerOnRec (cause : Word) : LogRec := ⟨0, 0, 0, 0, 0x211, 0, [cause]⟩

/-- The Logbook after power-on. -/
def Logbook.reset (cause : Word) : Logbook where
  recs := [powerOnRec cause]
  hold := []
  pend := 0
  seq := 0
  lastOcc := 0
  frzAt := 0
  lossSeen := false
  rsel := .replicate 32 0
  buckets := []
  stray := []
  waiting := []

/-- A ring after reset. -/
def RingSt.reset : RingSt := ⟨none, none, none, false, 0, 0, 0⟩

/-- The commands' state after reset. -/
def Cmds.reset : Cmds where
  rings := .replicate 4 .reset
  mbx := none
  mbxReq := []
  mbxReply := []
  mbxDone := false
  vlan := none
  vlanPort := 0
  vlanKey := 0
  vlanData := []
  fwd := .replicate 4 none
  waiting := []
  asked := none

/-- The bytes of a boot descriptor that precede its CRC: the sequence number, then one byte for the active slots and the
valid bits. The manual fixes their order only as far as the number comes first (R387, log 57). -/
def BootDesc.bytes (d : BootDesc) : List Byte :=
  let flags := [d.fwB, d.fwOk.1, d.fwOk.2, d.pB, d.pOk.1, d.pOk.2]
  leBytes 4 d.seq ++ [BitVec.ofNat 8 (flags.foldr (fun b n => b.toNat + 2 * n) 0)]

/-- Whether a copy's CRC is valid (R387, R520). -/
def BootDesc.crcOk (d : BootDesc) : Bool := d.crc == crc32 d.bytes

/-- A copy with the CRC of its bytes. -/
def BootDesc.sealed (d : BootDesc) : BootDesc := { d with crc := crc32 d.bytes }

/-- The boot descriptor of a device delivered with slot A of both kinds valid (log 5). -/
def BootDesc.factory : BootDesc := BootDesc.sealed ⟨0, false, (true, false), false, (true, false), 0⟩

/-- The NOR as delivered: slots A hold images whose bytes the model does not know, no settings record (log 5). -/
def Nor.factory : Nor where
  desc0 := .factory
  desc1 := { BootDesc.factory with crc := ~~~BootDesc.factory.crc }
  fwA := []
  fwB := []
  pA := []
  pB := []
  settings := []

/-- The fuses of a production part (log 5). -/
def Fuses.factory : Fuses where
  lcs := 2
  svnFw := 0
  svnPatch := 0
  keyBlown := false
  verifiers := .replicate 4 none
  signers := #v[Config.imageSigner 0, Config.imageSigner 1]
  imageKey := Config.imageKey
  attKey := Config.attestationKey
  repair := Vector.ofFn fun n => Config.repair n.val
  calib := Config.calib

/-- The sensors before their first sample (log 4). -/
def Sensors.reset : Sensors where
  temps := List.replicate 24 0
  rails := List.replicate 12 0
  srm := List.replicate 32 0
  power := 0
  time := 0
  hist := []
  setpoint := 800
  goal := 800
  stepAt := 0
  throttle := false
  rising := false
  warned := false
  fault := false

/-- The Binnacle after power-on. -/
def Bnm.reset : Bnm where
  meas := .replicate 8 0
  mgmtKey := none
  rxLast := 0
  txNext := 0
  rxCeil := 0
  txCeil := 0
  patch := []
  fwVer := 0
  patchVer := 0
  freshFw := false
  freshP := false
  triedFw := false
  triedP := false
  prop := none
  aborted := []
  console := ⟨none, 0, none⟩
  sensors := .reset
  spdm := ⟨false, false, false, []⟩
  wdg := 1000000000
  lastSet := none
  role := false
  subsys := 0x00001E9D
  halted := false
  lcReset := false

/-- The reset controller with a power-on reset applied and not yet released. -/
def Rst.reset : Rst where
  hold := some .power
  req := none
  stage := 0
  therm := false
  rails := []
  railWait := 0
  ddrLost := true
  load := true
  since := 0
  lodestar := false
  cwdg := 0
  cwdgGo := false
  lockup := none

/-- The Sextant at Test-Logic-Reset: IDCODE selected (R456). -/
def Sx.reset : Sx where
  ir := 1
  bsr := []
  pinsHeld := false
  highz := false
  data := 0
  off := 0
  stat := 0
  asker := .replicate 17 0
  bnmAsker := 0
  pend := []
  feeding := none
  all := false

/-- A network port after reset. -/
def NxSt.reset : NxSt := ⟨false, .replicate 11 0, .replicate 16 none, .replicate 4 0, []⟩

/-- The interfaces after reset. -/
def Ifc.reset : Ifc where
  cfg := []
  aer := 0
  msixEn := false
  fmask := false
  msgs := []
  cfgMode := 0
  remote := []
  nextTag := 0
  nx := .replicate 4 .reset
  kl := .replicate 4 ⟨[], [], 0, 0, false, 0⟩
  casc := ⟨false, 0, 1, .replicate 8 none, .replicate 4 []⟩
  slew := 0
  tmrPre := .replicate 16 0
  tmrNew := .replicate 16 (none, none)
  kpFifo := .replicate 16 []
  kpLast := .replicate 16 none
  gpio := 0
  hbCnt := 0
  hbLevel := false
  hbPhase := 0
  tripSet := (0, 0)

/-- Right after power-on reset (R469, R472): RST_CAUSE names POR_N, the Logbook holds the POWER_ON record, every
register has its power-on value, every channel is stopped, and the start of R480 has still to run. -/
def State.reset : State where
  pending := []
  chans := .replicate 17 .reset
  regs := []
  mem := []
  host := []
  poison := []
  seals := []
  cpoison := []
  chunks := []
  kcache := []
  wiping := []
  handover := []
  pipes := .replicate 32 .reset
  lge := .reset
  smsSeq := .reset
  lgeSeq := .reset
  patchRam := []
  comps := []
  log := .reset 1
  cmds := .reset
  nor := .factory
  fuses := .factory
  bnm := .reset
  rst := .reset
  sx := .reset
  ifc := .reset
  time := 0
  ticks := 0
  free := 0
  answer := .none

end Sys2Proof.Machine
end

