-- ==== Sys2Proof/Machine/Base.lean ====
section
/-! DEFINITION. The named reads and updates of the state's parts. -/
namespace Sys2Proof.Machine

/-- The channels C0 to C15. -/
def channels : List Chan := (List.finRange 16).map Fin.castSucc

/-- Channel `c`. -/
def State.chan (s : State) (c : Chan) : Channel := s.chans[c]
/-- Replace channel `c`. -/
def State.setChan (s : State) (c : Chan) (ch : Channel) : State := { s with chans := s.chans.set c ch }
/-- Change channel `c` by `f`. -/
def State.modChan (s : State) (c : Chan) (f : Channel → Channel) : State := s.setChan c (f (s.chan c))

/-- The stored word of a control-space register outside the channel blocks. -/
def State.reg (s : State) (o : Nat) : Word := look regPor s.regs o
/-- Store a control-space word. -/
def State.setReg (s : State) (o : Nat) (w : Word) : State := { s with regs := store regPor s.regs o w }
/-- Change a control-space word by `f`. -/
def State.modReg (s : State) (o : Nat) (f : Word → Word) : State := s.setReg o (f (s.reg o))
/-- Set field [hi:lo] of a control-space word. -/
def State.setFld (s : State) (o hi lo v : Nat) : State := s.modReg o (wset · hi lo v)
/-- Field [hi:lo] of a control-space word. -/
def State.rfld (s : State) (o hi lo : Nat) : Nat := wfld (s.reg o) hi lo
/-- Bit `i` of a control-space word. -/
def State.rbit (s : State) (o i : Nat) : Bool := bit (s.reg o) i
/-- Set bit `i` of a control-space word. -/
def State.setBit (s : State) (o i : Nat) (b : Bool) : State := s.modReg o (wbit · i b)
/-- Count one more in a 32-bit counter that saturates (R493). -/
def State.count (s : State) (o : Nat) : State := s.modReg o fun w => if w = ones then w else w + 1
/-- Count one more in field [hi:lo], which saturates (R493). -/
def State.countFld (s : State) (o hi lo : Nat) : State :=
  s.modReg o fun w => wset w hi lo (satInc (2 ^ (hi + 1 - lo) - 1) (wfld w hi lo))

/-- The canonical form of a memory: addresses rise strictly, and no entry is 0, which an unlisted address reads as. -/
def Memory.wf (m : List Host.Cell) : Bool := canonB (fun _ => (0 : Byte)) m

/-- A byte of memory at a physical address; a byte nothing has written is 0 (R329, R337). -/
def State.byte (s : State) (a : Nat) : Byte := look (fun _ => (0 : Byte)) s.mem a
/-- Set a byte of memory. -/
def State.setByte (s : State) (a : Nat) (b : Byte) : State := { s with mem := store (fun _ => (0 : Byte)) s.mem a b }
/-- `n` bytes of memory. -/
def State.bytes (s : State) (a : Nat) : Nat → List Byte
  | 0 => []
  | n + 1 => s.byte a :: s.bytes (a + 1) n
/-- Set bytes of memory. -/
def State.setBytes (s : State) (a : Nat) : List Byte → State
  | [] => s
  | b :: bs => (s.setByte a b).setBytes (a + 1) bs

/-- A byte of host memory. -/
def State.hbyte (s : State) (a : Nat) : Byte := look (fun _ => (0 : Byte)) s.host a
/-- `n` bytes of host memory. -/
def State.hbytes (s : State) (a : Nat) : Nat → List Byte
  | 0 => []
  | n + 1 => s.hbyte a :: s.hbytes (a + 1) n
/-- Set bytes of host memory. -/
def State.setHbytes (s : State) (a : Nat) : List Byte → State
  | [] => s
  | b :: bs =>
    ({ s with host := store (fun _ => (0 : Byte)) s.host a b } : State).setHbytes (a + 1) bs

/-- Take a free word (log 1): nothing constrains it. -/
def State.freeWord (s : State) : Word × State := (Config.freeWord s.free, { s with free := s.free + 1 })
/-- Take `n` free bytes. -/
def State.freeBytes (s : State) (n : Nat) : List Byte × State :=
  ((List.range n).map (Config.freeByte s.free), { s with free := s.free + 1 })

/-- Answer the outside. -/
def State.answers (s : State) (a : Answer) : State := { s with answer := a }

/-! CSW and FSW fields (R41, R43). -/

/-- CSW.KEY. -/
def Channel.key (ch : Channel) : BitVec 4 := ch.csw.extractLsb' 8 4
/-- CSW.AKEY. -/
def Channel.akey (ch : Channel) : BitVec 4 := ch.csw.extractLsb' 24 4
/-- CSW.S. -/
def Channel.sup (ch : Channel) : Bool := bit ch.csw 12
/-- CSW.IE. -/
def Channel.ie (ch : Channel) : Bool := bit ch.csw 13
/-- CSW.HND. -/
def Channel.hnd (ch : Channel) : Bool := bit ch.csw 14
/-- CSW.ILVL. -/
def Channel.ilvl (ch : Channel) : Nat := wfld ch.csw 17 15
/-- CSW.LRS. -/
def Channel.lrs (ch : Channel) : Bool := bit ch.csw 18
/-- CSW.SRP. -/
def Channel.srp (ch : Channel) : Bool := bit ch.csw 19
/-- CSW.ATM. -/
def Channel.atm (ch : Channel) : Bool := bit ch.csw 20
/-- CSW.TDZ. -/
def Channel.tdz (ch : Channel) : Bool := bit ch.csw 7
/-- A G register. -/
def Channel.rg (ch : Channel) (r : Reg) : Word := ch.g[r]
/-- Set bit `i` of CSW. -/
def Channel.setCsw (ch : Channel) (i : Nat) (b : Bool) : Channel := { ch with csw := wbit ch.csw i b }
/-- Put a value into a G register; an outstanding load no longer reaches it (R56: program order). -/
def Channel.setG (ch : Channel) (r : Reg) (w : Word) : Channel :=
  { ch with g := ch.g.set r w
            loads := ch.loads.map fun l =>
              { l with dsts := l.dsts.filter fun d => match d with | .g q _ => decide (q ≠ r) | .d _ _ => true } }
/-- Put a value into a descriptor register. -/
def Channel.setD (ch : Channel) (r : Fin 8) (w : BitVec 128) : Channel :=
  { ch with d := ch.d.set r w
            loads := ch.loads.map fun l =>
              { l with dsts := l.dsts.filter fun d => match d with | .g _ _ => true | .d q _ => decide (q ≠ r) } }
/-- CSW.CC. -/
def Channel.cc (ch : Channel) : Nat := wfld ch.csw 5 4

/-- Whether an outstanding load has still to deliver to G register `r` (R56). -/
def Channel.waitsG (ch : Channel) (r : Reg) : Bool :=
  ch.loads.any fun l => l.dsts.any fun d => match d with | .g q _ => decide (q = r) | .d _ _ => false
/-- Whether an outstanding LDD has still to deliver to descriptor `r`. -/
def Channel.waitsD (ch : Channel) (r : Fin 8) : Bool :=
  ch.loads.any fun l => l.dsts.any fun d => match d with | .g _ _ => false | .d q _ => decide (q = r)

/-- CHn_CTL.QUIET: no stream or register-form instruction in flight (R46). -/
def Channel.quiet (ch : Channel) : Bool := ch.slots.isEmpty && ch.group.isNone && ch.drains.isEmpty
/-- CHn_CTL.INFL: slots in use; each member of a group takes one (R74). -/
def Channel.infl (ch : Channel) : Nat :=
  ch.slots.foldl (fun n x => n + x.members.length) 0 + (ch.group.map (·.members.length)).getD 0 +
  ch.drains.foldl (fun n x => n + x.slots.foldl (fun m y => m + y.members.length) 0) 0

/-- The crossbar port of a master (R306). -/
def port : Master → Nat
  | .bnm | .ring _ | .console | .vlan => 0
  | .host => 1
  | .sextant => 2
  | .nx => 3
  | .kl q => if q.val < 2 then 4 else 5
  | .chan c => if c = bnmCore then 0 else 6
  | .rst => 7

/-- The Logbook's requester number (R450): 0-15 the channels, 16 + m master port Mm; the Binnacle core is at M0. -/
def requester : Master → Fin 32
  | .chan c => ⟨c.val, by omega⟩
  | .bnm | .ring _ | .console | .vlan => 16
  | .host => 17
  | .sextant => 18
  | .nx => 19
  | .kl q => if q.val < 2 then 20 else 21
  | .rst => 23

/-- The origin code of a write (R441, R525). -/
def origin : Master → Nat
  | .chan c => 0x200 + c.val
  | .bnm => 0x210
  | .rst => 0x211
  | .sextant => 0x212
  | .ring n => 0x213 + n.val
  | .console => 0x217
  | .vlan => 0x218
  | .host => 0x21A
  | .nx => 0x210
  | .kl _ => 0x210

/-- The OWNER code of a master (R292, R306): the Binnacle core's number is the Binnacle's code. -/
def ownerCode : Master → Nat
  | .chan c => c.val
  | m => 0x10 + port m

/-- The channel that a master is, C0 to C15. -/
def channelOf : Master → Option (Fin 16)
  | .chan c => if h : c.val < 16 then some ⟨c.val, h⟩ else none
  | _ => none

/-- Whether a master writes with the Binnacle's permissions: its own accesses and those made for packets, the console
and the VLAN (R525), and the Sextant's (R457). -/
def asBnm : Master → Bool
  | .bnm | .ring _ | .console | .vlan | .sextant => true
  | .chan c => c == bnmCore
  | _ => false

/-- Whether a register of these writers accepts a write of this master. -/
def Writers.accepts : Writers → Master → Bool
  | .none, _ => false
  | .all, _ => true
  | .bnm, m => asBnm m
  | .bnmHost, m => asBnm m || m == .host
  | .sextant, m => asBnm m

end Sys2Proof.Machine
end

