-- ==== Sys2Proof/Machine/Peek.lean ====
section
/-! DEFINITION. What a control-space word reads as, without side effect: the stored registers, the channel blocks, and
the words computed from other state. -/
namespace Sys2Proof.Machine

/-- A word of a channel block (R46, R269, R281). -/
def Channel.word (ch : Channel) (o : Nat) : Word :=
  if o = 0x000 then BitVec.ofNat 32 (ch.st.code + ch.quiet.toNat * 256 + ch.infl * 65536)
  else if o = 0x004 then ch.pc
  else if o = 0x008 then ch.csw
  else if o = 0x00C then ch.fsw
  else if o = 0x010 then ch.wm
  else if o = 0x014 then ch.sc
  else if o = 0x018 then BitVec.ofNat 32 ch.vl
  else if o = 0x01C then ch.slim
  else if o = 0x020 then ch.lsav
  else if o = 0x024 then BitVec.ofNat 32 ch.lpst
  else if o = 0x028 then ch.vbar
  else if o = 0x030 then ch.pmask
  else if o = 0x034 then BitVec.ofNat 32 ch.weight
  else if o = 0x040 then ch.steps.truncate 32
  else if o = 0x044 then ch.stepsH.zeroExtend 32
  else if o = 0x048 then ch.wraps.zeroExtend 32
  else if o = 0x050 then ch.xcause
  else if o = 0x054 then ch.xaddr
  else if o = 0x058 then ch.xelem
  else if 0x100 ≤ o && o < 0x110 then ch.lps.getD ((o - 0x100) / 4) 0
  else if 0x110 ≤ o && o < 0x120 then ch.lpe.getD ((o - 0x110) / 4) 0
  else if 0x120 ≤ o && o < 0x130 then ch.lpc.getD ((o - 0x120) / 4) 0
  else if 0x400 ≤ o && o < 0x500 then
    (if o % 16 = 0 then ch.rbase.getD ((o - 0x400) / 16) 0
     else if o % 16 = 4 then ch.rattr.getD ((o - 0x400) / 16) 0 else 0)
  else 0

/-- A word of a pipe block (R494). -/
def PipeSt.word (p : PipeSt) (o : Nat) : Word :=
  if o = 0x40 then p.steps.truncate 32
  else if o = 0x44 then p.stepsH.zeroExtend 32
  else if o = 0x48 then p.wraps.zeroExtend 32
  else 0

/-- LGE_STAT (R248). -/
def lgeStat (l : Ledger) : Word :=
  let free := l.slots.toList.countP fun x => x.ctx.isNone && !x.pin
  let pinned := l.slots.toList.countP (·.pin)
  BitVec.ofNat 32 (l.cur.isSome.toNat + (l.cur.map (·.val)).getD 0 * 16 + free * 256 + pinned * 4096)

/-- LGE_SLOTi (R248). -/
def lgeSlotWord (x : LSlot) : Word :=
  BitVec.ofNat 32 (x.ctx.isSome.toNat + x.pin.toNat * 2 +
    (if x.ctx.isSome || x.pin then x.owner.val * 16 else 0) + (x.ctx.map (·.opc.toNat * 256)).getD 0)

/-- The slot pinned to a channel, if there is one. -/
def Ledger.pinOf (l : Ledger) (c : Chan) : Option (Fin 4) :=
  (List.finRange 4).find? fun i => l.slots[i].pin && l.slots[i].owner == c

/-- LGE_CTXn (R248). -/
def lgeCtxWord (l : Ledger) (c : Chan) : Word :=
  let (code, slot) := match l.loc[c] with
    | .none => (0, 0) | .inSlot i => (1, i.val) | .saved => (2, 0) | .lost => (3, 0)
  (BitVec.ofNat 32 (code + slot * 4 + (l.pinOf c).isSome.toNat * 16)) ||| (l.home[c] &&& 0xFFFFFF00)

/-- Requests in flight that stand in bridge `b`, or beyond it in the queue of its controller (R29, R312): loads and atomic
operations whose data have not returned, and stores that are not performed. -/
def State.inFlight (s : State) (sent : Bool) (b : Fin 9) : Nat :=
  s.chans.foldl (fun n ch =>
    ch.stq.foldl (fun n e => if e.stage = 1 + sent.toNat then n + e.via.count b else n)
      (ch.loads.foldl (fun n l => if l.sent = sent then n + l.via.count b else n) n)) 0

/-- Outstanding transactions of the SMS (R312). The lines that a stream, a vector or a Ledger instruction reads and writes
are requested and answered within the command that makes the access, and never outstanding between commands (log 11). -/
def outstanding (s : State) : Nat :=
  min 1024 ((List.finRange 8).foldl (fun n m => n + s.inFlight true m.castSucc) 0)

/-! ### Pins (R424, R426, R428, R456, R489) -/

/-- The level of an output pin. -/
inductive PinLevel where | low | high | highZ
  deriving DecidableEq, Repr

/-- Whether the trip logic and the other pins run: from start step 4 on (R427, R489). -/
def State.tripsRun (s : State) : Bool := s.rst.hold.isNone && 4 ≤ s.rst.stage

/-- A pin of the boundary register: HIGHZ drives none, and under EXTEST and CLAMP its cell drives it (R456). GPIOi is pin i,
TRIPn_N 32 + n, HEARTBEAT 40, SMBALERT_N 41 and LOCKUP_N 42. -/
def State.tapped (s : State) (pin : Nat) (own : PinLevel) : PinLevel :=
  if s.sx.highz then .highZ
  else if s.sx.pinsHeld then (if s.sx.bsr.getD (Config.boundaryCell pin) false then .high else .low)
  else own

/-- GPIOi as the device drives it: an output from start step 4 on (R428, R489). -/
def gpioPin (s : State) (i : Fin 32) : PinLevel :=
  s.tapped i.val (if !s.tripsRun || !s.rbit R.gpioDir i.val then .highZ else if s.rbit R.gpioOut i.val then .high else .low)

/-- The level of each GPIO pin: what the device drives on it, and what the board drives where the device does not. -/
def gpioPins (s : State) : Word :=
  (List.finRange 32).foldl (fun w i => match gpioPin s i with
    | .low => wbit w i.val false
    | .high => wbit w i.val true
    | .highZ => w) s.ifc.gpio

/-- Channels shown in SX_HALTED: halted, with the drain of the halt ended (R460). -/
def haltedMask (s : State) : Nat :=
  channels.foldl (fun n (c : Chan) =>
    let ch := s.chan c
    if ch.st = .halted ∧ ch.drains.all (fun d => d.dest != .stop) then n + 2 ^ c.val else n) 0

/-- A record's sixteen words (R440). -/
def LogRec.bytes (r : LogRec) : List Byte :=
  leBytes 6 r.seq ++ leBytes 2 (r.code + r.cls * 4096) ++ leBytes 8 r.time ++
  leBytes 2 (r.source + r.words.length * 1024) ++ leBytes 2 r.rep ++
  ((r.words ++ List.replicate (11 - r.words.length) 0).flatMap wordBytes)

/-- The record in Logbook slot `k`: slots fill from 0 (R439). -/
def Logbook.slot (l : Logbook) (k : Nat) : Option LogRec :=
  if k < l.recs.length then l.recs[l.recs.length - 1 - k]? else none

/-- LB_STAT (R444): HELD, FULL, FROZEN, HOLDQ, FRZTO. -/
def lbStatWord (s : State) : Word :=
  (s.reg R.lbStat &&& 0x808000) |||
  BitVec.ofNat 32 (s.log.recs.length + (s.reg R.lbFrzMask != 0).toNat * 65536 + s.log.hold.length * 131072)

/-- CBC_REPAIRn of the spare column groups in use: their number and their map (R336). -/
def repairWord (m : BitVec 4) : Word :=
  BitVec.ofNat 32 (((List.range 4).filter m.getLsbD).length + 16 * m.toNat)

/-- CHn_... and the other computed words; `none` where the word is a stored register or reserved. -/
def computed (s : State) (m : Master) (o : Nat) : Option Word :=
  if o = R.lgeStat then some (lgeStat s.lge)
  else if R.lgeSlot 0 ≤ o && o < R.lgeSlot 4 then
    some (if h : (o - R.lgeSlot 0) / 4 < 4 then lgeSlotWord (s.lge.slots[(o - R.lgeSlot 0) / 4]) else 0)
  else if R.lgeCtx 0 ≤ o && o < R.lgeCtx 16 then
    some (if h : (o - R.lgeCtx 0) / 4 < 16 then lgeCtxWord s.lge ⟨(o - R.lgeCtx 0) / 4, by omega⟩ else 0)
  else if o = R.smsOutst then some (BitVec.ofNat 32 (outstanding s))
  else if R.cbOwner 0 ≤ o && o < R.cbOwner 32 then
    some (wbit (s.reg o) 16 (s.wiping.contains ((o - R.cbOwner 0) / 4)))
  else if R.cbcRepair 0 ≤ o && o ≤ R.cbcRepair 32 then some (repairWord (s.fuses.repair.getD ((o - R.cbcRepair 0) / 4) 0))
  else if R.nxStatL 0 0 ≤ o && o < 0x940000 && o % 0x10000 ≥ 0x100 && o % 0x10000 < 0x158 && o % 8 = 0 then
    some (if h : (o - 0x900000) / 0x10000 < 4 then
      ((s.ifc.nx[(o - 0x900000) / 0x10000]).stats.getD ((o % 0x10000 - 0x100) / 8) 0).truncate 32 else 0)
  else if o = R.chrTimeL then some (s.time.truncate 32)
  else if o = R.wdgCnt then some (BitVec.ofNat 32 (s.rst.cwdg / 1000000))
  else if R.kpCfg 0 ≤ o && o < R.kpCfg 16 && o % 0x20 = 4 then
    some (if h : (o - R.kpCfg 0) / 0x20 < 16 then
      (((s.ifc.kpFifo[(o - R.kpCfg 0) / 0x20]).head?.map (·.truncate 32)).getD 0) else 0)
  else if R.kpCfg 0 ≤ o && o < R.kpCfg 16 && o % 0x20 = 0xC then
    some (if h : (o - R.kpCfg 0) / 0x20 < 16 then
      s.reg o ||| BitVec.ofNat 32 (s.ifc.kpFifo[(o - R.kpCfg 0) / 0x20]).length else 0)
  -- what these two read is not stated: the model reads GPIO_OUT (log 48)
  else if o = R.gpioSet ∨ o = R.gpioClr then some (s.reg R.gpioOut)
  else if o = R.gpioIn then some (gpioPins s)
  else if o = R.lbStat then some (lbStatWord s)
  else if o = R.lbSeqL then some (BitVec.ofNat 32 s.log.seq)
  else if o = R.lbFrz then some (ofBool (s.rbit R.lbFrzMask (requester m).val))
  else if o = R.lbRsel then some (s.log.rsel[requester m])
  else if R.lbRwin 0 ≤ o && o < R.lbRwin 16 then
    some (match s.log.slot (s.log.rsel[requester m]).toNat with
      | some r => bytesWord ((r.bytes.drop (o - R.lbRwin 0)).take 4)
      | none => 0)
  else if o = R.bnmLcs then some (wset (s.reg o) 2 0 s.fuses.lcs)
  else if R.bnmMeas 0 ≤ o && o < R.bnmMeas 8 then
    some (if h : (o - R.bnmMeas 0) / 48 < 8 then
      BitVec.ofNat 32 ((s.bnm.meas[(o - R.bnmMeas 0) / 48]).toNat / 2 ^ (8 * ((o - R.bnmMeas 0) % 48))) else 0)
  else if o = R.sxHalted then
    some (BitVec.ofNat 32 (haltedMask s + s.sx.all.toNat * 65536 + s.bnm.halted.toNat * 131072))
  else none

/-- The word at control-space offset `o` (a multiple of 4) as master `m` reads it, without any side effect. Reserved
offsets read 0 (R11), and so do registers that are only written (R9). -/
def peekWord (s : State) (m : Master) (o : Nat) : Word :=
  if 0x100000 ≤ o && o < 0x110000 then
    (if h : (o - 0x100000) / 0x1000 < 16 then (s.chan ⟨(o - 0x100000) / 0x1000, by omega⟩).word (o % 0x1000) else 0)
  else if 0x300000 ≤ o && o < 0x320000 then
    (if h : (o - 0x300000) / 0x1000 < 32 then (s.pipes[(o - 0x300000) / 0x1000]).word (o % 0x1000) else 0)
  else match computed s m o with
    | some w => w
    | none => s.reg o

end Sys2Proof.Machine
end

