-- ==== Sys2Proof/Machine/Log.lean ====
section
/-! DEFINITION. Forming Logbook records, and events: assertion, routing and MSI-X (14 R443-R451, 08 R255-R259). -/
namespace Sys2Proof.Machine

/-- A peek (R459): a register whose read has a side effect and is not marked PK reads 0 and sets SX_PEEKFAIL; any
other read has no side effect. The result says whether the peek failed. -/
def peekReg (s : State) (m : Master) (o : Nat) : Word × Bool × State :=
  match regDesc o with
  | some d =>
    if d.side && !d.pk then (0, true, s.setReg R.sxPeekFail (BitVec.ofNat 32 (o + 2 ^ 31)))
    else (peekWord s m o, false, s)
  | none => (peekWord s m o, false, s)

/-- The enabled entries of a class's capture list, in entry order, as far as a record has room for them (R446). -/
def captureEntries (s : State) (cls room : Nat) : List Word :=
  (((List.range 11).map fun k => s.reg (R.lbCap cls k)).filter (bit · 31)).take room

/-- One captured word. An offset in no block gives 0, and the default target answers the read in the next tick (R305, R311;
log 28). -/
def captureWord (s : State) (off : Nat) : Word × State :=
  if inBlock off then let (w, _, s) := peekReg s .rst off; (w, s)
  else (0, { s with log := { s.log with stray := s.log.stray ++ [off] } })

/-- The words that capture entries name, peeked (R446, R459). -/
def captures (source : Nat) : List Word → State → List Word × State
  | [], s => ([], s)
  | e :: es, s =>
    let off := wfld e 27 0
    let (w, s) :=
      if bit e 28 then
        if 0x200 ≤ source && source < 0x210 then captureWord s (off + 0x1000 * (source - 0x200))
        else (0, s)
      else captureWord s off
    let (ws, s) := captures source es s
    (w :: ws, s)

/-- Whether R447 limits records of this class and code. -/
def rateLimited (cls code : Nat) : Bool := !(cls == 0 || cls == 9 || (cls == 1 && code == 3))

/-- The level of a bucket at tick `now`: full at first, gaining one token each 1/R ms, R tokens deep (R447). -/
def Bucket.levelAt (b : Bucket) (rate now : Nat) : Nat := min (1000000 * rate) (b.level + rate * (now - b.at_))

/-- Take a token for a record of this source, class and code; `none` when the bucket is empty (R447). -/
def takeToken (s : State) (cls code source : Nat) : Option State :=
  let rate := wfld (s.reg (R.lbRate cls)) 15 0
  if !rateLimited cls code || rate == 0 then some s
  else
    let same := fun (b : Bucket) => b.source == source && b.cls == cls && b.code == code
    let level := match s.log.buckets.find? same with
      | some b => b.levelAt rate s.ticks
      | none => 1000000 * rate
    if level < 1000000 then none
    else some { s with log := { s.log with buckets :=
      ⟨source, cls, code, level - 1000000, s.ticks⟩ :: s.log.buckets.filter (fun b => !same b) } }

/-- Form a record (R444, R446, R447): it waits at its generator for the recorder (R443). -/
def formRecord (s : State) (cls code source : Nat) (words : List Word) : State :=
  let (caps, s) := captures source (captureEntries s cls (11 - words.length)) s
  match takeToken s cls code source with
  | none => s.count R.lbRlCnt
  | some s => { s with log := { s.log with waiting := s.log.waiting ++
      [⟨0, cls, code, s.time.toNat, source, 0, (words ++ caps).take 11⟩] } }

/-- Reserved event numbers (R259): a write of EVC_SET that names one is ignored. -/
def eventReserved (n : Nat) : Bool := n == 399 || (320 ≤ n && n < 384 && n % 16 ≥ 13)

/-- Send the MSI-X message of event `n` if MSI-X is enabled, the vector is unmasked and the link is up (R257, R406);
otherwise the pending-bit array holds it. A message is a write of the entry's data to the entry's host address. -/
def deliverHost (s : State) (n : Nat) : State :=
  let masked := s.ifc.fmask || s.rbit (R.msixTable n 3) 0
  if s.ifc.msixEn && !masked && s.rbit R.pxLink 0 then
    let a := (s.reg (R.msixTable n 0)).toNat + 2 ^ 32 * (s.reg (R.msixTable n 1)).toNat
    let s := (s.setHbytes a (wordBytes (s.reg (R.msixTable n 2)))).setBit (R.msixPba (n / 32)) (n % 32) false
    { s.setBit (R.evcPend (n / 32)) (n % 32) false with ifc := { s.ifc with msgs := n :: s.ifc.msgs } }
  else s.setBit (R.msixPba (n / 32)) (n % 32) true

/-- An assertion of event `n` (R255-R257, R445): an EVENT record if LB_TRIG asks for one, whatever the routing; the
pending bit if the source is enabled; delivery to the host if it is routed there. -/
def assertEvent (s : State) (n : Nat) : State :=
  let s := if s.rbit (R.lbTrig (n / 32)) (n % 32) then formRecord s 3 n n [] else s
  let cfg := s.reg (R.evcfg n)
  if bit cfg 8 then
    let s := s.setBit (R.evcPend (n / 32)) (n % 32) true
    if bit cfg 9 then deliverHost s n else s
  else s

/-- Local event `k` of channel `c` (R259); the Binnacle core has none (R370). -/
def chanEvent (s : State) (c : Chan) (k : Nat) : State := if c = bnmCore then s else assertEvent s (8 * c.val + k)

/-- Whether two records may merge, the last occurrence having been at `last` (R448). -/
def mergeable (a : LogRec) (last : Nat) (r : LogRec) : Bool :=
  a.cls == r.cls && a.code == r.code && a.source == r.source && a.words == r.words && last ≤ r.time &&
    r.time - last ≤ 1000000

/-- The highest sequence number that an ordinary record takes: the next one is kept for a LOG_CLEARED record (R491). -/
def maxSeq : Nat := 0xFFFFFFFFFFFE

/-- Write a hold entry, or a new record, to the next slot (R442, R449, R491); when the Logbook is full it is lost. What it
has merged meanwhile counts towards the next merge (R448). -/
def writeHeld (s : State) (h : Held) : State :=
  if s.rbit R.lbStat 15 || maxSeq ≤ s.log.seq then s.count R.lbLostCnt
  else
    let seq := s.log.seq + 1
    let s := { s with log := { s.log with recs := { h.rec_ with seq := seq } :: s.log.recs, seq := seq, lastOcc := h.last } }
    if s.log.recs.length = 16384 ∨ seq = maxSeq then assertEvent (s.setBit R.lbStat 15 true) 499 else s

/-- Write a record to the next slot. -/
def writeRec (s : State) (r : LogRec) : State := writeHeld s ⟨r, r.time⟩

/-- Whether the Logbook is frozen (R451). -/
def frozen (s : State) : Bool := s.reg R.lbFrzMask != 0

/-- Change the newest written record. -/
def Logbook.modLast (l : Logbook) (f : LogRec → LogRec) : Logbook :=
  match l.recs with
  | [] => l
  | r :: rs => { l with recs := f r :: rs }

/-- The recorder accepts a record: it merges, queues or writes it (R448, R451). -/
def acceptRec (s : State) (r : LogRec) : State :=
  if frozen s then
    match s.log.hold, s.log.recs with
    | h :: hs, _ =>
      if mergeable h.rec_ h.last r && h.rec_.rep < 0xFFFF then
        { s with log := { s.log with hold := ⟨{ h.rec_ with rep := h.rec_.rep + 1 }, r.time⟩ :: hs } }
      else if s.log.hold.length < 32 then
        { s with log := { s.log with hold := ⟨r, r.time⟩ :: s.log.hold } }
      else
        let s := s.count R.lbHoldLostCnt
        if s.log.lossSeen then s else assertEvent { s with log := { s.log with lossSeen := true } } 500
    | [], l :: _ =>
      if mergeable l s.log.lastOcc r && l.rep + s.log.pend < 0xFFFF then
        { s with log := { s.log with pend := s.log.pend + 1, lastOcc := r.time } }
      else { s with log := { s.log with hold := [⟨r, r.time⟩] } }
    | [], [] => { s with log := { s.log with hold := [⟨r, r.time⟩] } }
  else
    match s.log.recs with
    | l :: _ =>
      if mergeable l s.log.lastOcc r && l.rep < 0xFFFF then
        { s with log := { s.log.modLast (fun l => { l with rep := l.rep + 1 }) with lastOcc := r.time } }
      else writeRec s r
    | [] => writeRec s r

/-- Write the pending count and the hold queue, oldest entry first (R451, R454). -/
def flushHold (s : State) : State :=
  let log := s.log.modLast fun l => { l with rep := l.rep + s.log.pend }
  s.log.hold.reverse.foldl writeHeld { s with log := { log with pend := 0, hold := [], lossSeen := false } }

/-- Set the freeze mask; a freeze that ends writes what it held (R451). -/
def setFreeze (s : State) (mask : Word) : State :=
  let was := frozen s
  let s := s.setReg R.lbFrzMask mask
  if was && mask == 0 then flushHold s
  else if !was && mask != 0 then { s with log := { s.log with frzAt := s.ticks, lossSeen := false } }
  else s

/-- Set or clear one requester's freeze bit. -/
def freezeBit (s : State) (r : Fin 32) (b : Bool) : State := setFreeze s (wbit (s.reg R.lbFrzMask) r.val b)

/-- Clear the Logbook (R453, R491) on behalf of the origin `who`. A LOG_CLEARED record that takes the last ordinary number
fills the Logbook as any other record with that number does; the one with the number kept for it does so at once. -/
def clearLog (s : State) (who : Nat) : State :=
  let lost := s.reg R.lbLostCnt
  let hlost := s.reg R.lbHoldLostCnt
  let cnt := s.reg R.lbClrCnt + 1
  let s := ((s.setReg R.lbLostCnt 0).setReg R.lbHoldLostCnt 0).setReg R.lbClrCnt cnt
  if s.log.seq = 0xFFFFFFFFFFFF then assertEvent s 501
  else
    let seq := s.log.seq + 1
    let w := [BitVec.ofNat 32 who, BitVec.ofNat 32 s.log.seq, BitVec.ofNat 32 (s.log.seq / 2 ^ 32), lost, hlost, cnt]
    let (caps, s) := captures who (captureEntries s 0 (11 - w.length)) s
    let r : LogRec := ⟨seq, 0, 1, s.time.toNat, who, 0, (w ++ caps).take 11⟩
    let s := { s with log := { s.log with recs := [r], pend := 0, seq := seq, lastOcc := r.time } }
    let s := s.setBit R.lbStat 15 (maxSeq ≤ seq)
    let s := if seq = maxSeq then assertEvent s 499 else s
    assertEvent s 501

end Sys2Proof.Machine
end

