-- ==== Sys2Proof/Machine/Mem.lean ====
section
/-! DEFINITION. Physical memory: the address map, DRAM and its controllers, chart memory, the key table and its cache,
the default target (10 R304-R337, 09 R286-R296). -/
namespace Sys2Proof.Machine

/-- Installed DRAM in bytes: the capacities found at training (R304, R316). -/
def State.dramSize (s : State) : Nat :=
  2 ^ 30 * (List.range 8).foldl (fun n m => n + s.rfld (R.mcCfg m) 25 16) 0

/-- The target that a physical address belongs to (R304, R305). The Binnacle's private SRAM and boot ROM have none:
the model files them above all 48-bit addresses, at `sramBase` and `romBase`, where only the Binnacle core comes
(R371, log 47). -/
inductive Target where
  | dram
  | chart (bank : Fin 33)
  | control (off : Nat)
  | pcie (off : Nat)
  | kenrid (d : Fin 8) (off : Nat)
  | sram (off : Nat)
  | rom (off : Nat)
  | dflt
  deriving DecidableEq, Repr

/-- Where the model files the Binnacle's 256 KiB of SRAM (log 47). -/
def sramBase : Nat := 0x1000000000000
/-- Where the model files the Binnacle's 64 KiB boot ROM (log 47). -/
def romBase : Nat := 0x2000000000000

/-- The address map of R304; a control-space offset in no block reaches the default target (R305). -/
def State.target (s : State) (pa : Nat) : Target :=
  if pa < s.dramSize then .dram
  else if 0x800000000000 ≤ pa && pa < 0x800004000000 then
    .chart ⟨(pa - 0x800000000000) / 0x200000 % 33, by omega⟩
  else if 0x800004000000 ≤ pa && pa < 0x800004080000 then .chart 32
  else if 0x900000000000 ≤ pa && pa < 0x900010000000 then
    (if inBlock (pa - 0x900000000000) then .control (pa - 0x900000000000) else .dflt)
  else if 0xA00000000000 ≤ pa && pa < 0xA10000000000 then .pcie (pa - 0xA00000000000)
  else if 0xC00000000000 ≤ pa && pa < 0xC80000000000 then
    .kenrid ⟨(pa - 0xC00000000000) / 0x10000000000 % 8, by omega⟩ ((pa - 0xC00000000000) % 0x10000000000)
  else if sramBase ≤ pa && pa < sramBase + 0x40000 then .sram (pa - sramBase)
  else if romBase ≤ pa && pa < romBase + 0x10000 then .rom (pa - romBase)
  else .dflt

/-- The bytes that the boot ROM holds from `off` on (R371). -/
def romBytes (off n : Nat) : List Byte := (List.range n).map fun k => Config.bootRom (BitVec.ofNat 16 (off + k))

/-- Whether a target performs atomic operations and holds reservations (R310). -/
def Target.atomics : Target → Bool
  | .dram | .chart _ => true
  | _ => false

/-! ### The interleave hash (R318, R319) and the seal (R321) -/

/-- SUB[r]: the exclusive or of the bits L[i] with i mod 4 = r. -/
def subBit (pa r : Nat) : Nat := (List.range 9).foldl (fun x j => (x + pa / 2 ^ (6 + 4 * j + r)) % 2) 0

/-- The controller of a DRAM address: SUB[3:1]. -/
def mcOf (pa : Nat) : Fin 8 := ⟨(subBit pa 1 + 2 * subBit pa 2 + 4 * subBit pa 3) % 8, by omega⟩

/-- The powers V_i of a root of x^5 + x^2 + 1, the bank vectors of R318. -/
def bankVec : Nat → BitVec 5
  | 0 => 1
  | i + 1 => let v := bankVec i; (v <<< 1) ^^^ (if v.getLsbD 4 then 5 else 0)

/-- BK: the bank group in bits [4:2], the bank in bits [1:0]. -/
def bankOf (pa : Nat) : BitVec 5 :=
  (List.range 36).foldl (fun x i => if pa / 2 ^ (6 + i) % 2 = 1 then x ^^^ bankVec i else x) 0

/-- Where a line lies in its controller: subchannel, bank, rank, row and column (R318, R319). -/
structure DramLoc where
  sub  : Nat
  bank : BitVec 5
  rank : Nat
  row  : Nat
  col  : Nat
  deriving DecidableEq, Repr

/-- The location of an address under the configuration found at training. -/
def State.dramLoc (s : State) (pa : Nat) : DramLoc :=
  let m := mcOf pa
  let c := if s.rbit (R.mcCfg m) 6 then 6 else 7
  let k := s.rfld (R.mcCfg m) 5 4
  let l := pa / 64
  ⟨subBit pa 0, bankOf pa, fld l (8 + c + k) (9 + c) % 2 ^ k, fld l 35 (9 + c + k), fld l (8 + c) 9⟩

/-- One byte into the CRC-16 of R321, most significant bit first. -/
def crc16Byte (crc : BitVec 16) (b : Byte) : BitVec 16 :=
  (List.range 8).foldl (fun (c : BitVec 16) _ => (c <<< 1) ^^^ (if c.getLsbD 15 then 0x1021 else 0))
    (crc ^^^ (b.zeroExtend 16 <<< 8))

/-- The address seal of a line (R321). -/
def addrSeal (pa : Nat) : BitVec 16 := (leBytes 6 (pa / 64 * 64)).foldl crc16Byte 0xFFFF

/-- The seal that a line holds: its own unless a write left another, every bit inverted while it is poisoned (R321,
R323). -/
def State.sealOf (s : State) (line : Nat) : BitVec 16 :=
  let own := ((s.seals.find? (·.1 == line)).map (·.2)).getD (addrSeal (line * 64))
  if s.poison.contains line then ~~~own else own

/-- Store a seal with a line (R321). -/
def State.putSeal (s : State) (line : Nat) (v : BitVec 16) : State :=
  let rest := s.seals.filter (·.1 != line)
  { s with seals := if v = addrSeal (line * 64) then rest else (line, v) :: rest }

/-- Bits in which two seals differ. -/
def sealDiff (a b : BitVec 16) : Nat := ((List.range 16).filter fun i => (a ^^^ b).getLsbD i).length

/-- What a read of a line finds: the first row of R322 that applies of the condition of its beats and of the seal it
holds. -/
def State.readCond (s : State) (line : Nat) (cond : LineCond) : LineCond :=
  if s.seals.isEmpty then cond
  else
    let d := sealDiff (s.sealOf line) (addrSeal (line * 64))
    match cond with
    | .uncorrectable => .uncorrectable
    | .sealMismatch => .sealMismatch
    | c => if 2 ≤ d then .sealMismatch else if d = 1 then .corrected else c

/-! ### Poison, initialisation and reservations -/

/-- Whether a byte's line (DRAM) or word (chart memory) is poisoned (R323, R334). -/
def State.poisoned (s : State) (pa : Nat) : Bool :=
  if pa < s.dramSize then s.poison.contains (pa / 64) else s.cpoison.contains (pa / 4)

/-- Whether any of `n` bytes is poisoned. -/
def State.anyPoison (s : State) (pa n : Nat) : Bool := (List.range n).any fun i => s.poisoned (pa + i)

/-- Whether a DRAM line is initialised: below the watermark, or in a chunk marked done (R328). -/
def State.inited (s : State) (pa : Nat) : Bool :=
  s.rbit R.smsMinit 31 || pa < 2 ^ 24 * s.rfld R.smsMinit 18 0 || s.chunks.contains (pa / 2 ^ 30)

/-- Whether a write to this address can proceed now: one to an uninitialised line waits (R329). -/
def State.writable (s : State) (pa : Nat) : Bool := !(pa < s.dramSize) || s.inited pa

/-- A write to a line clears every reservation on it (R65, R327). -/
def clearResv (s : State) (line : Nat) : State :=
  { s with chans := s.chans.map fun ch => if ch.resv = some line then { ch with resv := none } else ch }

/-- First byte of the key table. -/
def State.ktBase (s : State) : Nat := 2 ^ 24 * s.rfld R.kcKtbase 23 0
/-- Bytes of the key table: one for each frame below KC_KTLEN. -/
def State.ktBytes (s : State) : Nat := s.rfld R.kcKtlen 18 0 * 4096

/-- A write inside the key table invalidates the line's entry of the key cache (R290). -/
def kcInval (s : State) (line : Nat) : State :=
  if s.ktBase / 64 ≤ line && line * 64 < s.ktBase + s.ktBytes then { s with kcache := s.kcache.filter (· != line) }
  else s

/-! ### Errors -/

/-- Write MCm_ERRADDRL and MCm_ERRADDRH (R322, R323). -/
def setErrAddr (s : State) (m : Fin 8) (pa kind : Nat) (scrub : Bool) : State :=
  (s.setReg (R.mcErrAddrL m) (BitVec.ofNat 32 (pa / 64 * 64))).setReg (R.mcErrAddrH m)
    (BitVec.ofNat 32 (pa / 2 ^ 32 % 65536 + kind * 65536 + scrub.toNat * 0x80000))

/-- Event k of controller m. -/
def mcEvent (m : Fin 8) (k : Nat) : Nat := 256 + 8 * m.val + k

/-- A DRAM error: the error address, the event and the DRAM_ERROR record (R322, R323, R444). -/
def dramError (s : State) (m : Fin 8) (pa kind : Nat) (scrub : Bool) (k : Nat) : State :=
  let s := assertEvent (setErrAddr s m pa kind scrub) (mcEvent m k)
  formRecord s 2 1 (mcEvent m k) [s.reg (R.mcErrAddrL m), s.reg (R.mcErrAddrH m)]

/-- Count in half `hi` of a 16-bit pair; a correction counter that reaches FFFFh raises event k = 7 once (R326). -/
def countMc (s : State) (m : Fin 8) (o : Nat) (hi : Bool) (corr : Bool) : State :=
  let b := if hi then 16 else 0
  let was := s.rfld o (b + 15) b
  let s := s.countFld o (b + 15) b
  if corr && was = 0xFFFE then assertEvent s (mcEvent m 7) else s

/-- A partial write that finds its line poisoned is absorbed (R323). -/
def absorb (s : State) (pa : Nat) : State :=
  let m := mcOf pa
  dramError (countMc s m (R.mcSealCnt m) true false) m pa 4 false 1

/-- The outcome of a line read that newly finds the line in this condition (R322); poison is not newly found. -/
def lineOutcome (s : State) (pa : Nat) (cond : LineCond) (scrub : Bool) : State :=
  let m := mcOf pa
  if s.poison.contains (pa / 64) then s
  else match s.readCond (pa / 64) cond with
  | .clean => s
  | .corrected =>
    dramError (countMc (s.putSeal (pa / 64) (addrSeal pa)) m (R.mcEccCnt m) false true) m pa 1 scrub 0
  | .uncorrectable =>
    dramError { countMc s m (R.mcEccCnt m) true false with poison := setIns (pa / 64) s.poison } m pa 2 scrub 1
  | .sealMismatch =>
    dramError { countMc s m (R.mcSealCnt m) false false with poison := setIns (pa / 64) s.poison } m pa 3 scrub 2

/-- Whether a read of a DRAM line newly finds that the seal it holds is not its own (R321, R322). -/
def State.badSeal (s : State) (line : Nat) : Bool :=
  !s.seals.isEmpty && !s.poison.contains line && s.readCond line .clean != .clean

/-- What a read of the line of `pa` finds in the seal it holds (R321, R322). -/
def senseLine (s : State) (pa : Nat) : State :=
  if pa < s.dramSize && s.badSeal (pa / 64) then lineOutcome s pa .clean false else s

/-- `senseLine` for every line that `n` bytes lie in. -/
def sense (s : State) (pa n : Nat) : State :=
  if s.seals.isEmpty then s
  else (List.range ((pa % 64 + n + 63) / 64)).foldl (fun s k => senseLine s (pa / 64 * 64 + 64 * k)) s

/-- The outcome of a chart-word read in this condition (R334). -/
def chartOutcome (s : State) (bank : Fin 33) (pa : Nat) (cond : LineCond) : State :=
  let base := if bank.val < 32 then 0x800000000000 + 0x200000 * bank.val else 0x800004000000
  let row := (pa - base) / 32
  let word := (pa - base) / 4 % 8
  let info := fun (ue : Bool) => BitVec.ofNat 32 (bank.val + row * 64 + word * 0x400000 + ue.toNat * 0x2000000)
  if s.cpoison.contains (pa / 4) then s
  else match cond with
  | .clean => s
  | .corrected => (s.countFld R.cbcEccCnt 15 0).setReg R.cbcErrInfo (info false)
  | _ =>
    let s := { (s.countFld R.cbcEccCnt 31 16).setReg R.cbcErrInfo (info true) with cpoison := setIns (pa / 4) s.cpoison }
    assertEvent (formRecord s 2 2 0x210 [info true]) 497

/-! ### Reads and writes that have passed their checks -/

/-- Write the bytes of one chart word: a whole word clears its poison, part of a poisoned word is absorbed (R334). -/
def writeChartWord (s : State) (pa : Nat) (bs : List Byte) : State :=
  if bs.length = 4 then { s.setBytes pa bs with cpoison := setDel (pa / 4) s.cpoison }
  else if s.cpoison.contains (pa / 4) then s
  else s.setBytes pa bs

/-- Write bytes to chart memory word by word. -/
def writeChart : (fuel : Nat) → State → Nat → List Byte → State
  | 0, s, _, _ => s
  | _, s, _, [] => s
  | f + 1, s, pa, bs => writeChart f (writeChartWord s pa (bs.take (4 - pa % 4))) (pa + (4 - pa % 4)) (bs.drop (4 - pa % 4))

/-- Perform a write of bytes that lie in one line of DRAM or of chart memory; a partial write reads the line before (R62, R65, R290, R321, R323, R334). -/
def writeLine (s : State) (pa : Nat) (bs : List Byte) : State :=
  let s := kcInval (clearResv s (pa / 64)) (pa / 64)
  if pa < s.dramSize then
    if bs.length = 64 then { (s.setBytes pa bs).putSeal (pa / 64) (addrSeal pa) with poison := setDel (pa / 64) s.poison }
    else
      let s := senseLine s pa
      if s.poison.contains (pa / 64) then absorb s pa
      else (s.setBytes pa bs).putSeal (pa / 64) (addrSeal pa)
  else writeChart 65 s pa bs

/-- Perform a write of any length, line by line in ascending order (R307). -/
def writeMem : (fuel : Nat) → State → Nat → List Byte → State
  | 0, s, _, _ => s
  | _, s, _, [] => s
  | f + 1, s, pa, bs => writeMem f (writeLine s pa (bs.take (64 - pa % 64))) (pa + (64 - pa % 64)) (bs.drop (64 - pa % 64))

/-! ### Storage keys -/

/-- Key-cache lines the device holds (R289). -/
def kcLines : Nat := 4096

/-- What an access does to the frame (R287). -/
inductive Acc where
  | rd     -- loads, POP, LDD, index and table reads, Ledger reads
  | wr     -- stores
  | rw     -- LDR, STC and atomic operations
  | ex     -- instruction fetch
  deriving DecidableEq, Repr

/-- Whether it writes under the key check: LDR reads; STC and atomics write. -/
def Acc.writes : Acc → Bool
  | .wr | .rw => true
  | _ => false

/-- How a key check ends (R287, R289). -/
inductive KeyRes where
  | pass
  | refuse
  | uncorrectable
  deriving DecidableEq, Repr

/-- Count a refusal. -/
def refuseKey (s : State) : KeyRes × State := (.refuse, s.count R.kcRefuseCnt)

/-- The key check with access key `a` (R287): a lookup that misses reads the line of the key table, and an
uncorrectable line refuses the access (R289). -/
def keyCheck (s : State) (pa : Nat) (a : BitVec 4) (wr : Bool) : KeyRes × State :=
  let frame := pa / 4096
  if a = 0 then (.pass, s)
  else if frame ≥ s.ktBytes then refuseKey s
  else
    let kpa := s.ktBase + frame
    let hit := s.kcache.contains (kpa / 64)
    let s := if hit then s else senseLine (s.count R.kcMissCnt) kpa
    if !hit && s.poisoned kpa then (.uncorrectable, s)
    else
      let s := { s with kcache := ((kpa / 64) :: s.kcache.filter (· != kpa / 64)).take kcLines }
      let kb := s.byte kpa
      if kb.extractLsb' 4 4 = a ∨ (wr = false ∧ kb.getLsbD 3 = false) then (.pass, s) else refuseKey s

/-- Whether the key-byte update of this access can proceed now (R288, R329). -/
def State.keyWritable (s : State) (pa : Nat) : Bool :=
  !(pa < s.dramSize && pa / 4096 < s.ktBytes) || s.writable (s.ktBase + pa / 4096)

/-- Whether the access's key byte already shows it. -/
def keyMarked (b : Byte) (wr : Bool) : Bool := b.getLsbD 1 && (!wr || b.getLsbD 0)

/-- The key-byte update of a permitted access (R288): an OR into bits [1:0] at the controller. It changes nothing when
the bits are set already or the line is poisoned. -/
def markKey (s : State) (pa : Nat) (wr : Bool) : State :=
  if pa < s.dramSize && pa / 4096 < s.ktBytes then
    let kpa := s.ktBase + pa / 4096
    let s := senseLine s kpa
    if keyMarked (s.byte kpa) wr || s.poisoned kpa then s
    else (clearResv s (kpa / 64)).setByte kpa (s.byte kpa ||| (if wr then 3 else 2))
  else s

/-! ### Ownership and the default target -/

/-- The OWNER of a bank; the sealed bank belongs to the Binnacle (R292, R296). -/
def State.owner (s : State) (bank : Fin 33) : Nat := if bank.val < 32 then s.rfld (R.cbOwner bank) 4 0 else 0x10

/-- How a master stands to a bank: its accesses pass, wait for a wipe to end, or are refused (R292, R294, R296). -/
inductive Own where
  | pass
  | wait
  | refuse
  deriving DecidableEq, Repr

/-- Whether the accesses of a bank's owner wait: a wipe runs, or a handover that wipes has still to take effect
(R294). -/
def State.bankWaits (s : State) (bank : Nat) : Bool :=
  s.wiping.contains bank || s.handover.any fun h => h.1 == bank && h.2.2

/-- Ownership of a bank by the master of OWNER code `who` (R292-R296). -/
def State.owns (s : State) (bank : Fin 33) (who : Nat) : Own :=
  if bank.val = 32 then
    if s.wiping.contains 32 then .refuse
    else if who = 0x10 ∨ (who < 16 ∧ s.rbit R.cbcSblend 8 ∧ s.rfld R.cbcSblend 3 0 = who) then .pass
    else .refuse
  else if s.owner bank = who then
    (if s.bankWaits bank.val then .wait else .pass)
  else .refuse

/-- CBC_DENY and CBC_DENYCNT record a refused access (R295). -/
def recordDeny (s : State) (bank : Fin 33) (who : Nat) : State :=
  (s.setReg R.cbcDeny (BitVec.ofNat 32 (who + bank.val * 256))).count R.cbcDenyCnt

/-- The default target answers: EV511, XB_DEFADDRL, XB_DEFADDRH, XB_DEFCNT (R311). -/
def defaultAnswer (s : State) (m : Master) (pa : Nat) (wr : Bool) : State :=
  let s := s.setReg R.xbDefAddrL (BitVec.ofNat 32 pa)
  let s := s.setReg R.xbDefAddrH (BitVec.ofNat 32 (pa / 2 ^ 32 % 65536 + port m * 65536 + wr.toNat * 0x100000))
  assertEvent (s.count R.xbDefCnt) 511

/-- A crossbar master's access to a bank it does not own: recorded, and answered as the default target answers
(R295, R311). -/
def denyCrossbar (s : State) (m : Master) (bank : Fin 33) (pa : Nat) (wr : Bool) : State :=
  defaultAnswer (recordDeny s bank (ownerCode m)) m pa wr

/-- Base and size of a chart bank. -/
def bankBase (bank : Fin 33) : Nat := if bank.val < 32 then 0x800000000000 + 0x200000 * bank.val else 0x800004000000
/-- Bytes of a bank (R332). -/
def bankSize (bank : Fin 33) : Nat := if bank.val < 32 then 0x200000 else 0x80000

/-- A refused access to a bank: of a channel, recorded and sent no further; of any other master, of which the Binnacle core
is one, answered by the default target (R295, R306, R311). -/
def denyAccess (s : State) (m : Master) (bank : Fin 33) (pa : Nat) (wr : Bool) : State :=
  match channelOf m with
  | some c => recordDeny s bank c.val
  | none => denyCrossbar s m bank pa wr

/-- A bank filled with zeros and valid check bits (R294, R296, R337); reservations on it end. -/
def zeroBank (s : State) (bank : Fin 33) : State :=
  let inB := fun a => bankBase bank ≤ a && a < bankBase bank + bankSize bank
  { s with mem := s.mem.filter fun e => !inB e.1
           cpoison := s.cpoison.filter fun w => !inB (w * 4)
           chans := s.chans.map fun ch => if (ch.resv.map fun l => inB (l * 64)).getD false then { ch with resv := none } else ch }

/-- A read of `n` bytes by a crossbar master that may wait, be refused or meet uncorrectable data. -/
inductive MemRead where
  | ok (l : List Byte)
  | uncorrectable
  | error
  | wait
  deriving DecidableEq, Repr

/-- A read of DRAM or chart memory by a crossbar master (R295, R311, R322, R329). An uninitialised line reads zeros:
nothing has been written to it. -/
def readXbar (s : State) (m : Master) (pa n : Nat) : MemRead × State :=
  match s.target pa with
  | .dram => let s := sense s pa n; if s.anyPoison pa n then (.uncorrectable, s) else (.ok (s.bytes pa n), s)
  | .chart b =>
    match s.owns b (ownerCode m) with
    | .pass => if s.anyPoison pa n then (.uncorrectable, s) else (.ok (s.bytes pa n), s)
    | .wait => (.wait, s)
    | .refuse => (.error, denyCrossbar s m b pa false)
  | .dflt => (.error, defaultAnswer s m pa false)
  | _ => (.error, s)

/-- How a write by a crossbar master ends. -/
inductive MemWrite where
  | ok
  | error
  | wait
  deriving DecidableEq, Repr

/-- A write of DRAM or chart memory, in one line, by a crossbar master. -/
def writeXbar (s : State) (m : Master) (pa : Nat) (bs : List Byte) : MemWrite × State :=
  match s.target pa with
  | .dram => if s.inited pa then (.ok, writeLine s pa bs) else (.wait, s)
  | .chart b =>
    match s.owns b (ownerCode m) with
    | .pass => (.ok, writeLine s pa bs)
    | .wait => (.wait, s)
    | .refuse => (.error, denyCrossbar s m b pa true)
  | .dflt => (.error, defaultAnswer s m pa true)
  | _ => (.error, s)

end Sys2Proof.Machine
end

