-- ==== Sys2Proof/Machine/Access.lean ====
section
/-! DEFINITION. The checks every access of a channel passes before it is made: translation, permission, storage key
and ownership (R59, R126, R279-R281, R287). -/
namespace Sys2Proof.Machine

/-- Translation by the region of e[31:28] (R279). -/
def Channel.translate (ch : Channel) (e : Nat) : Option Nat :=
  let r := e / 2 ^ 28 % 16
  let attr := ch.rattr.getD r 0
  let pa := 2 ^ 16 * (ch.rbase.getD r 0).toNat + e % 2 ^ 28
  if e < 2 ^ 32 ∧ bit attr 16 ∧ fld e 27 16 ≤ wfld attr 11 0 ∧ pa < 2 ^ 48 then some pa else none

/-- The permission test of the region of `e` (R280); `user` asks for US as well. -/
def Channel.permits (ch : Channel) (e : Nat) (acc : Acc) (user : Bool) : Bool :=
  let attr := ch.rattr.getD (e / 2 ^ 28 % 16) 0
  (match acc with
   | .rd => bit attr 17
   | .wr => bit attr 18
   | .rw => bit attr 17 && bit attr 18
   | .ex => bit attr 19) && (!user || bit attr 20)

/-- How an access is made: by which key, in user mode or not, and whether the key check takes it for a write. -/
structure How where
  key  : BitVec 4
  user : Bool
  acc  : Acc
  wr   : Bool
  deriving DecidableEq, Repr

/-- The result of the checks: the physical address, the exception with the failing address, or a wait (R294, R329). -/
inductive Chk where
  | ok (pa : Nat)
  | fail (vec : Nat) (addr : Word)
  | wait
  deriving DecidableEq, Repr

/-- Where an effective address of a core leads: a channel's through its region map (R279), the Binnacle core's by a map that
the manual does not give (R371, log 47). -/
def State.translate (s : State) (c : Chan) (e : Nat) : Option Nat :=
  if c = bnmCore then (if e < 2 ^ 32 then Config.bnmMap e else none) else (s.chan c).translate e

/-- Whether a core may make such an access there: the Binnacle core has no region permissions (R280). -/
def State.permits (s : State) (c : Chan) (e : Nat) (acc : Acc) (user : Bool) : Bool :=
  c == bnmCore || (s.chan c).permits e acc user

/-- Steps 3 to 6 of R126 for bytes that lie in one line; the Binnacle core accesses DRAM with key 0 (R371). -/
def checkPiece (s : State) (c : Chan) (h : How) (e : Nat) : Chk × State :=
  match s.translate c e with
  | none => (.fail 4 (BitVec.ofNat 32 e), s)
  | some pa =>
    if !s.permits c e h.acc h.user then (.fail 5 (BitVec.ofNat 32 e), s)
    else match s.target pa with
      | .dram =>
        (match keyCheck s pa (if c = bnmCore then 0 else h.key) h.wr with
         | (.refuse, s) => (.fail 5 (BitVec.ofNat 32 e), s)
         | (.uncorrectable, s) => (.fail 7 (BitVec.ofNat 32 e), s)
         | (.pass, s) => if s.keyWritable pa && (!h.wr || s.writable pa) then (.ok pa, s) else (.wait, s))
      | .chart b =>
        (match s.owns b c.val with
         | .pass => (.ok pa, s)
         | .wait => (.wait, s)
         | .refuse => (.fail 6 (BitVec.ofNat 32 e), denyAccess s (.chan c) b pa h.wr))
      | _ => (.ok pa, s)

/-- The pieces of an access of `n` bytes (at most 64): one, or two where it crosses a line (R59). -/
def split (e n : Nat) : List (Nat × Nat) :=
  if n ≤ 64 - e % 64 then [(e, n)] else [(e, 64 - e % 64), (e + (64 - e % 64), n - (64 - e % 64))]

/-- The result of checking every piece, the lower first: physical address and length of each. -/
inductive ChkAll where
  | ok (ps : List (Nat × Nat))
  | fail (vec : Nat) (addr : Word)
  | wait
  deriving DecidableEq, Repr

/-- Check the pieces in order; the first failure names its address (R59, R126). -/
def checkPieces (s : State) (c : Chan) (h : How) : List (Nat × Nat) → ChkAll × State
  | [] => (.ok [], s)
  | (e, n) :: ps =>
    match checkPiece s c h e with
    | (.fail v a, s) => (.fail v a, s)
    | (.wait, s) =>
      (match checkPieces s c h ps with
       | (.fail v a, s) => (.fail v a, s)
       | (_, s) => (.wait, s))
    | (.ok pa, s) =>
      match checkPieces s c h ps with
      | (.ok l, s) => (.ok ((pa, n) :: l), s)
      | r => r

/-- Check an access of `n` bytes at effective address `e`; one that runs past FFFF_FFFFh is not translated (R59,
R119). -/
def checkAccess (s : State) (c : Chan) (h : How) (e n : Nat) : ChkAll × State := checkPieces s c h (split e n)

/-- Whether it lies in DRAM, chart memory or the sealed bank (R81), or in the Binnacle's own memories. -/
def State.inMemory (s : State) (pa : Nat) : Bool :=
  match s.target pa with
  | .dram | .chart _ | .sram _ | .rom _ => true
  | _ => false

/-- Split bytes over checked pieces. -/
def cutPieces : List (Nat × Nat) → List Byte → List Piece
  | [], _ => []
  | (pa, n) :: ps, bs => ⟨pa, bs.take n⟩ :: cutPieces ps (bs.drop n)

end Sys2Proof.Machine
end

