-- ==== Sys2Proof/Machine/CtlRead.lean ====
section
/-! DEFINITION. Ordinary reads of the control space, with their side effects (R9, R47, R418, R419, R423, R452, R466,
R467), and reads of any target by a master. -/
namespace Sys2Proof.Machine

/-- What a read of a target gives: data, an error response, uncorrectable data, or nothing yet (R294). -/
inductive Got where
  | ok (l : List Byte)
  | error
  | uncorrectable
  | wait
  deriving DecidableEq, Repr

/-- The port that a Kenrid window leads through, if device `d` is reached (R432, R435). -/
def State.kenridRoute (s : State) (d : Fin 8) : Option (Fin 4) :=
  if d.val = s.ifc.casc.index then none
  else match s.ifc.casc.routes[d] with
    | some q => if s.rbit (R.klStat q) 0 && s.rbit (R.klStat q) 3 then some q else none
    | none => none

/-- The host address of an outbound offset (R407). -/
def State.hostAddr (s : State) (x : Nat) : Nat := 2 ^ 40 * s.rfld R.pxObbase 23 0 + x

/-! ### Flits that leave (R430, R431) -/

/-- TYPE of a flit that the device sends (R430). -/
def FlitBody.type : FlitBody → Nat
  | .read _ _ | .write _ _ => 2
  | .command _ _ => 4
  | .status _ _ => 5
  | .time _ => 6
  | .signal _ _ => 7

/-- The payload of a flit, at most 240 bytes (R430). -/
def FlitBody.payload (b : FlitBody) : List Byte :=
  (match b with
  | .read a n => Config.flitPayload 2 [a, n] []
  | .write a l => Config.flitPayload 2 [a] l
  | .command n l => Config.flitPayload 4 [n.val] l
  | .status n l => Config.flitPayload 5 [n.val] l
  | .time t => Config.flitPayload 6 [t] []
  | .signal k v => Config.flitPayload 7 [k.toNat, v] []).take 240

/-- Bytes 0 to 251 of a flit, which its CRC covers: TYPE, ROUTE, SEQ, ACK, LEN and the payload (R430). -/
def flitBody (f : Flit) (seq ack : BitVec 12) : List Byte :=
  let p := f.body.payload
  [BitVec.ofNat 8 f.body.type, BitVec.ofNat 8 (f.src % 16 + f.dest % 16 * 16)] ++ leBytes 2 seq.toNat ++ leBytes 2 ack.toNat ++
  leBytes 2 p.length ++ p ++ List.replicate (244 - p.length) 0

/-- Send waiting flits while the replay buffer has room: it keeps 64 unacknowledged flits (R431). -/
def KlSt.fill : (fuel : Nat) → KlSt → KlSt
  | 0, k => k
  | f + 1, k =>
    match k.queued with
    | [] => k
    | x :: xs =>
      if k.sent.length < 64 then
        KlSt.fill f { k with queued := xs, sent := k.sent ++ [⟨k.nextSeq, 0, x, crc32 (flitBody x k.nextSeq k.got)⟩], nextSeq := k.nextSeq + 1 }
      else k

/-- Send what `b` carries to device `dest` through a port, behind the flits that wait there. -/
def sendFlit (s : State) (q : Fin 4) (dest : Nat) (b : FlitBody) : State :=
  let k := s.ifc.kl[q]
  { s with ifc := { s.ifc with kl := s.ifc.kl.set q (KlSt.fill 64 { k with queued := k.queued ++ [⟨dest, b, s.ifc.casc.index⟩] }) } }

/-- The physical address of device `d` that offset `x` of its window reaches (R435). -/
def State.windowAddr (s : State) (d : Fin 8) (x : Nat) : Nat := 2 ^ 40 * s.rfld (R.klWinBase d.val) 7 0 + x

/-- The bits of the AER uncorrectable error status that Completer Abort, a completion timeout and a poisoned completion
set (log 59). -/
def aerAbort : Nat := 15
/-- See `aerAbort`. -/
def aerTimeout : Nat := 14
/-- See `aerAbort`. -/
def aerPoisoned : Nat := 12

/-- An uncorrectable error is logged in the AER status. -/
def aerLog (s : State) (b : Nat) : State := { s with ifc := { s.ifc with aer := wbit s.ifc.aer b true } }

/-- An outbound read that is answered within its command: an error response while the link is down, or else a completion,
whose kind is a free value (R407, log 68). -/
def readHost (s : State) (x n : Nat) : Got × State :=
  if !s.rbit R.pxLink 0 then (.error, s)
  else
    let t := { s with free := s.free + 1 }
    match Config.readEnds s.free % 3 with
    | 0 => (.ok (s.hbytes (s.hostAddr x) n), t)
    | 1 => (.error, assertEvent t 396)
    | _ => (.uncorrectable, assertEvent (aerLog t aerPoisoned) 397)

/-- A read of offset `x` of the window of device `d` that is answered within its command: the request leaves as a flit, and
whether data, an error or poisoned data come back is a free value, as the data are; a device that is not reached is the
default target's (R435, log 68). -/
def readKenrid (s : State) (m : Master) (d : Fin 8) (x pa n : Nat) : Got × State :=
  match s.kenridRoute d with
  | none => (.error, defaultAnswer s m pa false)
  | some q =>
    let t := sendFlit s q d.val (.read (s.windowAddr d x) n)
    let (l, t) := t.freeBytes n
    match Config.readEnds s.free % 3 with
    | 0 => (.ok l, t)
    | 1 => (.error, t)
    | _ => (.uncorrectable, t)

/-- Read one word of the control space for master `m`, with the side effect of an ordinary read. SX_MDATA is only
peeked here (`ctlRead` performs it). -/
def ctlRead0 (s : State) (m : Master) (o : Nat) : Word × State :=
  if 0x100000 ≤ o && o < 0x110000 then
    let c : Chan := Fin.castSucc ⟨(o - 0x100000) / 0x1000 % 16, by omega⟩
    let w := (s.chan c).word (o % 0x1000)
    if o % 0x1000 = 0x040 then
      (w, s.modChan c fun ch => { ch with stepsH := (ch.steps >>> 32).truncate 16 })
    else (w, s)
  else if 0x300000 ≤ o && o < 0x320000 then
    let p : Pipe := ⟨(o - 0x300000) / 0x1000 % 32, by omega⟩
    let st := s.pipes[p]
    let w := st.word (o % 0x1000)
    if o % 0x1000 = 0x040 then
      (w, { s with pipes := s.pipes.set p { st with stepsH := (st.steps >>> 32).truncate 16 } })
    else (w, s)
  else if 0x1100000 ≤ o && o < 0x1200000 then
    match channelOf m, m with
    | some c, _ =>
      if o = R.sxDtx c ∨ o = R.sxTstat then (peekWord s m o, s)
      else if o = R.sxDrx c then (s.reg o, s.setBit R.sxTstat (16 + c.val) false)
      else (0, s)
    | none, .sextant =>
      if R.sxDtx 0 ≤ o && o < R.sxDtx 16 && s.rbit R.sxTstat ((o - R.sxDtx 0) / 4) then
        let n := (o - R.sxDtx 0) / 4
        (s.reg o, assertEvent (s.setBit R.sxTstat n false) (8 * n + 5))
      else (peekWord s m o, s)
    | _, _ => (peekWord s m o, s)
  else
    let w := peekWord s m o
    if o = R.chrTimeL then (w, s.setReg R.chrTimeH ((s.time >>> 32).truncate 32))
    else if o = R.lbSeqL then (w, s.setReg R.lbSeqH (BitVec.ofNat 32 (s.log.seq / 2 ^ 32)))
    else if 0x900000 ≤ o && o < 0x940000 && o % 0x10000 ≥ 0x100 && o % 0x10000 < 0x158 && o % 8 = 0 then
      let p : Fin 4 := ⟨(o - 0x900000) / 0x10000 % 4, by omega⟩
      let v := (s.ifc.nx[p]).stats.getD ((o % 0x10000 - 0x100) / 8) 0
      (w, s.setReg (o + 4) ((v >>> 32).truncate 32))
    else if R.kpCfg 0 ≤ o && o < R.kpCfg 16 && o % 0x20 = 4 then
      let i : Fin 16 := ⟨(o - R.kpCfg 0) / 0x20 % 16, by omega⟩
      match s.ifc.kpFifo[i] with
      | [] => (0, s)
      | t :: ts =>
        (w, ({ s with ifc := { s.ifc with kpFifo := s.ifc.kpFifo.set i ts } }).setReg (R.kpTsh i) ((t >>> 32).truncate 32))
    else (w, s)

/-- The address of the Sextant's memory access (R466). -/
def State.sxAddr (s : State) : Nat := (s.reg R.sxMaddrL).toNat + 2 ^ 32 * s.rfld R.sxMaddrH 15 0

/-- After an access the address advances by 4 when INC = 1; a refusal or an error sets ERR (R466). -/
def sxDone (s : State) (err : Bool) : State :=
  let a := s.sxAddr + 4
  let s := if s.rbit R.sxMctl 4 then
      (s.setReg R.sxMaddrL (BitVec.ofNat 32 a)).setReg R.sxMaddrH (BitVec.ofNat 32 (a / 2 ^ 32 % 65536)) else s
  if err then s.setBit R.sxMctl 5 true else s

/-- Whether the access is refused for its key: KEY = 0 without the override (R466). -/
def State.sxKeyRefused (s : State) : Bool := s.rfld R.sxMctl 3 0 == 0 && !s.rbit R.bnmLcs 9

/-- A read of a word of physical memory through M2 (R466); `none` where it has to wait. -/
def sxTryRead (s : State) (pa : Nat) : Option (Word × State) :=
  let done := fun (r : Got × State) => match r with
    | (.ok l, s) => some (bytesWord l, sxDone s false)
    | (_, s) => some (0, sxDone s true)
  if s.sxKeyRefused then some (0, sxDone s true)
  else match s.target pa with
    | .dram =>
      (match keyCheck s pa (BitVec.ofNat 4 (s.rfld R.sxMctl 3 0)) false with
       | (.pass, s) =>
         let s := senseLine (markKey s pa false) pa
         if s.anyPoison pa 4 then some (0, sxDone s true) else some (bytesWord (s.bytes pa 4), sxDone s false)
       | (_, s) => some (0, sxDone s true))
    | .control o => let (w, s) := ctlRead0 s .sextant (o / 4 * 4); some (w, sxDone s false)
    | .pcie x => done (readHost s x 4)
    | .kenrid d x => done (readKenrid s .sextant d x pa 4)
    | _ =>
      match readXbar s .sextant pa 4 with
      | (.ok l, s) => some (bytesWord l, sxDone s false)
      | (.wait, _) => none
      | (_, s) => some (0, sxDone s true)

/-- An access of SX_MDATA waits behind those that wait already. -/
def sxWait (s : State) (x : Option Word) : State := { s with sx := { s.sx with pend := s.sx.pend ++ [(s.sxAddr, x)] } }

/-- A read of SX_MDATA (R466): 0 while it has to wait, and its data reach SX_MDATA with the tick that performs it (log 69). -/
def sxMemRead (s : State) : Word × State :=
  if s.sx.pend.isEmpty then (sxTryRead s s.sxAddr).getD (0, sxWait s none) else (0, sxWait s none)

/-- An ordinary read of a control-space word. The Sextant does nothing while DBGEN = 0 (R458). -/
def ctlRead (s : State) (m : Master) (o : Nat) : Word × State :=
  if m = .sextant ∧ ¬ s.rbit R.bnmLcs 8 then (0, s)
  else if o = R.sxMdata && asBnm m then
    let (w, s) := sxMemRead s
    (w, s.setReg R.sxMdata w)
  else ctlRead0 s m o

/-- A Sextant read of a control-space word: a peek, except in the SX block, where it is an ordinary read; whether the peek
failed (R459). -/
def debugRead (s : State) (m : Master) (o : Nat) : Word × Bool × State :=
  if 0x1100000 ≤ o && o < 0x1200000 then let (w, s) := ctlRead s m o; (w, false, s) else peekReg s m o

/-- A read of a control-space word as a master makes it (R458, R459). -/
def masterRead (s : State) (m : Master) (o : Nat) : Word × State :=
  if m = .sextant then
    (if s.rbit R.bnmLcs 8 then let (w, _, s) := debugRead s m o; (w, s) else (0, s))
  else ctlRead s m o

/-- Bytes `o` to `o + n - 1` of the control space: each word is read once (R9). -/
def ctlReadBytes : (fuel : Nat) → State → Master → Nat → Nat → List Byte × State
  | 0, s, _, _, _ => ([], s)
  | _, s, _, _, 0 => ([], s)
  | f + 1, s, m, o, n =>
    let k := min n (4 - o % 4)
    let (w, s) := ctlRead s m (o / 4 * 4)
    let (l, s) := ctlReadBytes f s m (o + k) (n - k)
    (((wordBytes w).drop (o % 4)).take k ++ l, s)

/-- A read of `n` bytes in one line by a master whose checks have passed (R311, R322, R334, R407, R435). -/
def readTarget (s : State) (m : Master) (pa n : Nat) : Got × State :=
  match s.target pa with
  | .dram => let s := senseLine s pa; if s.anyPoison pa n then (.uncorrectable, s) else (.ok (s.bytes pa n), s)
  | .chart _ => if s.anyPoison pa n then (.uncorrectable, s) else (.ok (s.bytes pa n), s)
  | .control o => let (l, s) := ctlReadBytes n s m o n; (.ok l, s)
  | .pcie x => readHost s x n
  | .kenrid d x => readKenrid s m d x pa n
  | .sram _ => (.ok (s.bytes pa n), s)
  | .rom o => (.ok (romBytes o n), s)
  | .dflt => (.error, defaultAnswer s m pa false)

end Sys2Proof.Machine
end

