-- ==== Sys2Proof/Machine/Vec.lean ====
section
/-! DEFINITION. The vector table and its cache (R250-R254), and a checked read or write at an effective address. -/
namespace Sys2Proof.Machine

/-- How a checked read ends: data, an exception with its address, or a wait. -/
inductive Fetched where
  | ok (l : List Byte)
  | fail (vec : Nat) (addr : Word)
  | wait
  deriving DecidableEq, Repr

/-- Read checked pieces in order, each with its effective address: an error response raises the data-access error
exception, an uncorrectable error the uncorrectable-data exception, at the piece that failed (R59, R73, R113). -/
def readParts (s : State) (c : Chan) : List ((Nat × Nat) × (Nat × Nat)) → Fetched × State
  | [] => (.ok [], s)
  | ((e, _), (pa, n)) :: ps =>
    match readTarget s (.chan c) pa n with
    | (.ok l, s) =>
      (match readParts (markKey s pa false) c ps with
       | (.ok l', s) => (.ok (l ++ l'), s)
       | r => r)
    | (.error, s) => (.fail 6 (BitVec.ofNat 32 e), s)
    | (.uncorrectable, s) => (.fail 7 (BitVec.ofNat 32 e), markKey s pa false)
    | (.wait, s) => (.wait, s)

/-- A read of `n` bytes (at most 64) at effective address `e`: checked under R126, then made. -/
def readEff (s : State) (c : Chan) (h : How) (e n : Nat) : Fetched × State :=
  match checkAccess s c h e n with
  | (.fail v a, s) => (.fail v a, s)
  | (.wait, s) => (.wait, s)
  | (.ok ps, s) => readParts s c ((split e n).zip ps)

/-- Read `n` bytes that may span several lines. -/
def readLong : (fuel : Nat) → State → Chan → How → Nat → Nat → Fetched × State
  | 0, s, _, _, _, _ => (.ok [], s)
  | _, s, _, _, _, 0 => (.ok [], s)
  | f + 1, s, c, h, e, n =>
    let k := min n (64 - e % 64)
    match readEff s c h e k with
    | (.ok l, s) =>
      (match readLong f s c h (e + k) (n - k) with
       | (.ok l', s) => (.ok (l ++ l'), s)
       | r => r)
    | r => r

/-- Vector entries and frames are read and written in supervisor mode (R281). -/
def supervisorHow (key : BitVec 4) (acc : Acc) (wr : Bool) : How := ⟨key, false, acc, wr⟩

/-- The layout of R252: bits that must be 0. -/
def vectorReserved (l : List Byte) : Bool :=
  fld (leAt l 4 4) 15 13 != 0 || fld (leAt l 4 4) 31 20 != 0 || leAt l 12 4 != 0

/-- How a vector fetch ends (R253). -/
inductive VFetch where
  | ok (l : List Byte)
  | fail (addr : Word)
  | wait
  deriving DecidableEq, Repr

/-- Read vector entry `v` from memory with key 0 (R250, R253). -/
def fetchVector (s : State) (c : Chan) (v : Nat) : VFetch × State :=
  let e := (s.chan c).vbar.toNat + 16 * v
  match readEff s c (supervisorHow 0 .rd false) e 16 with
  | (.ok l, s) => if vectorReserved l then (.fail (BitVec.ofNat 32 e), s) else (.ok l, s)
  | (.fail _ a, s) => (.fail a, s)
  | (.wait, s) => (.wait, s)

/-- Whether event `n` is routed to channel `c` (R254, R256); to the Binnacle core by its firmware (R370). -/
def routed (s : State) (c : Chan) (n : Nat) : Bool :=
  let w := s.reg (R.evcfg n)
  if c = bnmCore then Config.bnmRoutes s.ticks n else bit w 8 && !bit w 9 && wfld w 3 0 == c.val

/-- The level of an event (R256). -/
def evLevel (s : State) (n : Nat) : Nat := s.rfld (R.evcfg n) 6 4

/-- The vectors a preload asks for, in order (R254). -/
def preloadList (s : State) (c : Chan) : List Nat :=
  (List.range 18).map (· + 1) ++
  ((List.range 512).filter fun n => routed s c n && evLevel s n == 0).map (· + 512) ++
  ((List.range 512).filter fun n => routed s c n && evLevel s n == 1).map (· + 512)

/-- Drop the least recently used entry that a preload did not load, when the cache is full (R254). -/
def evict : List VEntry → List VEntry
  | [] => []
  | e :: es => if !e.fixed && es.all (·.fixed) then es else e :: evict es

/-- Put an entry at the front of the vector cache; nothing is put where every entry is fixed. -/
def Channel.cacheVec (ch : Channel) (v : Nat) (l : List Byte) (fixed : Bool) : Channel :=
  let old := ch.vcache.filter (·.vec != v)
  let old := if old.length < 64 then old else evict old
  if old.length < 64 then { ch with vcache := ⟨v, BitVec.ofNat 128 (leNat l), fixed⟩ :: old } else ch

/-- Load the entries in order until the cache holds 64; an entry whose fetch fails is left out, and where a fetch has to
wait the rest is loaded after it (R254, R294). -/
def preloadFrom (c : Chan) : List Nat → State → State
  | [], s => s.modChan c fun ch => { ch with preload := [] }
  | v :: vs, s =>
    if (s.chan c).vcache.countP (·.fixed) ≥ 64 then s.modChan c fun ch => { ch with preload := [] }
    else match fetchVector s c v with
      | (.ok l, s) => preloadFrom c vs (s.modChan c fun ch => ch.cacheVec v l true)
      | (.fail _, s) => preloadFrom c vs s
      | (.wait, _) => s.modChan c fun ch => { ch with preload := v :: vs }

/-- Invalidate the vector cache and load it (R254). -/
def preload (s : State) (c : Chan) : State :=
  preloadFrom c (preloadList s c) (s.modChan c fun ch => { ch with vcache := [] })

/-- A vector entry through the cache (R252-R254). -/
def vectorEntry (s : State) (c : Chan) (v : Nat) : VFetch × State :=
  match (s.chan c).vcache.find? (·.vec == v) with
  | some e =>
    (.ok (leBytes 16 e.words.toNat),
     s.modChan c fun ch => { ch with vcache := e :: ch.vcache.filter (·.vec != v) })
  | none =>
    match fetchVector s c v with
    | (.ok l, s) => (.ok l, s.modChan c fun ch => ch.cacheVec v l false)
    | r => r

/-- What a start command and a release do to a channel's caches (R39, R254, R462). -/
def refetch (s : State) (c : Chan) : State := preload (s.modChan c fun ch => { ch with icache := [], fbuf := [] }) c

/-! ### What a window holds off (R261, R270, R271) -/

/-- Whether event `n` is pending and eligible for the channel (R261). -/
def eligible (s : State) (c : Chan) (n : Nat) : Bool :=
  let ch := s.chan c
  s.rbit (R.evcPend (n / 32)) (n % 32) && routed s c n && ch.ie && (!ch.hnd || evLevel s n < ch.ilvl)

/-- The eligible events of a channel. -/
def eligibleEvents (s : State) (c : Chan) : List Nat := (List.range 512).filter (eligible s c)

/-- Whether a halt is asked of the channel; one of the Binnacle core is no matter of its windows (R461). -/
def haltAsked (s : State) (c : Chan) : Bool := c != bnmCore && s.rbit R.sxHaltReq c.val

/-- Note what an open window holds off at this moment, beside what it has held off before: done wherever that may cease
to be eligible, and where the window closes (R271). -/
def noteHeld (s : State) (c : Chan) : State :=
  if (s.chan c).window.isSome then
    s.modChan c fun ch => { ch with heldOff :=
      ⟨ch.heldOff.events ++ (eligibleEvents s c).filter (!ch.heldOff.events.contains ·), ch.heldOff.halt || haltAsked s c,
       ch.heldOff.req || ch.req.isSome⟩ }
  else s

/-- What every open window holds off is noted, before its eligibility may change (R271). -/
def noteAllHeld (s : State) : State := (List.finRange 17).foldl noteHeld s

end Sys2Proof.Machine
end

