-- ==== Sys2Proof/Machine/Ctl.lean ====
section
/-! DEFINITION. Writes of the control space: who may write a register, how a partial write merges (R522), the limits a
register keeps, and what a write does beyond storing its value. -/
namespace Sys2Proof.Machine

/-- The word whose byte lanes `be` are all 1. -/
def byteMask (be : BitVec 4) : Word :=
  (if be.getLsbD 0 then 0xFF else 0) ||| (if be.getLsbD 1 then 0xFF00 else 0) |||
  (if be.getLsbD 2 then 0xFF0000 else 0) ||| (if be.getLsbD 3 then 0xFF000000 else 0)

/-- The word a write leaves in a register: RW bits that are covered take the written value, W1C bits written 1 clear,
W1S bits written 1 set, all others keep (R9, R11, R522). -/
def RegDesc.after (d : RegDesc) (old v cov : Word) : Word :=
  (merge (d.rw &&& cov) old v &&& ~~~ (d.w1c &&& cov &&& v)) ||| (d.w1s &&& cov &&& v)

/-- A field limited to lo..hi: outside it the nearer limit is stored. -/
def limit (w : Word) (h l lo hi : Nat) : Word := wset w h l (max lo (min hi (wfld w h l)))

/-- The limits that registers keep, each as its field table says. `old` is the word that a write of 0 to a weight
leaves (R311). -/
def limited (o : Nat) (old w : Word) : Word :=
  if o = R.evcLockCfg then limit w 6 0 0 100
  else if o = R.lgeCfg then limit (limit w 12 0 64 4096) 18 16 0 4
  else if o = R.smsCfg then limit (limit w 10 0 250 1000) 18 16 2 7
  else if o = R.smsResv then limit w 6 0 0 64
  else if (List.range 8).any (fun m => o = R.mcCtl m) then limit w 15 8 0 168
  else if R.xbMwgt 0 ≤ o && o < R.xbMwgt 16 then (if wfld w 3 0 = 0 then old else w)
  else if o = R.tripHbcfg then (if wfld w 15 0 = 0 then w else limit w 15 0 10 65535)
  else if o = R.lbCfg then limit w 9 0 1 1000
  else if o = R.wdgCfg then limit w 13 0 1 10000
  else if (List.range 4).any (fun n => o = R.ringCfg n) then limit (limit w 3 0 7 16) 11 8 7 16
  else if o = R.bnmCmdCfg then limit w 9 0 1 1000
  else if o = R.bnmVctl then limit (limit w 9 0 720 880) 25 16 720 880
  else if o = R.bnmTherm then limit (limit w 7 0 60 105) 15 8 60 105
  else if o = R.bnmWdgCfg then limit w 13 0 10 10000
  else w

/-! ### The channel block (R46, R282) -/

/-- CSW bits a write can change (R41). -/
def cswMask : Word := 0x0F0FFFFF
/-- FSW bits a write can change (R43). -/
def fswMask : Word := 0x71F
/-- RATTR bits (R282). -/
def rattrMask : Word := 0x1F0FFF

/-- Store the whole word `w` in the channel register at `o`, which accepts writes while stopped or halted (R46). -/
def Channel.store (ch : Channel) (o : Nat) (w : Word) : Channel :=
  if o = 0x004 then { ch with pc := w }
  else if o = 0x008 then { ch with csw := merge cswMask ch.csw w }
  else if o = 0x00C then { ch with fsw := w &&& fswMask }
  else if o = 0x010 then { ch with wm := w }
  else if o = 0x014 then { ch with sc := w }
  else if o = 0x018 then { ch with vl := min w.toNat 256 }
  else if o = 0x01C then { ch with slim := w &&& 0xFFFFFFF8 }
  else if o = 0x020 then { ch with lsav := w &&& 0xFFFFFF00 }
  else if o = 0x024 then (if wfld w 2 0 ≤ 4 then { ch with lpst := wfld w 2 0 } else ch)
  else if o = 0x028 then { ch with vbar := w &&& 0xFFFFC000 }
  else if h : 0x100 ≤ o ∧ o < 0x110 ∧ o % 4 = 0 then { ch with lps := ch.lps.set ((o - 0x100) / 4) w (by omega) }
  else if h : 0x110 ≤ o ∧ o < 0x120 ∧ o % 4 = 0 then { ch with lpe := ch.lpe.set ((o - 0x110) / 4) w (by omega) }
  else if h : 0x120 ≤ o ∧ o < 0x130 ∧ o % 4 = 0 then { ch with lpc := ch.lpc.set ((o - 0x120) / 4) w (by omega) }
  else ch

/-- Store a region-map entry. -/
def Channel.storeMap (ch : Channel) (o : Nat) (w : Word) : Channel :=
  if h : 0x400 ≤ o ∧ o < 0x500 then
    (if o % 16 = 0 then { ch with rbase := ch.rbase.set ((o - 0x400) / 16) w (by omega) }
     else if o % 16 = 4 then { ch with rattr := ch.rattr.set ((o - 0x400) / 16) (w &&& rattrMask) (by omega) }
     else ch)
  else ch

/-- A write to the block of channel `c` by master `m` (R46, R282). -/
def chanWrite (s : State) (m : Master) (c : Chan) (o : Nat) (v cov : Word) : State :=
  let ch := s.chan c
  let w := merge cov (ch.word o) v
  let idle := ch.st = .stopped ∨ ch.st = .halted
  if o = 0x030 then (if asBnm m then s.setChan c { ch with pmask := w } else s)
  else if o = 0x034 then
    (if asBnm m ∧ wfld w 3 0 ≠ 0 then s.setChan c { ch with weight := wfld w 3 0 } else s)
  else if 0x400 ≤ o then
    (if asBnm m ∨ (m = .chan c ∧ ch.sup) ∨ (m ≠ .chan c ∧ idle) then s.setChan c (ch.storeMap o w) else s)
  else if idle then s.setChan c (ch.store o w)
  else s

/-! ### Events -/

/-- A write of EVCFGn (R256): clearing EN clears the pending bit; another destination moves the pending event. -/
def writeEvcfg (s : State) (n : Nat) (w : Word) : State :=
  let old := s.reg (R.evcfg n)
  let s := noteAllHeld s
  let s := s.setReg (R.evcfg n) w
  if !s.rbit (R.evcPend (n / 32)) (n % 32) then s
  else if !bit w 8 then (s.setBit (R.evcPend (n / 32)) (n % 32) false).setBit (R.msixPba (n / 32)) (n % 32) false
  else if bit w 9 then (if bit old 9 then s else deliverHost s n)
  else s.setBit (R.msixPba (n / 32)) (n % 32) false

/-- A write of ones to EVC_PENDk clears pending bits, and what the pending-bit array held for them (R256, R257). -/
def writeEvcPend (s : State) (k : Nat) (clear : Word) : State :=
  (s.modReg (R.evcPend k) (· &&& ~~~ clear)).modReg (R.msixPba k) (· &&& ~~~ clear)

/-- A write of EVC_SET asserts its event unless the source is reserved (R259). -/
def writeEvcSet (s : State) (w : Word) : State :=
  let n := wfld w 8 0
  if eventReserved n then s else assertEvent s n

/-- Unmask vector `n` and send what it held (R257). -/
def unmask (s : State) (n : Nat) : State :=
  if s.rbit (R.msixPba (n / 32)) (n % 32) && s.rbit (R.evcfg n) 8 && s.rbit (R.evcfg n) 9 then deliverHost s n else s

/-! ### Chart banks -/

/-- A write of CBn_OWNER by master `m` (R293, R294): accepted from the Binnacle, and from the current owner while OWNHO
is 1, a channel only in supervisor mode; an ignored write is counted. The wipe starts when the handover takes
effect. -/
def setOwner (s : State) (m : Master) (n : Fin 32) (w : Word) : State :=
  let cur := s.rfld (R.cbOwner n) 4 0
  let new := wfld w 4 0
  let isOwner := s.rbit R.cbcPolicy 0 && ownerCode m == cur && (match m with | .chan c => (s.chan c).sup | _ => true)
  if (asBnm m || isOwner) && !s.wiping.contains n.val then
    let wipe := bit w 8 || (new != cur && s.rbit R.cbcPolicy 1)
    let s := s.setReg (R.cbOwner n) (BitVec.ofNat 32 new)
    if new = cur && !wipe then s
    else { s with handover := s.handover.filter (·.1 != n.val) ++ [(n.val, new,
             wipe || s.handover.any fun h => h.1 == n.val && h.2.2)] }
  else s.count R.cbcDenyCnt

/-! ### Command rings (R342) -/

/-- EN goes from 0 to 1. -/
def enableRing (s : State) (n : Fin 4) : State :=
  let s := ((s.setReg (R.ringChead n) 0).setReg (R.ringCtail n) 0).setReg (R.ringShead n) 0
  let s := (s.setReg (R.ringStail n) 0x10000).modReg (R.ringStat n) (· &&& ~~~ 7#32)
  let s := s.setBit (R.ringCfg n) 16 true
  { s with cmds := { s.cmds with rings := s.cmds.rings.set n { s.cmds.rings[n] with prev := none, head := 0 } } }

/-- EN goes from 1 to 0: packets not started are discarded; a running command completes and its status is
discarded. -/
def disableRing (s : State) (n : Fin 4) : State :=
  let r := s.cmds.rings[n]
  let run := r.run.filter (·.final.isNone)
  let s := (s.setBit (R.ringCfg n) 16 false).setBit (R.ringStat n) 0 (run.isSome || r.fwd.isSome)
  { s with cmds := { s.cmds with rings := s.cmds.rings.set n { r with run := run, drop := run.isSome || r.fwd.isSome } } }

/-- A write of BNM_RINGn_CFG: sizes only while EN was 0. -/
def writeRingCfg (s : State) (n : Fin 4) (w : Word) : State :=
  let en := s.rbit (R.ringCfg n) 16
  let s := if en then s else s.setReg (R.ringCfg n) (wbit w 16 false)
  if !en && bit w 16 then enableRing s n
  else if en && !bit w 16 then disableRing s n
  else s

/-! ### Network ports (R410, R417) -/

/-- Event k of port p. -/
def nxEvent (p : Fin 4) (k : Nat) : Nat := 320 + 16 * p.val + k

/-- Whether a port trains under this NXp_CFG: 10GBASE-R without FEC or with Clause 74, 25GBASE-R also with Clause 108
(R409). -/
def nxTrains (w : Word) : Bool :=
  (wfld w 1 0 == 1 && wfld w 3 2 ≤ 1) || (wfld w 1 0 == 2 && wfld w 3 2 ≤ 2)

/-- NXp_CFG: GPTP is stored as 0 while another port holds the role (R410). A port that is switched off, or to a reserved
speed or FEC, loses its link (R409). -/
def writeNxCfg (s : State) (p : Fin 4) (w : Word) : State :=
  let other := (List.finRange 4).any fun q => q != p && s.rbit (R.nxCfg q) 4
  let s := s.setReg (R.nxCfg p) (if other then wbit w 4 false else w)
  let nx := s.ifc.nx[p]
  if nx.up && !nxTrains w then
    assertEvent { s with ifc := { s.ifc with nx := s.ifc.nx.set p { nx with up := false } } } (nxEvent p 0)
  else s

/-- Whether a ring of this configuration lies in its bank, with the slot sizes of R416. -/
def nxRingFits (w : Word) : Bool :=
  let nlog := wfld w 15 12
  let slog := wfld w 11 9
  1 ≤ nlog && nlog ≤ 11 && slog ≤ 4 && 0x4000 * wfld w 31 17 + 2 ^ nlog * 2 ^ (10 + slog) ≤ 0x200000

/-- NXp_RINGr_CFG: while EN = 1 only EN changes; setting EN clears WIDX and RIDX; a ring that runs past its bank is
never enabled (R417). -/
def writeNxRing (s : State) (p r : Fin 4) (w : Word) : State :=
  let old := s.reg (R.nxRingCfg p r)
  if bit old 16 then s.setReg (R.nxRingCfg p r) (wbit old 16 (bit w 16))
  else if bit w 16 && nxRingFits w then
    let nx := s.ifc.nx[p]
    let s : State := { s with ifc := { s.ifc with nx := s.ifc.nx.set p { nx with full := nx.full.set r 0 } } }
    ((s.setReg (R.nxRingCfg p r) w).setReg (R.nxRingWidx p r) 0).setReg (R.nxRingRidx p r) 0
  else s.setReg (R.nxRingCfg p r) (wbit w 16 false)

/-- NXp_RINGr_RIDX, bits 10:0: a value outside the ring is ignored (R417). -/
def writeNxRidx (s : State) (p r : Fin 4) (w : Word) : State :=
  let w := w &&& 0x7FF
  if w.toNat < 2 ^ s.rfld (R.nxRingCfg p r) 15 12 then s.setReg (R.nxRingRidx p r) w else s

/-- NXp_RULEr_MATCH: a rule that becomes enabled has taken no frame yet (R415). -/
def writeNxRule (s : State) (p : Fin 4) (r : Fin 16) (w : Word) : State :=
  let was := s.rbit (R.nxRuleMatch p r) 16
  let s := s.setReg (R.nxRuleMatch p r) w
  if !was && bit w 16 then
    let nx := s.ifc.nx[p]
    { s with ifc := { s.ifc with nx := s.ifc.nx.set p { nx with seqs := nx.seqs.set r none } } }
  else s

/-! ### Trip outputs and heartbeat (R424-R426) -/

/-- The latches that a write has set in this tick (R425). -/
def State.tripJust (s : State) : Word := if s.ifc.tripSet.1 = s.ticks then s.ifc.tripSet.2 else 0

/-- TRIP_LATCH, which a write of ones leaves at `w` (R425). -/
def writeTripLatch (s : State) (w wv : Word) : State :=
  { s.setReg R.tripLatch w with ifc := { s.ifc with tripSet := (s.ticks, s.tripJust ||| (wv &&& 0xFF)) } }

/-- TRIP_CLR: the key C1E4h clears latches, but for those set in the same tick, where the set wins (R425). -/
def writeTripClr (s : State) (w : Word) : State :=
  if wfld w 31 16 = 0xC1E4 then s.modReg R.tripLatch (· &&& ~~~ (w &&& 0xFF &&& ~~~ s.tripJust)) else s

/-- TRIP_MASK, bits 7:0: every change is recorded (R425). -/
def writeTripMask (s : State) (m : Master) (w : Word) : State :=
  let old := s.reg R.tripMask
  let w := w &&& 0xFF
  let s := s.setReg R.tripMask w
  if w = old then s else formRecord s 7 1 (origin m) [old, w]

/-- TRIP_HBCFG: a nonzero period restarts the period and leaves EXPIRED; a zero period ends supervision and clears it
(R426). -/
def writeHbCfg (s : State) (w : Word) : State :=
  let s := s.setReg R.tripHbcfg w
  if wfld w 15 0 = 0 then s.setBit R.tripHbcfg 16 false
  else { s with ifc := { s.ifc with hbCnt := 0 } }

/-- TRIP_HBKICK: A55Ah restarts the period and clears EXPIRED while supervision runs (R426). -/
def writeHbKick (s : State) (w : Word) : State :=
  if wfld w 15 0 = 0xA55A && s.rfld R.tripHbcfg 15 0 != 0 then
    { s.setBit R.tripHbcfg 16 false with ifc := { s.ifc with hbCnt := 0 } }
  else s

/-! ### Chronometer, watchdogs, timers -/

/-- Alarm `k` raises its event and is disarmed (R420). -/
def fireAlarm (s : State) (k : Nat) : State := assertEvent (s.setBit R.chrArm k false) (506 + k)

/-- The time of alarm `k`. -/
def State.almTime (s : State) (k : Nat) : Nat :=
  (s.reg (R.chrAlmL k)).toNat + 2 ^ 32 * (s.reg (R.chrAlmH k)).toNat

/-- Fire the armed alarms whose time has been reached. -/
def fireAlarms (s : State) : State :=
  (List.range 4).foldl (fun s k => if s.rbit R.chrArm k && s.almTime k ≤ s.time.toNat then fireAlarm s k else s) s

/-- Ticks in a millisecond. -/
def msTicks : Nat := 1000000

/-- Reload the compute watchdog from PERIOD (R474). -/
def reloadCwdg (s : State) : State := { s with rst := { s.rst with cwdg := msTicks * s.rfld R.wdgCfg 13 0 } }

/-- WDG_CFG: EN set from 0 reloads the count (R474). -/
def writeWdgCfg (s : State) (w : Word) : State :=
  let was := s.rbit R.wdgCfg 16
  let s := s.setReg R.wdgCfg w
  if !was && bit w 16 then reloadCwdg s else s

/-- WDG_KICK: 3C3Ch reloads (R474). -/
def writeWdgKick (s : State) (w : Word) : State := if wfld w 15 0 = 0x3C3C then reloadCwdg s else s

/-- BNM_WDGKICK: 5A5Ah reloads the Binnacle watchdog (R397). -/
def writeBnmKick (s : State) (w : Word) : State :=
  if wfld w 15 0 = 0x5A5A then { s with bnm := { s.bnm with wdg := msTicks * s.rfld R.bnmWdgCfg 13 0 } } else s

/-- The values written to TMRn_CMP and TMRn_CNT while the timer counts take effect (R421). -/
def takeTimer (s : State) (n : Fin 16) : State :=
  let x := s.ifc.tmrNew[n]
  let s : State := { s with ifc := { s.ifc with tmrNew := s.ifc.tmrNew.set n (none, none) } }
  (s.setReg (R.tmrCmp n) (x.1.getD (s.reg (R.tmrCmp n)))).setReg (R.tmrCnt n) (x.2.getD (s.reg (R.tmrCnt n)))

/-- Every timer takes what was written to it: a reset finds no written value that has not taken effect (R421, R483). -/
def takeTimers (s : State) : State := (List.finRange 16).foldl takeTimer s

/-- TMRn_CFG: a timer that starts counts its first prescaled advance from there, and one that stops takes what was
written to it (R421). -/
def writeTmrCfg (s : State) (n : Fin 16) (w : Word) : State :=
  let was := s.rbit (R.tmrCfg n) 0
  let s := s.setReg (R.tmrCfg n) w
  if !bit w 0 then takeTimer s n
  else if !was then { s with ifc := { s.ifc with tmrPre := s.ifc.tmrPre.set n 0 } }
  else s

/-- TMRn_CMP or TMRn_CNT (`cnt`): while EN = 1 the value takes effect at the next advance (R421). -/
def writeTimer (s : State) (n : Fin 16) (cnt : Bool) (w : Word) : State :=
  if s.rbit (R.tmrCfg n) 0 then
    let x := s.ifc.tmrNew[n]
    { s with ifc := { s.ifc with tmrNew := s.ifc.tmrNew.set n (if cnt then (x.1, some w) else (some w, x.2)) } }
  else s.setReg (if cnt then R.tmrCnt n else R.tmrCmp n) w

/-- The set-point steps towards a new target while the Binnacle is not throttling (R28, R376). -/
def followTarget (s : State) : State :=
  if s.bnm.sensors.throttle then s
  else { s with bnm := { s.bnm with sensors := { s.bnm.sensors with goal := s.rfld R.bnmVctl 9 0 } } }

/-! ### The Sextant -/

/-- Whether a halt or a stop of the channel is complete: it does not run, and no drain of it is left (R460, R497). -/
def Channel.quietHalt (ch : Channel) : Bool := ch.st != .running && ch.st != .waiting && ch.drains.isEmpty

/-- SX_HALTED.ALL is set once every channel has stopped running and its last drain has ended (R461, R497). -/
def noteAll (s : State) : State :=
  if s.rbit R.sxHaltReq 16 && channels.all fun c => (s.chan c).quietHalt then
    { (s.setBit R.sxHaltReq 16 false) with sx := { s.sx with all := true } }
  else s

/-- Halt requests: bits set, requests for channels that are stopped or locked up ignored (R460). -/
def writeHaltReq (s : State) (m : Master) (set : Word) : State :=
  let all := bit set 16
  let live := fun (c : Chan) => (s.chan c).st = .running ∨ (s.chan c).st = .waiting
  let wanted := channels.filter fun c => (bit set c.val || all) && decide (live c)
  let s := wanted.foldl (fun s c =>
    let s := s.setBit R.sxHaltReq c.val true
    { s with sx := { s.sx with asker := s.sx.asker.set c (origin m) } }) s
  let s := if bit set 17 && !s.bnm.halted then
      { (s.setBit R.sxHaltReq 17 true) with sx := { s.sx with bnmAsker := origin m } } else s
  if all then noteAll (s.setBit R.sxHaltReq 16 true) else s

/-- Return a halted channel to running with its caches invalidated and its vectors loaded (R462). -/
def releaseChan (s : State) (c : Chan) : State := refetch (s.modChan c fun ch => { ch with st := .running }) c

/-- Release the channels, the whole domain or the Binnacle that `w` names (R462, R463). With any channel released not every
channel is halted any more, and what paused with them goes on (R461). -/
def release (s : State) (who : Nat) (w : Word) : State :=
  let all := bit w 16
  let halted := haltedMask s
  let cs := channels.filter fun c => (bit w c.val || all) && halted / 2 ^ c.val % 2 == 1
  let mask := cs.foldl (fun n c => n + 2 ^ c.val) 0
  let s := cs.foldl releaseChan s
  let s := if all || !cs.isEmpty then { s with sx := { s.sx with all := false } } else s
  let s := if bit w 17 then
      ({ s with bnm := { s.bnm with halted := false } } : State).modChan bnmCore fun ch =>
        if ch.st = .halted then { ch with st := .running } else ch
    else s
  let s := if !cs.isEmpty && channels.all (fun c => (s.chan c).st != .halted) && s.rst.cwdg < msTicks then
      { s with rst := { s.rst with cwdg := msTicks } } else s
  formRecord s 10 2 who [BitVec.ofNat 32 mask, ofBool all, ofBool (bit w 17)]

/-- SX_DTXn written by its channel (R467). -/
def writeDtx (s : State) (c : Fin 16) (w : Word) : State :=
  if s.rbit R.sxTstat c.val then s else (s.setReg (R.sxDtx c) w).setBit R.sxTstat c.val true

/-- SX_DRXn written by the Sextant (R467). -/
def writeDrx (s : State) (c : Fin 16) (w : Word) : State :=
  if s.rbit R.sxTstat (16 + c.val) then s
  else assertEvent ((s.setReg (R.sxDrx c) w).setBit R.sxTstat (16 + c.val) true) (8 * c.val + 4)

/-! ### Kenrid signals -/

/-- KL_SIGNAL: a signal goes to device DEV (R436). -/
def writeSignal (s : State) (w : Word) : State :=
  match s.kenridRoute ⟨wfld w 2 0 % 8, by omega⟩ with
  | some q => sendFlit s q (wfld w 2 0) (.signal (bit w 3) (wfld w 31 16))
  | none => s

/-! ### The write itself -/

/-- What a register holds for the master that writes it, where each master has its own: LB_RSEL and LB_FRZ (R450, R452). -/
def State.ownWord (s : State) (m : Master) (o : Nat) : Word :=
  if o = R.lbRsel then s.log.rsel[requester m]
  else if o = R.lbFrz then ofBool (s.rbit R.lbFrzMask (requester m).val)
  else s.reg o

/-- A write of an accepted register: `w` is the merged word, `wv` the written bits that are covered, `own` the word of a
register that each master has of its own, or that is stored whole, merged likewise (R522). -/
def applyWrite (s : State) (m : Master) (o : Nat) (w wv own : Word) : State :=
  if R.evcfg 0 ≤ o && o < R.evcfg 512 then writeEvcfg s ((o - R.evcfg 0) / 4) w
  else if R.evcPend 0 ≤ o && o < R.evcPend 16 then writeEvcPend s ((o - R.evcPend 0) / 4) wv
  else if o = R.evcSet then writeEvcSet s wv
  else if (List.range 8).any (fun k => o = R.mcEccCnt k ∨ o = R.mcSealCnt k) ∨ o = R.cbcEccCnt then s.setReg o 0
  else if h : R.cbOwner 0 ≤ o ∧ o < R.cbOwner 32 then
    setOwner s m ⟨(o - R.cbOwner 0) / 4, by simp [R.cbOwner] at h ⊢; omega⟩ ((w &&& 0x1F) ||| (wv &&& 0x100))
  else if 0x900000 ≤ o && o < 0x940000 then
    let p : Fin 4 := ⟨(o - 0x900000) / 0x10000 % 4, by omega⟩
    let r : Fin 16 := ⟨(o % 0x10000 - 0x200) / 0x10 % 16, by omega⟩
    let g : Fin 4 := ⟨(o % 0x10000 - 0x400) / 0x20 % 4, by omega⟩
    if o = R.nxCfg p then writeNxCfg s p w
    else if o = R.nxRuleMatch p r then writeNxRule s p r w
    else if o = R.nxRingCfg p g then writeNxRing s p g w
    else if o = R.nxRingRidx p g then writeNxRidx s p g w
    else if o = R.nxRingThr p g then (if s.rbit (R.nxRingCfg p g) 16 then s else s.setReg o w)
    else s.setReg o w
  else if R.msixTable 0 0 ≤ o && o < R.msixTable 512 0 && o % 16 = 0xC then
    unmask (s.setReg o w) ((o - R.msixTable 0 0) / 16)
  else if o = R.klSignal then writeSignal s wv
  else if o = R.gpioSet then s.modReg R.gpioOut (· ||| wv)
  else if o = R.gpioClr then s.modReg R.gpioOut (· &&& ~~~ wv)
  else if o = R.tripLatch then writeTripLatch s w wv
  else if o = R.tripClr then writeTripClr s wv
  else if o = R.tripMask then writeTripMask s m w
  else if o = R.tripHbcfg then writeHbCfg s w
  else if o = R.tripHbkick then writeHbKick s wv
  else if o = R.chrArm then fireAlarms (s.setReg o w)
  else if o = R.wdgCfg then writeWdgCfg s w
  else if o = R.wdgKick then writeWdgKick s wv
  else if R.tmrCfg 0 ≤ o && o < R.tmrCfg 16 && o % 0x10 = 0 then
    writeTmrCfg s ⟨(o - R.tmrCfg 0) / 0x10 % 16, by omega⟩ w
  else if R.tmrCfg 0 ≤ o && o < R.tmrCfg 16 && o % 0x10 ≤ 8 then
    writeTimer s ⟨(o - R.tmrCfg 0) / 0x10 % 16, by omega⟩ (o % 0x10 == 8) w
  else if o = R.lbFrz then freezeBit s (requester m) (bit own 0)
  else if o = R.lbClear then (if wfld wv 15 0 = 0x7C1E then clearLog s (origin m) else s)
  else if o = R.lbRsel then
    { s with log := { s.log with rsel := s.log.rsel.set (requester m) (own &&& 0x3FFF) } }
  else if R.ringCbaseL 0 ≤ o && o < 0x1000100 then
    let n : Fin 4 := ⟨(o - 0x1000000) / 0x40 % 4, by omega⟩
    if o = R.ringCfg n then writeRingCfg s n w
    else if s.rbit (R.ringCfg n) 16 then s
    else s.setReg o w
  else if o = R.bnmVctl then followTarget (s.setReg o w)
  else if o = R.bnmWdgKick then writeBnmKick s wv
  else if o = R.sxHaltReq then writeHaltReq s m (wv &&& 0x3FFFF)
  else if o = R.sxRelease then release s (origin m) wv
  else if R.sxDtx 0 ≤ o && o < R.sxDtx 16 then s
  else if R.sxDrx 0 ≤ o && o < R.sxDrx 16 then
    (if m = .sextant then writeDrx s ⟨(o - R.sxDrx 0) / 4 % 16, by omega⟩ own else s)
  else if o = R.sxFeedCtl then s
  else s.setReg o w

/-- A write of one control-space word. SX_MDATA is only stored here (`ctlWrite` performs it), and a Kenrid port reaches
KL_SIGNAL only (R435). -/
def ctlWrite0 (s : State) (m : Master) (o : Nat) (be : BitVec 4) (v : Word) : State :=
  let cov := byteMask be
  if 0x100000 ≤ o && o < 0x110000 then
    chanWrite s m (Fin.castSucc ⟨(o - 0x100000) / 0x1000 % 16, by omega⟩) (o % 0x1000) v cov
  else match channelOf m, decide (0x1100000 ≤ o ∧ o < 0x1200000) with
    | some c, true => if o = R.sxDtx c then writeDtx s c (merge cov (s.reg o) v) else s
    | _, _ =>
      match regDesc o with
      | none => s
      | some d =>
        if d.wr.accepts m ∨ (R.cbOwner 0 ≤ o ∧ o < R.cbOwner 32) then
          applyWrite s m o (limited o (s.reg o) (d.after (s.reg o) v cov)) (v &&& cov) (merge cov (s.ownWord m o) v)
        else s

/-- A write of a word of physical memory through M2 (R466); `none` where it has to wait. -/
def sxTryWrite (s : State) (pa : Nat) (v : Word) : Option State :=
  if s.sxKeyRefused then some (sxDone s true)
  else match s.target pa with
    | .dram =>
      if !s.writable pa || !s.keyWritable pa then none
      else match keyCheck s pa (BitVec.ofNat 4 (s.rfld R.sxMctl 3 0)) true with
        | (.pass, s) => some (sxDone (writeMem 5 (markKey s pa true) pa (wordBytes v)) false)
        | (_, s) => some (sxDone s true)
    | .control o => some (sxDone (ctlWrite0 s .sextant (o / 4 * 4) 15 v) false)
    | .pcie x =>
      some (if s.rbit R.pxLink 0 then sxDone (s.setHbytes (s.hostAddr x) (wordBytes v)) false else sxDone s true)
    | .kenrid d x =>
      some (match s.kenridRoute d with
       | some q => sxDone (sendFlit s q d.val (.write (s.windowAddr d x) (wordBytes v))) false
       | none => sxDone (defaultAnswer s .sextant pa true) true)
    | _ =>
      match writeXbar s .sextant pa (wordBytes v) with
      | (.ok, s) => some (sxDone s false)
      | (.wait, _) => none
      | (.error, s) => some (sxDone s true)

/-- A write of SX_MDATA (R466); one that has to wait is performed by the tick that finds it can be (log 69). -/
def sxMemWrite (s : State) (v : Word) : State :=
  if s.sx.pend.isEmpty then (sxTryWrite s s.sxAddr v).getD (sxWait s (some v)) else sxWait s (some v)

/-- The oldest access of SX_MDATA that waits is performed when it can be; the data of a read reach SX_MDATA and the Sextant
(R457, R466). -/
def sxRetry (s : State) : State :=
  match s.sx.pend with
  | [] => s
  | (pa, x) :: rest =>
    let t : State := { s with sx := { s.sx with pend := rest } }
    match x with
    | none => (match sxTryRead t pa with
      | some (w, t) => (t.setReg R.sxMdata w).answers (.word w)
      | none => s)
    | some v => (sxTryWrite t pa v).getD s

/-- A write of one control-space word by master `m` with byte enables `be` (R522). The Sextant does nothing while
DBGEN = 0 (R458). -/
def ctlWrite (s : State) (m : Master) (o : Nat) (be : BitVec 4) (v : Word) : State :=
  if m = .sextant ∧ ¬ s.rbit R.bnmLcs 8 then s
  else if o = R.sxMdata && asBnm m then sxMemWrite s (merge (byteMask be) (s.reg R.sxMdata) v)
  else ctlWrite0 s m o be v

/-- A write of bytes to the control space: each word is written once, in ascending order. -/
def ctlWriteBytes : (fuel : Nat) → State → Master → Nat → List Byte → State
  | 0, s, _, _, _ => s
  | _, s, _, _, [] => s
  | f + 1, s, m, o, bs =>
    let k := 4 - o % 4
    let now := bs.take k
    let be := (BitVec.ofNat 4 ((2 ^ now.length - 1) * 2 ^ (o % 4)))
    let v := BitVec.ofNat 32 (leNat now * 2 ^ (8 * (o % 4)))
    ctlWriteBytes f (ctlWrite s m (o / 4 * 4) be v) m (o + k) (bs.drop k)

/-- How a write that has passed its checks ends at its target. -/
inductive Put where
  | ok
  | error
  | wait
  deriving DecidableEq, Repr

/-- A write of bytes in one line at its target by a channel whose checks have passed (R62, R309, R311, R329, R407,
R435). A bank tests the owner that stands when the write arrives (R294-R296); the boot ROM answers a write with an error
(log 47). -/
def writeTarget (s : State) (m : Master) (pa : Nat) (bs : List Byte) : Put × State :=
  match s.target pa with
  | .dram => if s.inited pa then (.ok, writeLine s pa bs) else (.wait, s)
  | .chart b =>
    (match s.owns b (ownerCode m) with
     | .pass => (.ok, writeLine s pa bs)
     | .wait => (.wait, s)
     | .refuse => (.error, denyAccess s m b pa true))
  | .control o => (.ok, ctlWriteBytes bs.length s m o bs)
  | .pcie x => if s.rbit R.pxLink 0 then (.ok, s.setHbytes (s.hostAddr x) bs) else (.error, s)
  | .kenrid d x =>
    (match s.kenridRoute d with
     | some q => (.ok, sendFlit s q d.val (.write (s.windowAddr d x) bs))
     | none => (.error, defaultAnswer s m pa true))
  | .sram _ => (.ok, s.setBytes pa bs)
  | .rom _ => (.error, s)
  | .dflt => (.error, defaultAnswer s m pa true)

/-- How a write there would end, as the target stands. -/
def State.putState (s : State) (m : Master) (pa : Nat) : Put :=
  match s.target pa with
  | .dram => if s.inited pa then .ok else .wait
  | .chart b => (match s.owns b (ownerCode m) with | .pass => .ok | .wait => .wait | .refuse => .error)
  | .control _ | .sram _ => .ok
  | .pcie _ => if s.rbit R.pxLink 0 then .ok else .error
  | .kenrid d _ => if (s.kenridRoute d).isSome then .ok else .error
  | .rom _ | .dflt => .error

/-- A checked write at an effective address: how it ends. -/
inductive Stored where
  | ok
  | fail (vec : Nat) (addr : Word)
  | wait
  deriving DecidableEq, Repr

/-- Do what a store does in the mode it was made in, which CBn_OWNER and a region map test (R282, R293). -/
def inMode (s : State) (c : Chan) (sup : Bool) (f : State → State) : State :=
  let now := (s.chan c).sup
  (f (s.modChan c fun ch => ch.setCsw 12 sup)).modChan c fun ch => ch.setCsw 12 now

/-- `inMode` for a write that answers. -/
def answerInMode (s : State) (c : Chan) (sup : Bool) (f : State → Stored × State) : Stored × State :=
  let now := (s.chan c).sup
  let r := f (s.modChan c fun ch => ch.setCsw 12 sup)
  (r.1, r.2.modChan c fun ch => ch.setCsw 12 now)

/-- Write pieces, each after its key byte has been marked (R288). -/
def putParts (s : State) (c : Chan) : List Piece → State
  | [] => s
  | p :: ps => putParts (writeTarget (markKey s p.pa true) (.chan c) p.pa p.bytes).2 c ps

/-- Write checked pieces, each with its effective address: all of them, or none where a target would answer with an
error, which is reported at its piece, or has to wait (R87, R523). -/
def writeParts (s : State) (c : Chan) (es : List (Nat × Nat)) (ps : List Piece) : Stored × State :=
  match (es.zip ps).find? fun x => s.putState (.chan c) x.2.pa = .error with
  | some (e, p) => (.fail 6 (BitVec.ofNat 32 e.1), (writeTarget s (.chan c) p.pa p.bytes).2)
  | none => if ps.any fun p => s.putState (.chan c) p.pa = .wait then (.wait, s) else (.ok, putParts s c ps)

/-- The first piece that a poisoned line or word would absorb: the write meets an uncorrectable error (R96, R273, R323,
R334). -/
def State.metPoison (s : State) (es : List (Nat × Nat)) (ps : List Piece) : Option Word :=
  ((es.zip ps).find? fun x =>
    match s.target x.2.pa with
    | .dram => x.2.bytes.length < 64 && s.poison.contains (x.2.pa / 64)
    | .chart _ => (List.range x.2.bytes.length).any fun k =>
        s.cpoison.contains ((x.2.pa + k) / 4) &&
          ((x.2.pa + k) / 4 * 4 < x.2.pa || x.2.pa + x.2.bytes.length < (x.2.pa + k) / 4 * 4 + 4)
    | _ => false).map fun x => BitVec.ofNat 32 x.1.1

/-- `writeParts` for what must not be lost, a frame or a carry record: a poisoned line that absorbs part of it is a
failure too (R96, R273). -/
def writeSure (s : State) (c : Chan) (es : List (Nat × Nat)) (ps : List Piece) : Stored × State :=
  match writeParts s c es ps with
  | (.ok, t) => (match s.metPoison es ps with | some a => (.fail 7 a, t) | none => (.ok, t))
  | r => r

/-- A write of bytes (at most 64) at effective address `e`: checked under R126, then made whole (R87), in the mode of its
instruction (R281). -/
def writeEff (s : State) (c : Chan) (h : How) (e : Nat) (bs : List Byte) : Stored × State :=
  match checkAccess s c h e bs.length with
  | (.fail v a, s) => (.fail v a, s)
  | (.wait, s) => (.wait, s)
  | (.ok ps, s) => answerInMode s c (!h.user) fun s => writeParts s c (split e bs.length) (cutPieces ps bs)

/-- `writeEff` for a frame word or a line of a carry record. -/
def writeEffSure (s : State) (c : Chan) (h : How) (e : Nat) (bs : List Byte) : Stored × State :=
  match checkAccess s c h e bs.length with
  | (.fail v a, s) => (.fail v a, s)
  | (.wait, s) => (.wait, s)
  | (.ok ps, s) => answerInMode s c (!h.user) fun s => writeSure s c (split e bs.length) (cutPieces ps bs)

/-- Write bytes that may span several lines; the first failure ends the writing. -/
def writeLong : (fuel : Nat) → State → Chan → How → Nat → List Byte → Stored × State
  | 0, s, _, _, _, _ => (.ok, s)
  | _, s, _, _, _, [] => (.ok, s)
  | f + 1, s, c, h, e, bs =>
    let k := 64 - e % 64
    match writeEff s c h e (bs.take k) with
    | (.ok, s) => writeLong f s c h (e + k) (bs.drop k)
    | r => r

/-- `writeLong` for a carry record. -/
def writeLongSure : (fuel : Nat) → State → Chan → How → Nat → List Byte → Stored × State
  | 0, s, _, _, _, _ => (.ok, s)
  | _, s, _, _, _, [] => (.ok, s)
  | f + 1, s, c, h, e, bs =>
    let k := 64 - e % 64
    match writeEffSure s c h e (bs.take k) with
    | (.ok, s) => writeLongSure f s c h (e + k) (bs.drop k)
    | r => r

end Sys2Proof.Machine
end

