-- ==== Sys2Proof/Machine/Settings.lean ====
section
/-! DEFINITION. The retained store as the settings image mirrors it, and the writing of a settings record (15 R483-R486,
12 R385). -/
namespace Sys2Proof.Machine

/-- The T fields that differ from their power-on value; the memory-initialisation state is not mirrored (R484). -/
def mirrored (s : State) : List (Nat × Word) :=
  s.regs.filterMap fun (o, w) =>
    match regDesc o with
    | some d => if o ≠ R.smsMinit ∧ w &&& d.t ≠ d.por &&& d.t then some (o, w &&& d.t) else none
    | none => none

/-- What the settings image holds of the present state. -/
def settingsOf (s : State) : Settings where
  regs := mirrored s
  masks := s.chans.toList.map fun ch => (ch.pmask, ch.weight)
  nonce := s.reg R.xbgNonce
  role := s.bnm.role
  subsys := s.bnm.subsys
  rxCeil := s.bnm.rxCeil
  txCeil := s.bnm.txCeil

/-- The retained store as a record's 8 KiB hold it; its layout is not architectural (R484). -/
def SettingsRec.store (r : SettingsRec) : List Byte :=
  Config.settingsImage r.seq r.val.regs r.val.masks
    [r.val.nonce.toNat, r.val.role.toNat, r.val.subsys.toNat, r.val.rxCeil, r.val.txCeil]

/-- Bytes 0-15 of a record's header: MAGIC, FMT, SEQ and LENGTH (R484). -/
def SettingsRec.head (r : SettingsRec) : List Byte :=
  leBytes 4 0x53455454 ++ leBytes 2 1 ++ [0, 0] ++ leBytes 4 r.seq ++ leBytes 4 8192

/-- Whether a record's CRC is valid: the CRC-32 of R520 over bytes 0-15 and the store (R484). -/
def SettingsRec.crcOk (r : SettingsRec) : Bool := r.crc == crc32 (r.head ++ r.store)

/-- A record with its CRC. -/
def SettingsRec.sealed (r : SettingsRec) : SettingsRec := { r with crc := crc32 (r.head ++ r.store) }

/-- The record of the highest sequence number. -/
def highest : List SettingsRec → Option SettingsRec
  | [] => none
  | r :: rs =>
    match highest rs with
    | some q => if r.seq < q.seq then some q else some r
    | none => some r

/-- The newest valid record (R485). -/
def newest (l : List SettingsRec) : Option SettingsRec := highest (l.filter (·.crcOk))

/-- First byte of a record position in the NOR (R386, R484). -/
def settingsOffset (pos : Nat) : Nat := 0x100000 + 0x3000 * pos

/-- Write a record at the next position in rotation, 85 in all (R484). One whose write fails fails its CRC: the record that
stood at its position is gone, the newest valid one stands, and SETTINGS_WEAR is recorded (R492). -/
def saveSettings (s : State) (ok : Bool) : State :=
  let last := newest s.nor.settings
  let pos := ((last.map fun r => (r.pos + 1) % 85).getD 0)
  let seq := ((last.map (·.seq + 1)).getD 0)
  let rest := s.nor.settings.filter (·.pos != pos)
  let r := SettingsRec.sealed ⟨pos, seq, settingsOf s, 0⟩
  let s := { s with
      nor := { s.nor with settings := rest ++ [{ r with crc := if ok then r.crc else ~~~r.crc }] }
      bnm := { s.bnm with lastSet := some s.ticks } }
  if ok then s else formRecord s 5 6 0x210 [BitVec.ofNat 32 (settingsOffset pos)]

/-- Records that the wear budget of the region allows (R486). -/
def settingsBudget : Nat := 8500000

/-- A record written at once (R484). Beyond the wear budget its write may fail, and whether it does is a free value (R492,
log 66). -/
def saveNow (s : State) : State :=
  if ((newest s.nor.settings).map (·.seq)).getD 0 < settingsBudget then saveSettings s true
  else
    let (w, s) := s.freeWord
    saveSettings s (bit w 0)

/-- Ticks that must pass between two records, but for those written at once (R484). -/
def settingsGap : Nat := 60000000000

end Sys2Proof.Machine
end

