-- ==== Sys2Proof/Machine/Reply.lean ====
section
/-! DEFINITION. How a command ends: the status packet and where it goes (11 R343, R347-R349, R366-R369; 12 R384, R385,
R400), and the stop commands whose channel has stopped (R359). -/
namespace Sys2Proof.Machine

/-- A status packet (R347). -/
def statusBytes (p : Packet) (st : Status) (fast final phase : Bool) : List Byte :=
  leBytes 2 p.tag ++ leBytes 2 st.code ++ wordBytes st.detail ++ wordBytes st.result ++ leBytes 2 p.opcode ++
  [BitVec.ofNat 8 (phase.toNat + 2 * final.toNat + 4 * fast.toNat), 0]

/-! ### Rings -/

/-- Change what ring `n` holds. -/
def State.modRing (s : State) (n : Fin 4) (f : RingSt → RingSt) : State :=
  { s with cmds := { s.cmds with rings := s.cmds.rings.set n (f s.cmds.rings[n]) } }

/-- Entries of a command ring and of a status ring. -/
def State.cSize (s : State) (n : Fin 4) : Nat := 2 ^ s.rfld (R.ringCfg n) 3 0
/-- See `State.cSize`. -/
def State.sSize (s : State) (n : Fin 4) : Nat := 2 ^ s.rfld (R.ringCfg n) 11 8
/-- Host address of the command ring. -/
def State.cBase (s : State) (n : Fin 4) : Nat := (s.reg (R.ringCbaseL n)).toNat + 2 ^ 32 * (s.reg (R.ringCbaseH n)).toNat
/-- Host address of the status ring. -/
def State.sBase (s : State) (n : Fin 4) : Nat := (s.reg (R.ringSbaseL n)).toNat + 2 ^ 32 * (s.reg (R.ringSbaseH n)).toNat

/-- Ring `n` halts (R343): recorded, and EV497. -/
def haltRing (s : State) (n : Fin 4) (ecode : Nat) : State :=
  if s.rbit (R.ringStat n) 1 then s
  else
    let s := (s.setBit (R.ringStat n) 1 true).setFld (R.ringStat n) 15 8 ecode
    assertEvent (formRecord s 6 1 (0x213 + n.val) [BitVec.ofNat 32 ecode]) 497

/-- Whether the status ring has no free entry (R341, R367). -/
def State.sFull (s : State) (n : Fin 4) : Bool :=
  (s.rfld (R.ringStail n) 15 0 + 1) % s.sSize n == s.cmds.rings[n].head

/-- Show in BNM_RINGn_STAT whether the ring waits for status space (R367). -/
def showFull (s : State) (n : Fin 4) : State := s.setBit (R.ringStat n) 2 (s.sFull n)

/-- Write one status entry, which has space (R348); while the PCI Express link is down the write meets an error
response (R343). -/
def writeStatus (s : State) (n : Fin 4) (p : Packet) (st : Status) (fast final : Bool) : State :=
  if !s.rbit R.pxLink 0 then haltRing s n 3
  else
    let tail := s.rfld (R.ringStail n) 15 0
    let phase := s.rbit (R.ringStail n) 16
    let s := s.setHbytes (s.sBase n + 16 * tail) (statusBytes p st fast final phase)
    let next := (tail + 1) % s.sSize n
    let s := s.setReg (R.ringStail n) (BitVec.ofNat 32 (next + (phase != (next == 0)).toNat * 65536))
    let s := showFull s n
    if final then assertEvent s 496 else s

/-- Write the final status of ring `n` if its command has ended and the status ring has space (R349, R367). -/
def flushStatus (s : State) (n : Fin 4) : State :=
  match s.cmds.rings[n].run with
  | some r =>
    (match r.final with
     | some st =>
       if s.sFull n then showFull s n
       else
         let s := writeStatus s n r.pkt st r.fast true
         (s.modRing n fun x => { x with run := none }).setBit (R.ringStat n) 0 false
     | none => s)
  | none => s

/-- The command of ring `n` has ended (R342, R349, R353). -/
def endRing (s : State) (n : Fin 4) (st : Status) : State :=
  if s.cmds.rings[n].drop then
    (s.modRing n fun x => { x with run := none, fwd := none, drop := false }).setBit (R.ringStat n) 0 false
  else flushStatus (s.modRing n fun x =>
    { x with run := x.run.map fun r => { r with final := some st, waits := none }, prev := some st.code }) n

/-! ### The other sources -/

/-- The command of the mailbox has ended: MBX_REPLY, DONE and EV496 (R400); the reply carries PHASE 1. -/
def endMailbox (s : State) (p : Packet) (st : Status) : State :=
  assertEvent { s with cmds := { s.cmds with
    mbx := none, mbxReply := statusBytes p st false true true, mbxDone := true } } 496

/-- The 12 bytes that precede a packet's or reply's ciphertext (R384). -/
def vlanHead (keyId dir : Byte) (counter : Nat) : List Byte := [keyId, dir, 0, 0] ++ leBytes 8 counter
/-- The IV of a packet or reply: three zero bytes, DIR, COUNTER. -/
def vlanIv (dir : Byte) (counter : Nat) : List Byte := [0, 0, 0, dir] ++ leBytes 8 counter

/-- Send a reply over the management VLAN: its counter only increases, and the ceiling is raised in a settings record
before it would be reached (R384, R385). -/
def sendVlan (s : State) (keyId : Byte) (body : List Byte) : State :=
  match s.bnm.mgmtKey with
  | none => s
  | some k =>
    let n := s.bnm.txNext
    let s := if s.bnm.txCeil ≤ n then
        saveNow { s with bnm := { s.bnm with txCeil := s.bnm.txCeil + 2 ^ 20 } } else s
    let bytes := vlanHead keyId 1 n ++ Config.gcmSeal k (vlanIv 1 n) (vlanHead keyId 1 n) body
    let q := s.cmds.vlanPort
    let nx := s.ifc.nx[q]
    { s with bnm := { s.bnm with txNext := n + 1 }
             ifc := { s.ifc with nx := s.ifc.nx.set q { nx with tx := nx.tx ++ [⟨bytes, false⟩] } } }

/-- The command of the management VLAN has ended: the sealed reply carries its status packet, PHASE 1. -/
def endVlan (s : State) (p : Packet) (st : Status) : State :=
  { sendVlan s s.cmds.vlanKey (statusBytes p st false true true ++ s.cmds.vlanData) with
    cmds := { s.cmds with vlan := none, vlanData := [] } }

/-- A forwarded command has ended: its status goes back to the lodestar, device 0 (R368). -/
def endForwarded (s : State) (n : Fin 4) (l : List Byte) : State :=
  let s := { s with cmds := { s.cmds with fwd := s.cmds.fwd.set n none } }
  match s.kenridRoute 0 with
  | some q => sendFlit s q 0 (.status n l)
  | none => s

/-- The command running for a source. -/
def State.running (s : State) : CmdSrc → Option Running
  | .ring n => s.cmds.rings[n].run
  | .mailbox => s.cmds.mbx
  | .vlan => s.cmds.vlan
  | .forwarded n => s.cmds.fwd[n]
  | .console _ => none

/-- The command that runs here for a source: not one that has been sent to a cascade device (R354, R368, R369). -/
def State.runningHere (s : State) (src : CmdSrc) : Option Running :=
  let away := match src with | .ring n => s.cmds.rings[n].fwd.isSome | _ => false
  if away then none else s.running src

/-- Change the command running for a source. -/
def State.setRun (s : State) (src : CmdSrc) (r : Running) : State :=
  match src with
  | .ring n => s.modRing n fun x => { x with run := some r }
  | .mailbox => { s with cmds := { s.cmds with mbx := some r } }
  | .vlan => { s with cmds := { s.cmds with vlan := some r } }
  | .forwarded n => { s with cmds := { s.cmds with fwd := s.cmds.fwd.set n (some r) } }
  | .console _ => s

/-- The command of a source ends with a status. -/
def finishCmd (s : State) (src : CmdSrc) (p : Packet) (st : Status) : State :=
  match src with
  | .ring n => endRing s n st
  | .mailbox => endMailbox s p st
  | .vlan => endVlan s p st
  | .forwarded n =>
    let l := statusBytes p st false true true
    endForwarded (s.answers (.bytes l)) n l
  | .console _ => s.answers (.bytes (statusBytes p st false true true))

/-- The sources that hold their command in the state. -/
def sources : List CmdSrc :=
  (List.finRange 4).map .ring ++ [.mailbox, .vlan] ++ (List.finRange 4).map .forwarded

/-- End, with a status that its packet gives, every command running here that `f` picks. -/
def endWhere (s : State) (f : CmdSrc → Running → Option Status) : State :=
  sources.foldl (fun s src =>
    match s.runningHere src with
    | some r =>
      if r.final.isSome then s
      else (match f src r with
        | some st => finishCmd s src r.pkt st
        | none => s)
    | none => s) s

/-- CH_STOP and CH_QUIESCE that wait for a channel which has stopped and drained complete: RESULT is the final WM or
CHn_PC, DETAIL the bits found (R359). -/
def finishStops (s : State) (c : Chan) : State :=
  match (s.chan c).req with
  | some (.done detail) =>
    if (s.chan c).drains.any (·.dest == .stop) then s
    else
      let s := s.modChan c fun ch => { ch with req := none }
      let ch := s.chan c
      endWhere s fun _ r =>
        if r.waits = some (.chan c) then
          some ⟨0, BitVec.ofNat 32 detail, if r.pkt.opcode = 0x0105 then ch.wm else ch.pc⟩
        else none
  | _ => s

/-- What the end of a halt completes (R349, R460, R461): SX_HALTED.ALL once every channel has stopped running and
drained, and DBG_HALT once no request of its mask is open; its RESULT is the mask of those halted. -/
def finishHalts (s : State) : State :=
  let s := noteAll s
  endWhere s fun _ r => match r.waits with
    | some (.halts mask) =>
      if s.reg R.sxHaltReq &&& mask = 0 ∧ channels.all (fun c => !bit mask c.val || (s.chan c).drains.all (·.dest != .stop)) then
        some ⟨0, 0, BitVec.ofNat 32 (haltedMask s) &&& mask⟩
      else none
    | _ => none

end Sys2Proof.Machine
end

