-- ==== Sys2Proof/Machine/Ops.lean ====
section
/-! DEFINITION. What the instructions share: the loop-end step, fetch, the start of every instruction, taking an
exception and returning from one, stopping, and lockup (02, 03 R79-R97, 08 R250-R277). -/
namespace Sys2Proof.Machine

/-! ### Program counter and hardware loops -/

/-- The loop-end step of R69, for the levels below `i`. -/
def loopStep : (depth : Nat) → Channel → Channel
  | 0, ch => ch
  | i + 1, ch =>
    if h : i < 4 then
      if (ch.lpc[i]).toNat > 1 then { ch with lpc := ch.lpc.set i (ch.lpc[i] - 1), pc := ch.lps[i] }
      else
        let e := ch.lpe[i]
        let ch := { ch with lpc := ch.lpc.set i 0, lpst := i }
        if i > 0 && ch.lpe.getD (i - 1) 0 == e then loopStep i ch else ch
    else ch

/-- Go to the address `a`: the loop-end step applies when it equals LPE of the innermost level (R69). -/
def Channel.goTo (ch : Channel) (a : Word) : Channel :=
  let ch := { ch with pc := a }
  if ch.lpst > 0 && ch.lpe.getD (ch.lpst - 1) 0 == a then loopStep ch.lpst ch else ch

/-! ### Streams in flight -/

/-- Whether an instruction writes its destination only at completion (R91): a register form that uses no memory, or a
load whose destination is one of its sources. -/
def Slot.r91 (sl : Slot) : Bool :=
  sl.vec && sl.members.all fun m =>
    let isMem := fun (o : Opnd) => match o with | .mem _ => true | _ => false
    if isMem m.d || isMem m.a || isMem m.b || isMem m.c then
      (match m.d, m.a with
       | .vreg r, .mem d => d.extractLsb' 76 1 == 1 && d.extractLsb' 80 4 == BitVec.ofNat 4 r.val && d.extractLsb' 68 2 == 2
       | _, _ => false)
    else true

/-- The oldest stream instruction, register-form instruction or chain group that holds a slot (R79). -/
def Channel.head (ch : Channel) : Option Slot :=
  match ch.slots with
  | sl :: _ => some sl
  | [] => ch.group

/-- The address of a slot's first member. -/
def Slot.pc (sl : Slot) : Word := (sl.members.head?.map (·.pc)).getD 0

/-- W0: the lowest element of the head not known complete (R85, R91). -/
def Slot.w0 (sl : Slot) : Nat := if sl.r91 then 0 else sl.wm

/-- W0 of the head; that of an open group, which has dispatched nothing, is 0 (R104). -/
def Channel.headW0 (ch : Channel) : Nat :=
  match ch.slots with
  | sl :: _ => sl.w0
  | [] => 0

/-- Whether every older stream and register-form instruction has retired (R80, R81). -/
def Channel.alone (ch : Channel) : Bool := ch.slots.isEmpty && ch.group.isNone

/-- Scalar instructions that are provisional (R80). -/
def Channel.provisional (ch : Channel) : Nat :=
  ch.slots.foldl (fun n x => n + x.younger) 0

/-- Deliver the data of loads whose requests have been sent (R57, R58). -/
def deliver (g : Vector Word 16) (d : Vector (BitVec 128) 8) : List Load → Vector Word 16 × Vector (BitVec 128) 8
  | [] => (g, d)
  | l :: ls =>
    let gd := l.dsts.foldl (fun (gd : Vector Word 16 × Vector (BitVec 128) 8) x =>
      match x with
      | .g r v => (gd.1.set r v, gd.2)
      | .d r v => (gd.1, gd.2.set r v)) (g, d)
    deliver gd.1 gd.2 ls

/-- What stands at decode, for an exception that restores it (R57, R80). -/
def Channel.snap (ch : Channel) : Snap :=
  ⟨ch.g, ch.csw, ch.vl, ch.d, ch.lpst, ch.lps, ch.lpe, ch.lpc, ch.stepsH, ch.loads⟩

/-- Every outstanding load delivers. -/
def Channel.deliverAll (ch : Channel) : Channel :=
  let (g, d) := deliver ch.g ch.d ch.loads
  { ch with g := g, d := d, loads := [] }

/-- The provisional effects are undone (R80): what stood when the instruction was decoded, with the loads issued
before it delivered. Vector and mask registers are written only at retirement. -/
def Channel.undo (ch : Channel) (sn : Snap) : Channel :=
  let (g, d) := deliver sn.g sn.d sn.loads
  { ch with g := g, d := d, loads := [], csw := sn.csw, vl := sn.vl, lpst := sn.lpst,
            lps := sn.lps, lpe := sn.lpe, lpc := sn.lpc, stepsH := sn.stepsH }

/-- The slot of a channel's Ledger context, if it is in one. -/
def Ledger.slotOf (l : Ledger) (c : Chan) : Option (Fin 4) :=
  match l.loc[c] with
  | .inSlot i => some i
  | _ => none

/-- The context a channel holds in a slot. -/
def Ledger.ctxOf (l : Ledger) (c : Chan) : Option LCtx := (l.slotOf c).bind fun i => l.slots[i].ctx

/-- The channel's context is gone: LGE_CTXn shows that of the frame outside it, if there is one. With none, HOME keeps the
last home: R248 gives it no value then, and the model chooses (log 31). -/
def Ledger.popLoc (l : Ledger) (c : Chan) : Ledger :=
  let x := (l.under[c]).headD (.none, l.home[c])
  { l with loc := l.loc.set c x.1, home := l.home.set c x.2, under := l.under.set c ((l.under[c]).drop 1) }

/-- Discard a channel's context and free its slot unless the slot is pinned (R237, R240, R245). -/
def freeContext (s : State) (c : Chan) : State :=
  let slots := match s.lge.slotOf c with
    | some i => s.lge.slots.set i { s.lge.slots[i] with ctx := none }
    | none => s.lge.slots
  { s with lge := { s.lge.popLoc c with slots := slots } }

/-- The channel gives the engine up; a unit whose commit has not begun is abandoned (R24, R235). -/
def Ledger.leave (l : Ledger) (c : Chan) : Ledger :=
  if l.cur = some c then { l with cur := none, using_ := none, work := none } else l

/-- Release a channel's pin and discard its context, a reload of it included (R245). -/
def releaseLedger (s : State) (c : Chan) : State :=
  let s := freeContext s c
  let l := s.lge.leave c
  { s with lge := { l with
      slots := l.slots.map fun x => if x.pin && x.owner == c then { x with pin := false } else x
      loc := l.loc.set c .none
      under := l.under.set c []
      load := l.load.filter fun y => y.chan != c } }

/-- The LRS that is stacked with a Ledger instruction (R236): 1 when the channel holds a context for it. -/
def ledgerLrs (s : State) (c : Chan) (r : LRun) : Bool :=
  if s.lge.cur = some c ∧ s.lge.work.isSome = true then (s.lge.ctxOf c).isSome else r.resume

/-- A Ledger instruction stops at its last boundary (R235): the engine is given up and CSW.LRS says whether a context
is held. -/
def stopLedger (s : State) (c : Chan) : State :=
  match (s.chan c).wait with
  | .ledger r =>
    let s := s.modChan c fun ch => { ch.setCsw 18 (ledgerLrs s c r) with wait := .none }
    { s with lge := s.lge.leave c }
  | _ => s

/-- The units in flight are abandoned, and their pipes are free at once; a strip that is dispatched goes on in its pipe
until the drain ends (R92, R168). -/
def stopPipes (s : State) (c : Chan) : State :=
  let units := (s.chan c).slots.filter fun sl => sl.members.any (·.op.isUnit)
  { s with pipes := s.pipes.map fun p => match p.work with
      | some (d, sid, _) => if d = c ∧ units.any (·.sid == sid) = true then { p with work := none } else p
      | none => p }

/-- EV(8n + 6) when CHn_CTL.QUIET has changed from 0 to 1 (R259). -/
def noteQuiet (was : Bool) (s : State) (c : Chan) : State :=
  if !was && (s.chan c).quiet then chanEvent s c 6 else s

/-- Streams of a channel stop dispatch and their drain begins (R85, R92): the provisional effects are undone, the pc,
SRP and WM are those of the head. With no head the channel stays at its pc. -/
def stopStreams (s : State) (c : Chan) (dest : DrainTo) : State :=
  let ch := s.chan c
  match ch.head with
  | none => s.modChan c Channel.deliverAll
  | some h =>
    let wm := BitVec.ofNat 32 ch.headW0
    let ch' := ((ch.undo h.snap).setCsw 19 true).setCsw 18 false
    let drains := if ch.slots.isEmpty then ch.drains else ch.drains ++ [⟨ch.nextSid, ch.slots, dest⟩]
    noteQuiet ch.quiet ((stopPipes s c).setChan c { ch' with
      pc := h.pc, wm := wm, slots := [], group := none, wait := .none, heldX := none,
      stq := ch.stq.filter fun e => decide (e.after < h.sid), drains := drains, nextSid := ch.nextSid + 1 }) c

/-! ### Windows (R270, R271) -/

/-- The window closes: CSW.ATM becomes 0, and what it held off is noted (R270, R271). -/
def closeWindow (s : State) (c : Chan) : State :=
  (noteHeld s c).modChan c fun ch => { ch.setCsw 20 false with window := none }

/-- Whether something an earlier window held off is still waiting (R271). -/
def stillHeldOff (s : State) (c : Chan) : Bool :=
  let h := (s.chan c).heldOff
  (h.events.any fun n => s.rbit (R.evcPend (n / 32)) (n % 32) && routed s c n) || (h.halt && haltAsked s c) ||
  (h.req && (s.chan c).req.isSome)

/-! ### Lockup (R275-R277) -/

/-- The channel stops in lockup: its streams drain, and their results stand, with the final WM written nowhere; its
Ledger context and pin stay (R276). Loads that have left the device return to no instruction (log 50). -/
def stopLocked (s : State) (c : Chan) : State :=
  let ch := s.chan c
  let s := stopPipes s c
  let s := { s with lge := s.lge.leave c }
  s.modChan c fun ch' => { ch' with
    st := .lockedUp, wait := .none, window := none, heldX := none, slots := [], group := none, remotes := []
    loads := ch.loads.filter fun l => ch.remotes.all (·.id != l.id)
    stq := match ch.slots with | h :: _ => ch.stq.filter fun e => decide (e.after < h.sid) | [] => ch.stq
    drains := if ch.slots.isEmpty then ch.drains else ch.drains ++ [⟨ch.nextSid, ch.slots, .nowhere⟩]
    nextSid := ch.nextSid + 1 }

/-- What a lockup shows outside: EVC_LOCKSTAT, cause and address, the events, the record and the delay of a core reset
(R275-R277). -/
def showLocked (s : State) (c : Chan) (cause : Nat) (addr : Word) : State :=
  let ch := s.chan c
  let s := s.setBit R.evcLockStat c.val true
  let s := (s.setReg (R.evcLockCause c) (BitVec.ofNat 32 cause)).setReg (R.evcLockAddr c) addr
  let s := assertEvent (assertEvent s (8 * c.val + 7)) 498
  let s := formRecord s 1 1 (0x200 + c.val) [ch.pc, ch.csw, ch.wm, ch.rg 15, ch.slim, BitVec.ofNat 32 cause]
  if !s.rbit R.evcLockCfg 7 && s.rst.lockup.isNone then
    { s with rst := { s.rst with lockup := some (msTicks * s.rfld R.evcLockCfg 6 0) } }
  else s

/-- The channel leaves lockup: once no channel is locked up, a running delay ends with no reset (R277). -/
def unlock (s : State) (c : Chan) : State :=
  let s := s.setBit R.evcLockStat c.val false
  if s.reg R.evcLockStat = 0 then { s with rst := { s.rst with lockup := none } } else s

/-- A stop or quiesce command that waits for a channel which locks up ends as one that finds it locked up: the stop
releases it, with DETAIL and the registers as they stand, and the quiesce gives 0030h (R277, R359). -/
def endLocked (s : State) (c : Chan) : State :=
  match (s.chan c).req with
  | some .stop =>
    finishStops (releaseLedger (unlock (s.modChan c fun ch => { ch with st := .stopped, req := some (.done 0) }) c) c) c
  | some .quiesce =>
    endWhere (s.modChan c fun ch => { ch with req := none }) fun _ r =>
      if r.waits = some (.chan c) then some ⟨0x30, BitVec.ofNat 32 ChSt.lockedUp.code, 0⟩ else none
  | _ => s

/-- The channel locks up (R275-R277). The Binnacle core has no lockup registers or events of its own: it only stops
(log 47). -/
def lockUp (s : State) (c : Chan) (cause : Nat) (addr : Word) : State :=
  if c = bnmCore then stopLocked s c
  else
    let was := (s.chan c).quiet
    endLocked (showLocked (noteQuiet was (stopLocked s c) c) c cause addr) c

/-- LOCKUP_N, open drain, is low while any channel is locked up (R276). -/
def lockupPin (s : State) : PinLevel := s.tapped 42 (if s.reg R.evcLockStat = 0 then .highZ else .low)

/-! ### Taking an exception or an event: ONE entry (R264-R269) -/

/-- The record of an exception (R269). -/
def Channel.record (ch : Channel) (x : Exc) : Channel :=
  { ch with
      xcause := BitVec.ofNat 32 (x.vec + x.elem.isSome.toNat * 64 + x.range.toNat * 128 + x.sub * 256 + x.opnd * 4096 +
        x.svc.toNat * 65536 + x.impr.toNat * 0x1000000)
      xaddr := x.addr
      xelem := x.elem.getD 0 }

/-- The eight frame words (R265). -/
def frameWords (ch : Channel) : List Word :=
  [ch.pc, ch.csw, ch.wm, ch.rg 0, ch.rg 1, ch.rg 2, ch.rg 3,
   (ch.rg 15 &&& 0xFFFFFFF8) ||| BitVec.ofNat 32 ch.lpst]

/-- How the checks of a frame end (R266): the pieces to write, a lockup cause with its address, or a wait. -/
inductive FrameChk where
  | ok (ps : List (Nat × Nat))
  | lock (cause : Nat) (addr : Word)
  | wait
  deriving DecidableEq, Repr

/-- The lockup cause of a failed frame check (R275): translation and permission 3h, key 4h, anything else 5h. A
protection failure is the region's when the region refuses writing. -/
def frameCause (s : State) (c : Chan) (vec : Nat) (addr : Word) : Nat :=
  if vec = 4 then 3
  else if vec = 5 then (if s.permits c addr.toNat .wr false then 4 else 3)
  else 5

/-- The checks of R266 on the frame below `base`. -/
def checkFrame (s : State) (c : Chan) (base : Word) (skey : BitVec 4) : FrameChk × State :=
  let ch := s.chan c
  if base.toNat % 8 ≠ 0 then (.lock 1 (base - 32), s)
  else if base.toNat < 32 ∨ base.toNat - 32 < ch.slim.toNat then (.lock 2 (base - 32), s)
  else match checkAccess s c (supervisorHow skey .wr true) (base.toNat - 32) 32 with
    | (.ok ps, s) => (.ok ps, s)
    | (.fail v a, s) => (.lock (frameCause s c v a) a, s)
    | (.wait, s) => (.wait, s)

/-- The CSW of a handler (R267): `lvl` is the level for an event. -/
def handlerCsw (csw : Word) (atm : Bool) (lvl : Option Nat) : Word :=
  let w := wbit (wbit (wbit (wbit (wbit csw 12 true) 13 false) 19 false) 18 false) 20 atm
  match lvl with
  | some l => wset (wbit w 14 true) 17 15 l
  | none => w

/-- Enter vector `v` from the boundary at which the channel stands (its pc, CSW, WM and G registers are those to
stack); `drain` tells whether a drain of this entry has begun, whose end writes to the frame. Checks come before
any word is written; a failure locks the channel up (R264-R267). `none`: the entry has to wait for memory. -/
def enterVector (s : State) (c : Chan) (v : Nat) (lvl : Option Nat) (drain : Bool) : Option State :=
  let held := stillHeldOff s c
  let noDrain := fun (s : State) => if drain then s.modChan c fun ch => { ch with drains := ch.drains.dropLast ++
      (ch.drains.getLast?.map fun d => { d with dest := .nowhere }).toList } else s
  match vectorEntry s c v with
  | (.wait, _) => none
  | (.fail a, s) => some (lockUp (noDrain s) c 6 a)
  | (.ok l, s) =>
    let w1 := leAt l 4 4
    let atom := fld w1 11 0
    let skey := BitVec.ofNat 4 (fld w1 19 16)
    let ch := s.chan c
    let base := if fld w1 12 12 = 1 ∧ ¬ ch.sup then BitVec.ofNat 32 (leAt l 8 4) else ch.rg 15
    match checkFrame s c base skey with
    | (.wait, _) => none
    | (.lock cause a, s) => some (lockUp (noDrain s) c cause a)
    | (.ok ps, s) =>
      match writeSure s c (split (base.toNat - 32) 32) (cutPieces ps ((frameWords ch).flatMap wordBytes)) with
      | (.wait, _) => none
      | (.fail _ a, s) => some (lockUp (noDrain s) c 5 a)
      | (.ok, s) =>
        let opens := atom ≠ 0 ∧ held = false
        some (s.modChan c fun ch =>
          { ch.setG 15 (base - 32) with
              csw := handlerCsw ch.csw opens lvl
              pc := BitVec.ofNat 32 (leAt l 0 4)
              lpst := 0
              resv := none
              fbuf := []
              window := if opens then some ⟨atom⟩ else none
              heldOff := if held then ch.heldOff else ⟨[], false, false⟩
              drains := if drain then ch.drains.dropLast ++
                  (ch.drains.getLast?.map fun d => { d with dest := .frame (base - 32) skey }).toList
                else ch.drains })

/-- Second opcode bytes of EDIT and EDTM (R218). -/
def isEdit (opc : Byte) : Bool := opc == 0x18 || opc == 0x19

/-- Stop the channel at its pc for a stop or quiesce command (R245, R359): its streams drain with the final WM going
to CHn_WM, CSW.LRS becomes 0 and the Ledger context and pin are released. `detail` are DETAIL bits already known;
bit 0 reports an EDIT that cannot be continued. -/
def stopChannel (s : State) (c : Chan) (detail : Nat) : State :=
  let held := match s.lge.ctxOf c with
    | some x => isEdit x.opc && x.done > 0
    | none => false
  let edit := held || (match (s.chan c).wait with
    | .ledger r => isEdit r.ins.opc && r.resume
    | _ => false)
  let s := stopStreams (stopLedger s c) c .stop
  let s := releaseLedger s c
  finishStops (s.modChan c fun ch => { ch.setCsw 18 false with
    st := .stopped, wait := .none, window := none, req := some (.done (detail + edit.toNat)) }) c

/-- Whether the channel stands where a request or an event can be taken: not waiting for a read it has sent (R58), and
not in a PACK or UNPK that holds the Ledger Engine (R226). -/
def Channel.interruptible (ch : Channel) : Bool :=
  ch.remotes.isEmpty && (match ch.wait with | .ledger r => !r.locked | _ => true)

/-- The instruction after a WAIT that the channel is in (R57, R263). -/
def leaveWait (s : State) (c : Chan) : State :=
  if (s.chan c).st = .waiting then s.modChan c fun ch => { ch.goTo (ch.pc + 1) with st := .running } else s

/-- Apply a stop or quiesce command that the channel's state now lets act (R270, R359). A chain group that is still open
has dispatched nothing, and the quiesce undoes it as a stop does. -/
def settle (s : State) (c : Chan) : State :=
  let ch := s.chan c
  let live := ch.st = .running ∨ ch.st = .waiting
  match ch.req with
  | some .stop =>
    if live ∧ ch.window = none ∧ ch.interruptible = true then stopChannel (leaveWait s c) c 0 else s
  | some .quiesce =>
    if live ∧ ch.window = none ∧ ch.wait = .none ∧ ch.slots.isEmpty = true ∧ ch.heldX = none ∧ ch.interruptible = true then
      stopChannel (leaveWait s c) c 0
    else s
  | _ => s

/-- Take an exception at the boundary `pc` (R57, R85): at the head when there is one. A channel told to quiesce stops
there instead, and the record is written (R359). What a window that it closes has held off is applied at the handler's
first boundary (R270). `none`: the entry has to wait for memory. -/
def tryExc (s : State) (c : Chan) (x : Exc) (pc : Word) : Option State :=
  let drain := !(s.chan c).slots.isEmpty
  let s' := s.modChan c fun ch => { ch with pc := pc }
  if (s.chan c).req = some .quiesce ∧ (s.chan c).window = none then
    some (stopChannel (s'.modChan c fun ch => ch.record x) c 4)
  else
    let s' := stopStreams (noteHeld s' c) c .nowhere
    let s' := s'.modChan c fun ch => ch.record x
    (enterVector (closeWindow s' c) c x.vec none drain).map fun t => settle t c

/-- `tryExc`; where it has to wait the state stands, and the exception is raised again. -/
def takeExc (s : State) (c : Chan) (x : Exc) (pc : Word) : State := (tryExc s c x pc).getD s

/-- Take the exception that is held for the channel, which stays held while the entry has to wait (R82, R264). -/
def takeHeld (s : State) (c : Chan) (x : Exc) (pc : Word) : State :=
  (tryExc (s.modChan c fun ch => { ch with heldX := none }) c x pc).getD s

/-- An exception of a scalar instruction: taken at once when no older stream instruction is unretired and no read of an
older load is still out, and held otherwise (R57, R82). An open chain group alone is a head at which it is taken (R85,
R104). A fed instruction takes none: its exception stays held (R465). -/
def raise (s : State) (c : Chan) (x : Exc) (pc : Word) : State :=
  if (s.chan c).slots.isEmpty && (s.chan c).remotes.isEmpty && !(s.chan c).fed then takeExc s c x pc
  else s.modChan c fun ch => { ch with heldX := some (x, pc) }

/-- Take the imprecise exception of the oldest store error (R523); earlier loads come first (R57). `none`: there is none,
or it has to wait. -/
def tryImpr (s : State) (c : Chan) : Option State :=
  match (s.chan c).impr with
  | [] => none
  | a :: as =>
    if !(s.chan c).remotes.isEmpty then none
    else tryExc (s.modChan c fun ch => { ch with impr := as }) c { vec := 6, addr := a, impr := true } (s.chan c).pc

/-- `tryImpr` where there is a store error: it stays reported while the entry has to wait (R264). -/
def takeImpr (s : State) (c : Chan) : Option State :=
  if (s.chan c).impr.isEmpty then none else some ((tryImpr s c).getD s)

/-! ### Returning (R268) -/

/-- The state after RETE: the registers restored from the frame bytes. -/
def Channel.restore (ch : Channel) (l : List Byte) : Channel :=
  let w := fun k => BitVec.ofNat 32 (leAt l (4 * k) 4)
  let spl := w 7
  let ch := ((((ch.setG 0 (w 3)).setG 1 (w 4)).setG 2 (w 5)).setG 3 (w 6)).setG 15 (spl &&& 0xFFFFFFF8)
  { ch with
      pc := w 0
      csw := w 1 &&& cswMask
      wm := w 2
      lpst := if wfld spl 2 0 ≤ 4 then wfld spl 2 0 else 0
      resv := none
      fbuf := [] }

/-- A byte as the channel's own queued stores leave it (R62). -/
def ownByte (q : List StEntry) (a : Nat) (b : Byte) : Byte :=
  q.foldl (fun b e => e.pieces.foldl (fun b p =>
    if p.pa ≤ a && a < p.pa + p.bytes.length then p.bytes.getD (a - p.pa) b else b) b) b

/-- The addresses of checked pieces, byte by byte. -/
def pieceAddrs (ps : List (Nat × Nat)) : List Nat := ps.flatMap fun p => (List.range p.2).map (p.1 + ·)

/-- Read checked pieces of memory, in which the channel's earlier stores count before they are performed (R62). -/
def readOwn (s : State) (c : Chan) (e n : Nat) (ps : List (Nat × Nat)) : Fetched × State :=
  match readParts s c ((split e n).zip ps) with
  | (.ok l, s) => (.ok (((pieceAddrs ps).zip l).map fun (a, b) => ownByte (s.chan c).stq a b), s)
  | r => r

/-- The return from a handler: the frame is read at G15 with CSW.KEY, in supervisor mode, as the channel's own stores
leave it; a failed read locks the channel up, with the address of the frame or of the piece that failed (R62, R268, R275,
R281). What an open window holds off is noted under the CSW of the handler and under that restored (R271). `none`: the
read has to wait. -/
def tryReturn (s : State) (c : Chan) : Option State :=
  let ch := s.chan c
  let e := (ch.rg 15).toNat
  if e % 8 ≠ 0 then some (lockUp s c 1 (ch.rg 15))
  else match checkAccess s c (supervisorHow ch.key .rd false) e 32 with
    | (.fail _ a, s) => some (lockUp s c 8 a)
    | (.wait, _) => none
    | (.ok ps, s) =>
      match readOwn s c e 32 ps with
      | (.fail _ a, s) => some (lockUp s c 8 a)
      | (.wait, _) => none
      | (.ok l, s) => some ((noteHeld ((noteHeld s c).modChan c fun ch => ch.restore l) c).modChan c fun ch =>
          { ch with window := none })

/-- `tryReturn`; where it has to wait the state stands. -/
def returnFrom (s : State) (c : Chan) : State := (tryReturn s c).getD s

/-! ### Fetch (R71) -/

/-- Lines of an instruction cache: 16 KiB of 64-byte lines. -/
def icLines : Nat := 256

/-- Fetch the blocks an instruction lies in that the fetch buffer does not hold: checked with CSW.KEY, and read when
the instruction cache misses. The result is the exception of the first block that fails, or `wait`. -/
inductive FetchRes where
  | ok
  | fail (x : Exc)
  | wait
  deriving DecidableEq, Repr

/-- Fetch one block; `e` is the first address of the instruction that lies in it. The manual gives the instruction cache
its size and no organisation: the model's holds any 256 lines, and drops the one that has stood longest (log 49). The
Binnacle core has none (R370, log 47). -/
def fetchBlock (s : State) (c : Chan) (e : Nat) : FetchRes × State :=
  let ch := s.chan c
  if ch.fbuf.contains (e / 64) then (.ok, s)
  else match checkPiece s c ⟨ch.key, !ch.sup, .ex, false⟩ e with
    | (.fail v a, s) => (.fail { vec := v, addr := a }, s)
    | (.wait, s) => (.wait, s)
    | (.ok pa, s) =>
      if (s.chan c).icache.contains (pa / 64) then (.ok, s)
      else match readTarget s (.chan c) (pa / 64 * 64) 64 with
        | (.ok _, s) =>
          let s := markKey s pa false
          (.ok, if c = bnmCore then s else s.modChan c fun ch => { ch with icache := (pa / 64 :: ch.icache).take icLines })
        | (.error, s) => (.fail { vec := 6, addr := BitVec.ofNat 32 e }, s)
        | (.uncorrectable, s) => (.fail { vec := 7, addr := BitVec.ofNat 32 e }, markKey s pa false)
        | (.wait, s) => (.wait, s)

/-- Fetch an instruction of `n` bytes at the pc. -/
def fetch (s : State) (c : Chan) (n : Nat) : FetchRes × State :=
  let e := (s.chan c).pc.toNat
  let last := e + n - 1
  match fetchBlock s c e with
  | (.ok, s) =>
    if last / 64 = e / 64 then (.ok, s.modChan c fun ch => { ch with fbuf := [e / 64] })
    else match fetchBlock s c (last / 64 * 64) with
      | (.ok, s) => (.ok, s.modChan c fun ch => { ch with fbuf := [e / 64, last / 64] })
      | r => r
  | r => r

/-! ### The start of every instruction -/

/-- Prefix bytes, the mask byte counted. -/
def prefixBytes (p : Prefixes) : Nat :=
  p.chain.toNat + 2 * p.mask.isSome.toNat + p.key.toNat + p.atomic.toNat + p.ord.toNat + p.sat.toNat + p.wide.toNat

/-- Prefixes carried. -/
def prefixCount (p : Prefixes) : Nat :=
  p.chain.toNat + p.mask.isSome.toNat + p.key.toNat + p.atomic.toNat + p.ord.toNat + p.sat.toNat + p.wide.toNat

/-- R49 on the prefixes themselves: at most three, none repeated, no F7h, no reserved mask bit, 12 bytes in all. -/
def prefixSound (p : Prefixes) (len : Nat) : Bool :=
  !p.extra && prefixCount p ≤ 3 && prefixBytes p + len ≤ 12 && (p.mask.all fun b => b.extractLsb' 5 3 == 0)

/-- A scalar instruction as its decode sees it. -/
structure Scalar where
  p      : Prefixes
  /-- bytes from the opcode on -/
  len    : Nat
  keyOk  : Bool := false
  satOk  : Bool := false
  atomOk : Bool := false
  /-- operand bytes, control register and the cases of R54, R55 and R68 are legal -/
  legal  : Bool := true
  /-- privileged (R48) -/
  priv   : Bool := false
  /-- executes only when no older stream instruction is unretired (R81) -/
  alone  : Bool := false
  /-- a Ledger instruction: the channel's context stands (R237) -/
  ledger : Bool := false
  /-- the second opcode byte of one that continues from a context (R237) -/
  slot   : Option Byte := none
  /-- G registers it reads (R56) -/
  reads  : List Reg := []
  /-- descriptor registers it reads -/
  readsD : List (Fin 8) := []
  /-- it issues a load, so that one of the eight must be free (R56) -/
  load   : Bool := false

/-- The prefixes a scalar instruction accepts (R49). -/
def Scalar.prefixOk (i : Scalar) : Bool :=
  prefixSound i.p i.len && !i.p.chain && i.p.mask.isNone && !i.p.ord && !i.p.wide && (!i.p.key || i.keyOk) &&
  (!i.p.sat || i.satOk) && (!i.p.atomic || i.atomOk)

/-- Whether the channel can decode: it runs and waits for nothing (R38, R56, R82, R359). -/
def Channel.decodes (ch : Channel) : Bool :=
  (ch.st == .running || ch.fed) && !ch.mute && ch.wait == .none && ch.heldX.isNone && (ch.req != some .quiesce || ch.window.isSome)

/-- An open chain group fails (R104): it is undone, with CSW and WM as before the decode of its first member but for CSW.LRS,
which that decode has cleared with the context (R237), and the exception is raised there. -/
def failGroup (s : State) (c : Chan) (x : Exc) : State :=
  match (s.chan c).group with
  | none => s
  | some gr =>
    let was := (s.chan c).quiet
    let s := s.modChan c fun ch =>
      { ch with csw := wbit gr.snap.csw 18 false, wm := if bit gr.snap.csw 19 then BitVec.ofNat 32 gr.start else ch.wm,
                group := none, pc := gr.pc }
    raise (noteQuiet was s c) c x gr.pc

/-- The decode of an instruction other than a stream or register-form one clears CSW.SRP; with CSW.LRS = 1 it also
discards the Ledger context unless it is a Ledger instruction (R89, R237). A fed instruction leaves both as the halt left them (R462). -/
def clearResume (s : State) (c : Chan) (keep : Bool) : State :=
  if (s.chan c).fed then s else
  let s := if (s.chan c).lrs && !keep then freeContext s c else s
  s.modChan c fun ch => (ch.setCsw 19 false).setCsw 18 false

/-- A stream or register-form instruction that fails at its decode has discarded the Ledger context too, and cleared CSW.LRS
(R237). -/
def discardContext (s : State) (c : Chan) : State :=
  if (s.chan c).fed then s else (if (s.chan c).lrs then freeContext s c else s).modChan c fun ch => ch.setCsw 18 false

/-- Whether CSW.LRS is stacked as 1 with an instruction that is refused at its decode (R236, R237): it was decoded with
LRS = 1 and would have continued from a context, which stays; a context of its address with another opcode is none for it. -/
def Scalar.keepsLrs (i : Scalar) (s : State) (c : Chan) : Bool :=
  (s.chan c).lrs && i.slot.any fun o => match s.lge.ctxOf c with
    | some x => x.pc != (s.chan c).pc || x.opc == o
    | none => true

/-- An instruction that is illegal or privileged raises its exception; it has been decoded too, so that it clears CSW.LRS
and SRP before the exception stacks them (R89, R236, R237). -/
def refuse (s : State) (c : Chan) (i : Scalar) (vec : Nat) (pc : Word) : State :=
  let t := clearResume s c i.ledger
  raise (if i.keepsLrs s c then t.modChan c fun ch => ch.setCsw 18 true else t) c { vec := vec, addr := pc } pc

/-- One more provisional scalar instruction after the youngest stream instruction (R80). -/
def Channel.countYounger (ch : Channel) : Channel :=
  match ch.slots.reverse with
  | [] => ch
  | x :: xs => { ch with slots := ({ x with younger := x.younger + 1 } :: xs).reverse }

/-- Whether the instruction must wait at decode: provisional limit, R81, operands still to arrive (R56, R80). What an
exception of a load that is still out could not undo waits for that load (R57, log 50). -/
def Channel.mustWait (ch : Channel) (i : Scalar) : Bool :=
  (!ch.slots.isEmpty && (i.alone || ch.provisional ≥ 64)) || i.reads.any ch.waitsG || i.readsD.any ch.waitsD ||
  (i.load && ch.loads.length ≥ 8) || (!ch.remotes.isEmpty && (i.alone || i.ledger))

/-- Decode and execute a scalar instruction: `body` is what it does once it is legal, permitted and its operands are
there; it receives the address of the next instruction, and answers `none` where the instruction has to wait. A
channel that cannot decode is left unchanged (log 6). The Ledger map is illegal on the Binnacle core (R370). An instruction
that carries KEY without accepting it is illegal in user mode too: R49 is tested before R48, the model's choice (log 22). -/
def scalarOr (s : State) (c : Chan) (i : Scalar) (body : State → Word → Option State) : State :=
  let ch := s.chan c
  if !ch.decodes then s
  else match takeImpr s c with
  | some s => s
  | none =>
    let pc := ch.pc
    match fetch s c (prefixBytes i.p + i.len) with
    | (.wait, _) => s
    | (.fail x, s) => raise s c x pc
    | (.ok, s) =>
      if ch.group.isSome then failGroup s c { vec := 1, addr := (ch.group.map (·.pc)).getD 0 }
      else if !i.prefixOk || !i.legal || (i.ledger && c == bnmCore) then refuse s c i 1 pc
      else if !ch.sup && (i.priv || i.p.key) then refuse s c i 2 pc
      else if ch.mustWait i then s
      else
        let t := (clearResume s c i.ledger).modChan c Channel.countYounger
        match body t (pc + BitVec.ofNat 32 (prefixBytes i.p + i.len)) with
        | some t => t
        | none => s

/-- A scalar instruction that never waits once it executes. -/
def scalar (s : State) (c : Chan) (i : Scalar) (body : State → Word → State) : State :=
  scalarOr s c i fun s next => some (body s next)

/-- Finish an instruction: change the channel by `f` and go to `next`. -/
def finish (s : State) (c : Chan) (next : Word) (f : Channel → Channel) : State :=
  s.modChan c fun ch => (f ch).goTo next

/-- The key of the instruction's data accesses (R51). -/
def dataKey (ch : Channel) (p : Prefixes) : BitVec 4 := if p.key then ch.akey else ch.key

/-- How the instruction's data accesses are made. -/
def dataHow (ch : Channel) (p : Prefixes) (acc : Acc) (wr : Bool) : How := ⟨dataKey ch p, !ch.sup, acc, wr⟩

/-- The exception of a data access: an uncorrectable error on an access whose base register is G15 is a stack machine
check (R273). -/
def dataExc (base : Reg) (vec : Nat) (addr : Word) : Exc :=
  { vec := if vec = 7 ∧ base = 15 then 18 else vec, addr := addr }

/-! ### Loads that have left the device (R56, R57) -/

/-- What a failed load undoes: everything that later instructions have done stands no more, their stores have not been
performed, and their own loads are out no more (R57, log 50). -/
def Channel.rewind (ch : Channel) (r : RLoad) : Channel :=
  { ch.undo r.snap with
      pc := r.pc, remotes := [], wait := .none, heldX := none
      stq := ch.stq.filter fun e => decide (e.behind ≤ r.id) }

/-- Whatever has waited for the channel's loads that had left the device: the exception of the oldest, once it has failed
and no older one is out; with none out any more, an exception held behind them, a stop or a quiesce (R57, R58). -/
def afterRemotes (s : State) (c : Chan) : State :=
  match (s.chan c).remotes with
  | r :: _ =>
    (match r.failed with
     | some v =>
       let t := s.modChan c fun ch => ch.rewind r
       (tryExc t c (dataExc r.base v r.ea) r.pc).getD s
     | none => s)
  | [] =>
    match (s.chan c).heldX with
    | some (x, pc) => if (s.chan c).slots.isEmpty && !(s.chan c).fed then takeHeld s c x pc else s
    | none => settle s c

end Sys2Proof.Machine
end

