-- ==== Sys2Proof/Machine/Packet.lean ====
section
/-! DEFINITION. Command packets: how one is read, checked and started, the doorbells, the mailbox and forwarding
(11 R340-R369, 12 R400). -/
namespace Sys2Proof.Machine

/-! ### Reading a packet (R341, R345, R346) -/

/-- The packet that bytes spell. -/
def parsePacket (l : List Byte) : Packet where
  opcode := leAt l 0 2
  tag := leAt l 2 2
  fence := fld (leAt l 4 1) 0 0 == 1
  cond := fld (leAt l 4 1) 1 1 == 1
  prog := fld (leAt l 4 1) 2 2 == 1
  fwd := fld (leAt l 4 1) 3 3 == 1
  dev := fld (leAt l 4 1) 6 4
  pty := fld (leAt l 5 1) 1 0
  len := leAt l 6 2
  p0 := bytesWord ((l.drop 8).take 4)
  p1 := bytesWord ((l.drop 12).take 4)
  payload := (l.drop 16).take (leAt l 6 2)

/-- Reserved bits of the header that are set: the offset of the first (R355, item 3). -/
def headReserved (l : List Byte) : Option Nat :=
  if fld (leAt l 4 1) 7 7 = 1 then some 4 else if fld (leAt l 5 1) 7 2 ≠ 0 then some 5 else none

/-- Ring entries a packet occupies; one too long is taken to occupy one (R346, R355). -/
def entriesOf (len : Nat) : Nat := if len ≤ 1024 then 1 + ceilDiv len 16 else 1

/-- The bytes of `k` entries of a command ring from index `i`, which may wrap. -/
def entryBytes (s : State) (n : Fin 4) (i : Nat) : Nat → List Byte
  | 0 => []
  | k + 1 => s.hbytes (s.cBase n + 16 * (i % s.cSize n)) 16 ++ entryBytes s n (i + 1) k

/-! ### What the opcode table says of an opcode (R356) -/

/-- The listed opcodes. -/
def opcodes : List Nat :=
  [0x0101, 0x0102, 0x0103, 0x0104, 0x0105, 0x0106, 0x0107, 0x0108, 0x0201, 0x0202, 0x0203, 0x0204, 0x0205, 0x0206,
   0x0301, 0x0302, 0x0303, 0x0401, 0x0402, 0x0403, 0x0501, 0x0502, 0x0503, 0x0504, 0x0601, 0x0602, 0x0603,
   0x0701, 0x0702, 0x0801, 0x0802, 0x0901, 0x0902, 0x0903]

/-- The class of an opcode: its high byte. -/
def Packet.cls (p : Packet) : Nat := p.opcode / 256
/-- The channel a channel command names. -/
def Packet.chan (p : Packet) : Chan := ⟨wfld p.p0 3 0 % 16, by omega⟩

/-- The payload length an opcode defines; `none` for a PROPOSE too short to say (R299, R356). -/
def wantedLen (p : Packet) : Option Nat :=
  if p.opcode = 0x0101 then some 128
  else if p.opcode = 0x0102 then some (8 * (wfld p.p0 19 16 + 1))
  else if p.opcode = 0x0301 then (if 16 ≤ p.payload.length then some (16 + leAt p.payload 12 2) else none)
  else if p.opcode = 0x0302 then some 12
  else if p.opcode ∈ [0x0201, 0x0202, 0x0502] then some 24
  else if p.opcode = 0x0801 then some 40
  else if p.opcode ∈ [0x0107, 0x0203, 0x0206, 0x0402, 0x0601, 0x0802, 0x0903] then some 16
  else some 0

/-- Long commands (R356). -/
def Packet.long (p : Packet) : Bool :=
  p.opcode ∈ [0x0106, 0x0201, 0x0202, 0x0203, 0x0206, 0x0302, 0x0502, 0x0601, 0x0801] ||
  (p.opcode == 0x0204 && bit p.p0 16)

/-- The bits of P0 and P1 that an opcode defines (R356); the others are reserved, and so is a parameter it does not
name (log 13). -/
def paramBits (op : Nat) : Word × Word :=
  if op ∈ [0x0101, 0x0104, 0x0105, 0x0106, 0x0107] then (0xF, 0)
  else if op = 0x0102 then (0xF0F0F, 0)
  else if op = 0x0103 then (0x0F0F, ones)
  else if op ∈ [0x0108, 0x0501, 0x0601, 0x0602, 0x0603, 0x0702] then (1, 0)
  else if op = 0x0203 then (0, ones)
  else if op = 0x0204 then (0x11F1F, 0)
  else if op = 0x0206 then (0x11FFF, 0)
  else if op = 0x0401 then (0xFFF, 0)
  else if op = 0x0403 then (ones, 0)
  else if op ∈ [0x0901, 0x0902] then (0xFFFF, 0)
  else (0, 0)

/-- Reserved payload bytes: first, number, and the reserved bits of each (R299, R356, R357). -/
def payloadPads (op : Nat) : List (Nat × Nat × Byte) :=
  if op = 0x0101 then [(104, 24, 0xFF)]
  else if op ∈ [0x0107, 0x0402, 0x0903] then [(8, 8, 0xFF)]
  else if op ∈ [0x0201, 0x0202] then [(20, 1, 0xF0), (21, 3, 0xFF)]
  else if op = 0x0203 then [(12, 1, 0xF0), (13, 3, 0xFF)]
  else if op = 0x0206 then [(4, 12, 0xFF)]
  else if op = 0x0301 then [(1, 3, 0xFF), (14, 2, 0xFF)]
  else if op = 0x0302 then [(1, 3, 0xFF)]
  else if op = 0x0502 then [(20, 4, 0xFF)]
  else if op ∈ [0x0601, 0x0802] then [(12, 4, 0xFF)]
  else []

/-- The address field of a memory command: where PA, the byte count and K lie in the payload (R356). -/
def memFields (p : Packet) : Nat × Nat × BitVec 4 :=
  let o := if p.opcode = 0x0203 then 0 else 8
  (leAt p.payload o 8, leAt p.payload (o + 8) 4, BitVec.ofNat 4 (leAt p.payload (o + 12) 1))

/-- Whether every byte of a range lies in DRAM, in a chart bank or at an address the default target answers: the
sealed bank, the control space and the windows give 0012h (R360). -/
def memRange (pa n : Nat) : Bool :=
  let avoids := fun lo hi => pa + n ≤ lo || hi ≤ pa
  pa + n ≤ 2 ^ 48 && avoids 0x800004000000 0x800004080000 && avoids 0x900000000000 0x900010000000 &&
  avoids 0xA00000000000 0xA10000000000 && avoids 0xC00000000000 0xC80000000000

/-- Parameters out of range, each with its offset in the packet (R355, item 7). -/
def rangeFails (s : State) (p : Packet) : List (Nat × Nat) :=
  if p.opcode = 0x0102 then
    ((if wfld p.p0 11 8 + wfld p.p0 19 16 + 1 > 16 then [(8, 0x12)] else []) ++
     ((List.range (wfld p.p0 19 16 + 1)).filterMap fun i =>
        if bytesWord ((p.payload.drop (8 * i + 4)).take 4) &&& ~~~ 0x1F0FFF#32 ≠ 0 then some (20 + 8 * i, 0x13) else none))
  else if p.opcode ∈ [0x0201, 0x0202, 0x0203] then
    let (pa, n, _) := memFields p
    let o := if p.opcode = 0x0203 then 16 else 24
    let ok : Bool := 1 ≤ n ∧ n ≤ 0x40000000
    ((if memRange pa (if ok then n else 1) then [] else [(o, 0x12)]) ++ (if ok then [] else [(o + 8, 0x12)]))
  else if p.opcode = 0x0206 then
    let m := wfld p.p0 2 0
    let k := s.rfld (R.mcCfg m) 5 4
    let c := if s.rbit (R.mcCfg m) 6 then 6 else 7
    (if s.rfld (R.mcCfg m) 25 16 = 0 ∨ wfld p.p0 7 4 ≥ 2 ^ k then [(8, 0x12)]
     else if leAt p.payload 0 4 * 2 ^ (15 + c + k) < s.dramSize then [] else [(16, 0x12)])
  else if p.opcode = 0x0401 then
    let c := wfld p.p0 11 8
    let n := if c = 0 then 24 else if c = 1 then 12 else if c = 2 then 32 else if c = 3 then 3 else if c = 4 then 1 else 0
    (if wfld p.p0 7 0 < n then [] else [(8, 0x12)])
  else if p.opcode = 0x0403 then (if 720 ≤ p.p0.toNat ∧ p.p0.toNat ≤ 880 then [] else [(8, 0x12)])
  else if p.opcode = 0x0601 then
    let n := leAt p.payload 8 4
    (if 256 ≤ n ∧ n ≤ (if bit p.p0 0 then 0x10000 else 0x40000) then [] else [(24, 0x12)])
  else if p.opcode = 0x0903 then
    (if leAt p.payload 0 8 % 4 = 0 ∧ leAt p.payload 0 8 < 2 ^ 48 then [] else [(16, 0x12)])
  else []

/-- Everything item 7 of R355 finds. -/
def paramFails (s : State) (p : Packet) : List (Nat × Nat) :=
  let (m0, m1) := paramBits p.opcode
  rangeFails s p ++
  (if p.p0 &&& ~~~ m0 ≠ 0 then [(8, 0x13)] else []) ++ (if p.p1 &&& ~~~ m1 ≠ 0 then [(12, 0x13)] else []) ++
  (payloadPads p.opcode).flatMap fun (a, k, mask) => (List.range k).filterMap fun i =>
    if (p.payload.getD (a + i) 0) &&& mask ≠ 0 then some (16 + a + i, 0x13) else none

/-- The first failure: the lowest offset, and 0012h before 0013h at one offset (log 13). -/
def firstFail : List (Nat × Nat) → Option (Nat × Nat)
  | [] => none
  | x :: xs =>
    match firstFail xs with
    | some y => if y.1 < x.1 ∨ (y.1 = x.1 ∧ y.2 < x.2) then some y else some x
    | none => some x

/-! ### The checks (R355) -/

/-- The party of a source, 0 for none (R298). -/
def partyOf : CmdSrc → Nat
  | .ring n | .forwarded n => if n.val = 0 then 1 else 0
  | .vlan => 2
  | .console _ => 3
  | .mailbox => 0

/-- The master that a command's accesses come from (R525). -/
def masterOf : CmdSrc → Master
  | .ring n | .forwarded n => .ring n
  | .vlan => .vlan
  | .console _ => .console
  | .mailbox => .bnm

/-- Whether a packet was forwarded over Kenrid Link, from which class 03 is not accepted (R361). -/
def isForwarded : CmdSrc → Bool
  | .forwarded _ => true
  | _ => false

/-- Item 6: recovery mode, life-cycle state and debug enable (R363, R394). -/
def modeFail (s : State) (p : Packet) : Option Status :=
  let lcs := s.fuses.lcs
  let item7 := p.opcode == 0x0303 || ((p.opcode == 0x0301 || p.opcode == 0x0302) && leAt p.payload 0 1 == 7)
  if s.rbit R.bnmLcs 4 ∧ p.cls ≠ 5 ∧ p.cls ≠ 6 ∧ p.cls ≠ 8 ∧ ¬(lcs = 0 ∧ item7) then some ⟨0x21, 0, 0⟩
  else if lcs = 3 ∧ p.cls ≠ 5 ∧ p.cls ≠ 8 then some ⟨0x22, BitVec.ofNat 32 lcs, 0⟩
  else if p.cls = 9 ∧ ¬ s.rbit R.bnmLcs 8 then some ⟨0x22, BitVec.ofNat 32 lcs, 0⟩
  else none

/-- Items 1 to 7, with COND between 6 and 7 (R353, log 13): `none` where the packet may execute. -/
def checkPacket (s : State) (src : CmdSrc) (prev : Option Nat) (l : List Byte) : Option Status :=
  let p := parsePacket l
  if p.len > 1024 then some ⟨0x11, 6, 0⟩
  else if p.opcode ∉ opcodes then some ⟨0x10, 0, 0⟩
  else match headReserved l with
  | some o => some ⟨0x13, BitVec.ofNat 32 o, 0⟩
  | none =>
    if wantedLen p ≠ some p.len ∨ p.payload.length ≠ p.len then some ⟨0x11, 6, 0⟩
    else
      let party := partyOf src
      if (p.pty ≠ 0 ∧ p.pty ≠ party) ∨ (p.cls = 3 ∧ (party = 0 ∨ p.pty ≠ party ∨ isForwarded src)) then
        some ⟨0x20, BitVec.ofNat 32 party, 0⟩
      else match modeFail s p with
      | some st => some st
      | none =>
        match p.cond, prev with
        | true, some (c + 1) => some ⟨0x62, BitVec.ofNat 32 (c + 1), 0⟩
        | _, _ => (firstFail (paramFails s p)).map fun (o, c) => ⟨c, BitVec.ofNat 32 o, 0⟩

/-! ### Objects that commands act on (R354) -/

/-- What R354 serialises. -/
inductive Obj where
  | chan (c : Chan) | bank (b : Nat) | logbook | slot (patch : Bool) | bearing
  deriving DecidableEq, Repr

/-- The objects of a packet. -/
def Packet.objs (p : Packet) : List Obj :=
  if 0x0101 ≤ p.opcode ∧ p.opcode ≤ 0x0107 then [.chan p.chan]
  else if p.opcode = 0x0901 ∨ p.opcode = 0x0902 then
    (channels.filter fun c => bit p.p0 c.val).map .chan
  else if p.opcode = 0x0204 then [.bank (wfld p.p0 4 0)]
  else if p.cls = 3 then [.bearing]
  else if p.cls = 5 then [.logbook]
  else if p.cls = 6 then [.slot (bit p.p0 0)]
  else []

/-- Whether a command of another source is acting here on one of these objects. -/
def objBusy (s : State) (src : CmdSrc) (os : List Obj) : Bool :=
  sources.any fun q => q != src && (match s.runningHere q with
    | some r => r.final.isNone && r.pkt.objs.any (os.contains ·)
    | none => false)

/-- CH_STOP, CH_QUIESCE and DEV_RESET do not wait for their object. -/
def Packet.urgent (p : Packet) : Bool := p.opcode == 0x0105 || p.opcode == 0x0106 || p.opcode == 0x0108

/-! ### Starting (R351-R354, R364, R368) -/

/-- Whether the hardware fast path takes a packet (R364). -/
def fastPath (s : State) (src : CmdSrc) (p : Packet) : Bool :=
  (p.opcode == 0x0104 || p.opcode == 0x0105) && !p.fwd && !p.fence && !s.rbit R.bnmLcs 4 &&
  (match src with | .ring _ => true | _ => false)

/-- Whether the device takes packets: start step 7 has been passed, or it is in recovery mode (R480, R488). -/
def State.packetsOk (s : State) : Bool := s.rst.hold.isNone && (7 ≤ s.rst.stage || s.rbit R.bnmLcs 4)

/-- Entries announced and not consumed. -/
def State.announced (s : State) (n : Fin 4) : Nat :=
  ((s.reg (R.ringCtail n)).toNat % 65536 + s.cSize n - s.rfld (R.ringChead n) 15 0) % s.cSize n

/-- Whether every packet consumed earlier from any ring has completed; a forwarded packet counts as one of the ring of its
number (R345, R368). -/
def State.ringsDone (s : State) : Bool :=
  (List.finRange 4).all fun m => s.cmds.rings[m].run.isNone && s.cmds.fwd[m].isNone && s.cmds.waiting.all (·.src != .forwarded m)

/-- Whether the head packet of ring `n` can start (R351, R352, R354, R367, R368). -/
def State.startable (s : State) (n : Fin 4) : Bool :=
  s.packetsOk && s.rbit (R.ringCfg n) 16 && !s.rbit (R.ringStat n) 1 && s.cmds.rings[n].run.isNone && !s.sFull n &&
  0 < s.announced n &&
  (let p := parsePacket (entryBytes s n (s.rfld (R.ringChead n) 15 0) 1)
   entriesOf p.len ≤ s.announced n &&
   (!s.bnm.halted || fastPath s (.ring n) p) && (!p.fence || s.ringsDone) && s.cmds.fwd[n].isNone &&
   s.cmds.waiting.all (·.src != .forwarded n) &&
   (p.urgent || !objBusy s (.ring n) p.objs))

/-- Whether a command acts on a channel. -/
def Packet.onChannel (p : Packet) : Bool := p.objs.any fun o => match o with | .chan _ => true | _ => false

/-- A command that stops a channel ends the other commands on that channel, and DEV_RESET those on any channel (R354). -/
def abortOthers (s : State) (src : CmdSrc) (p : Packet) : State :=
  let end_ := fun (f : Packet → Bool) =>
    endWhere s fun q r => if q ≠ src ∧ f r.pkt = true then some ⟨0x60, BitVec.ofNat 32 p.opcode, 0⟩ else none
  if p.opcode = 0x0105 ∨ p.opcode = 0x0106 then end_ fun q => q.objs.contains (.chan p.chan)
  else if p.opcode = 0x0108 then end_ Packet.onChannel
  else s

/-- An outcome of cross-bearing (R302): LAST, the XB_OUTCOME record, and EV505 for outcomes 0 and 5 to 8. -/
def outcome (s : State) (last : Nat) (by_ : Nat) (item : Nat) (nonce : Word) (conf : Nat) : State :=
  let s := s.setFld R.xbgStat 19 16 last
  let s := formRecord s 4 1 by_ [BitVec.ofNat 32 item, nonce, BitVec.ofNat 32 last, BitVec.ofNat 32 conf]
  if last = 0 ∨ 5 ≤ last then assertEvent s 505 else s

/-- A PROPOSE or CONFIRM that comes from no party is an outcome too, beside its status 0020h (R298, R302). -/
def refusedParty (s : State) (src : CmdSrc) (p : Packet) (st : Status) : State :=
  let who := origin (masterOf src)
  let item := leAt p.payload 0 1
  let nonce := bytesWord ((p.payload.drop 4).take 4)
  if st.code ≠ 0x20 ∨ ¬(partyOf src = 0 ∨ isForwarded src = true) then s
  else if p.opcode = 0x0301 then outcome s (if s.reg R.xbgNonce = ones then 4 else 1) who item nonce 0
  else if p.opcode = 0x0302 then outcome s 3 who item nonce who
  else s

/-- Start a packet that has been consumed: what fails its checks ends at once, on the fast path only where COND skips
it. -/
def beginPacket (s : State) (src : CmdSrc) (prev : Option Nat) (l : List Byte) : State :=
  let p := parsePacket l
  match checkPacket s src prev l with
  | some st =>
    finishCmd ((refusedParty s src p st).setRun src ⟨p, st.code == 0x62 && fastPath s src p, none, none⟩) src p st
  | none => abortOthers (s.setRun src ⟨p, fastPath s src p, none, none⟩) src p

/-- Where a packet with FWD = 1 goes (R368). -/
inductive Route where
  | here
  | refused
  | send (q : Fin 4)
  deriving DecidableEq, Repr

/-- FWD with the own index executes here; a follower, a source that is no ring, and a device that is not reached give
0071h. -/
def routeOf (s : State) (src : CmdSrc) (p : Packet) : Route :=
  if !p.fwd || p.len > 1024 then .here
  else match src with
  | .forwarded _ => .here
  | .ring _ =>
    if !s.ifc.casc.lodestar then .refused
    else if p.dev = s.ifc.casc.index then .here
    else (match s.kenridRoute ⟨p.dev % 8, by omega⟩ with
      | some q => .send q
      | none => .refused)
  | _ => if s.ifc.casc.lodestar && p.dev == s.ifc.casc.index then .here else .refused

/-- Start a packet of ring `n` or forward it; the lodestar decides COND for a forwarded one (log 13). -/
def launch (s : State) (src : CmdSrc) (prev : Option Nat) (l : List Byte) : State :=
  let p := parsePacket l
  match routeOf s src p with
  | .here => beginPacket s src prev l
  | .refused => finishCmd (s.setRun src ⟨p, false, none, none⟩) src p ⟨0x71, BitVec.ofNat 32 p.dev, 0⟩
  | .send q =>
    match p.cond, prev, src with
    | true, some (c + 1), _ =>
      finishCmd (s.setRun src ⟨p, false, none, none⟩) src p ⟨0x62, BitVec.ofNat 32 (c + 1), 0⟩
    | _, _, .ring n =>
      sendFlit ((s.setRun src ⟨p, false, none, none⟩).modRing n fun x => { x with fwd := some p }) q p.dev (.command n l)
    | _, _, _ => s

/-- PACKET_START: the head packet of ring `n` is read and started (R341, R343, R351-R355, R364, R368). `readOk` is
false where host memory answers the read with an error. -/
def packetStart (n : Fin 4) (readOk : Bool) (s : State) : State :=
  if !s.startable n || (List.finRange 4).any (fun m => m < n && s.startable m) then s
  else if !readOk || !s.rbit R.pxLink 0 then haltRing s n 2
  else
    let head := s.rfld (R.ringChead n) 15 0
    let k := entriesOf (parsePacket (entryBytes s n head 1)).len
    let l := entryBytes s n head k
    let prev := s.cmds.rings[n].prev
    let s := s.setReg (R.ringChead n) (BitVec.ofNat 32 ((head + k) % s.cSize n))
    let s := (s.modReg (R.ringCmdCnt n) (· + 1)).setBit (R.ringStat n) 0 true
    launch s (.ring n) prev l

/-- PACKET_START. -/
def execPacketStart (n : Fin 4) (readOk : Bool) (s : State) : Host.Outcome State Fault Refusal := .next (packetStart n readOk s)

/-! ### Packets that wait to start (R354, R368, R384, R400, R461) -/

/-- Whether a packet that came by another way than a ring can start. -/
def State.mayStart (s : State) (w : WaitPkt) : Bool :=
  let p := parsePacket w.bytes
  s.packetsOk && !s.bnm.halted && (s.running w.src).isNone && (p.urgent || !objBusy s w.src p.objs) &&
  (!p.fence || (List.finRange 4).all fun m => s.cmds.rings[m].run.isNone && s.cmds.fwd[m].isNone) &&
  (match w.src with
   | .forwarded n => s.cmds.rings[n].run.isNone
   | _ => true)

/-- Start one. -/
def startPkt (s : State) (w : WaitPkt) : State :=
  launch (match w.src with
    | .vlan => { s with cmds := { s.cmds with vlanPort := w.port, vlanKey := w.keyId, vlanData := [] } }
    | _ => s) w.src none w.bytes

/-- A packet has been accepted: it starts, or waits behind the earlier ones of its source. -/
def acceptPkt (s : State) (w : WaitPkt) : State :=
  if s.cmds.waiting.all (·.src != w.src) && s.mayStart w then startPkt s w
  else { s with cmds := { s.cmds with waiting := s.cmds.waiting ++ [w] } }

/-- The oldest waiting packet that can start does. -/
def startWaiting (s : State) : State :=
  match s.cmds.waiting.find? s.mayStart with
  | some w => startPkt { s with cmds := { s.cmds with waiting := s.cmds.waiting.erase w } } w
  | none => s

/-! ### Doorbells (R343, R344) -/

/-- DBn_CTAIL: announce entries, or halt the ring. One that repeats the current value does nothing. -/
def dbCtailWrite (n : Fin 4) (v : Word) (s : State) : State :=
  let new := wfld v 15 0
  let old := s.rfld (R.ringCtail n) 15 0
  let s := s.modRing n fun x => { x with dbC := new }
  if new = old then s
  else
    let s := assertEvent (s.setReg (R.ringCtail n) (BitVec.ofNat 32 new)) (387 + n.val)
    let size := s.cSize n
    if !s.rbit (R.ringCfg n) 16 || s.rbit (R.ringStat n) 1 then s
    else if new ≥ size then haltRing s n 1
    else if (new + size - old) % size > (s.rfld (R.ringChead n) 15 0 + size - 1 - old + size) % size then haltRing s n 4
    else s

/-- DB_CTAIL_WRITE. -/
def execDbCtailWrite (n : Fin 4) (v : Word) (s : State) : Host.Outcome State Fault Refusal := .next (dbCtailWrite n v s)

/-- DBn_SHEAD: release status entries, or halt the ring; a status that waited is written (R367), on a halted ring too, whose
running command completes (R343, R349). -/
def dbSheadWrite (n : Fin 4) (v : Word) (s : State) : State :=
  let new := wfld v 15 0
  let old := s.cmds.rings[n].head
  let s := (s.modRing n fun x => { x with dbS := new }).setReg (R.ringShead n) (BitVec.ofNat 32 new)
  let size := s.sSize n
  let halt := fun (code : Nat) => if s.rbit (R.ringStat n) 1 then s else haltRing s n code
  if !s.rbit (R.ringCfg n) 16 || new == old then s
  else if new ≥ size then halt 1
  else if (new + size - old) % size > (s.rfld (R.ringStail n) 15 0 + size - old) % size then halt 5
  else flushStatus (showFull (s.modRing n fun x => { x with head := new }) n) n

/-- DB_SHEAD_WRITE. -/
def execDbSheadWrite (n : Fin 4) (v : Word) (s : State) : Host.Outcome State Fault Refusal := .next (dbSheadWrite n v s)

/-- DB_EVINJ: the host asserts EV(400 + EVENT). -/
def execDbEvinjWrite (v : Word) (s : State) : Host.Outcome State Fault Refusal := .next (assertEvent s (400 + wfld v 3 0))

/-- RING_ENABLE: a write of EN = 1 to BNM_RINGn_CFG (R342). -/
def execRingEnable (m : Master) (n : Fin 4) (s : State) : Host.Outcome State Fault Refusal :=
  .next (ctlWrite s m (R.ringCfg n) 15 (wbit (s.reg (R.ringCfg n)) 16 true))

/-- RING_DISABLE: a write of EN = 0. -/
def execRingDisable (m : Master) (n : Fin 4) (s : State) : Host.Outcome State Fault Refusal :=
  .next (ctlWrite s m (R.ringCfg n) 15 (wbit (s.reg (R.ringCfg n)) 16 false))

/-- PROGRESS_REPLY: a long command with PROG = 1 says how far it is; without space the reply is dropped (R366, R367). -/
def progressReply (n : Fin 4) (frac : BitVec 16) (s : State) : State :=
  let x := s.cmds.rings[n]
  match x.run with
  | some r =>
    if r.final.isNone && r.pkt.prog && r.pkt.long && x.fwd.isNone && !x.drop && !s.sFull n then
      writeStatus s n r.pkt ⟨1, frac.zeroExtend 32, 0⟩ r.fast false
    else s
  | none => s

/-- PROGRESS_REPLY. -/
def execProgressReply (n : Fin 4) (frac : BitVec 16) (s : State) : Host.Outcome State Fault Refusal := .next (progressReply n frac s)

/-! ### Mailbox (R400) -/

/-- MBX_STAT.BUSY: from GO to the reply. -/
def State.mbxBusy (s : State) : Bool := s.cmds.mbx.isSome || s.cmds.waiting.any (·.src == .mailbox)

/-- MBX_CTL: GO checks and executes the packet in MBX_REQ, which waits like any other; while a ring is enabled it is refused
with 0030h. GO is ignored only while BUSY = 1. -/
def mbxGo (v : Word) (s : State) : State :=
  let l := s.cmds.mbxReq ++ List.replicate (1040 - s.cmds.mbxReq.length) 0
  let p := parsePacket l
  if !bit v 0 || s.mbxBusy || s.rst.hold.isSome then s
  else
    let s := assertEvent { s with cmds := { s.cmds with mbxDone := false } } 391
    if (List.finRange 4).any fun n => s.rbit (R.ringCfg n) 16 then
      { s with cmds := { s.cmds with mbxReply := statusBytes p ⟨0x30, 0, 0⟩ false true true, mbxDone := true } }
    else acceptPkt s ⟨.mailbox, l, 0, 0⟩

/-- MBX_GO. -/
def execMbxGo (v : Word) (s : State) : Host.Outcome State Fault Refusal := .next (mbxGo v s)

/-! ### Commands that are running -/

/-- Do `f` with the command of a source, if it is running an opcode that has not ended and is not held elsewhere. While
the Binnacle core is halted only the fast path works (R461). -/
def withRun (s : State) (src : CmdSrc) (op : Nat) (f : State → Packet → State) : State :=
  match s.running src with
  | some r =>
    let away := match src with | .ring n => s.cmds.rings[n].fwd.isSome | _ => false
    if r.pkt.opcode = op ∧ r.final = none ∧ r.waits = none ∧ away = false ∧ (s.bnm.halted = false ∨ r.fast = true) then f s r.pkt else s
  | none => s

/-- The running command of a source waits. -/
def waitFor (s : State) (src : CmdSrc) (a : Awaits) : State :=
  match s.running src with
  | some r => s.setRun src { r with waits := some a }
  | none => s

/-- A command that ends when it executes. -/
def answerRun (s : State) (src : CmdSrc) (op : Nat) (f : State → Packet → Status × State) : State :=
  withRun s src op fun s p => let (st, s) := f s p; finishCmd s src p st

/-- FORWARD_TIMEOUT: 10 ms have passed and the cascade device has not answered (R355, R368). -/
def execForwardTimeout (n : Fin 4) (s : State) : Host.Outcome State Fault Refusal :=
  .next (match s.cmds.rings[n].fwd with
    | some p => endRing (s.modRing n fun x => { x with fwd := none }) n ⟨0x70, BitVec.ofNat 32 p.dev, 0⟩
    | none => s)

end Sys2Proof.Machine
end

