-- ==== Sys2Proof/Machine/CmdChan.lean ====
section
/-! DEFINITION. The channel commands (11 R357-R359). -/
namespace Sys2Proof.Machine

/-- The 4-byte field of the payload at byte `o`. -/
def Packet.pw (p : Packet) (o : Nat) : Word := bytesWord ((p.payload.drop o).take 4)
/-- The 8-byte field at byte `o`. -/
def Packet.pq (p : Packet) (o : Nat) : Nat := leAt p.payload o 8

/-- The Binnacle writes host memory; `none` while the link is down (R407). -/
def hostPut (s : State) (ha : Nat) (l : List Byte) : Option State :=
  if s.rbit R.pxLink 0 then some (s.setHbytes ha l) else none

/-- Write a record to host memory and end with its length or 0, or end with 0040h. -/
def sendRecord (s : State) (ha : Nat) (l : List Byte) (result : Word) : Status × State :=
  match hostPut s ha l with
  | some s => (⟨0, 0, result⟩, s)
  | none => (⟨0x40, BitVec.ofNat 32 ha, 0⟩, s)

/-- Status 0030h of a channel. -/
def wrongState (ch : Channel) : Status := ⟨0x30, BitVec.ofNat 32 ch.st.code, 0⟩

/-- The context record's words after G0 to G15: payload byte and offset in the channel block (R357). -/
def ctxFields : List (Nat × Nat) :=
  [(64, 0x004), (68, 0x008), (72, 0x00C), (76, 0x01C), (80, 0x020), (84, 0x028), (88, 0x018), (92, 0x014), (96, 0x010),
   (100, 0x024)]

/-- CH_LOADCTX: every field as an MTC in supervisor mode writes it (R357). -/
def loadCtx (p : Packet) (ch : Channel) : Channel :=
  let ch := (List.finRange 16).foldl (fun ch (r : Reg) => ch.setG r (p.pw (4 * r.val))) ch
  ctxFields.foldl (fun ch f => ch.store f.2 (p.pw f.1)) ch

/-- The 128-byte context record (R357). -/
def ctxRecord (ch : Channel) : List Byte :=
  ((List.finRange 16).map ch.rg).flatMap wordBytes ++ (ctxFields.map fun f => ch.word f.2).flatMap wordBytes ++
  List.replicate 24 0

/-- CH_LOADCTX. -/
def execChLoadctx (src : CmdSrc) (s : State) : Host.Outcome State Fault Refusal :=
  .next (answerRun s src 0x0101 fun s p =>
    let ch := s.chan p.chan
    if ch.st = .stopped then (⟨0, 0, 0⟩, s.setChan p.chan (loadCtx p ch)) else (wrongState ch, s))

/-- CH_SETREGION: the entries are written as the Binnacle writes them (R358, R282, R283). -/
def execChSetregion (src : CmdSrc) (s : State) : Host.Outcome State Fault Refusal :=
  .next (answerRun s src 0x0102 fun s p =>
    let first := wfld p.p0 11 8
    (⟨0, 0, 0⟩, (List.range (wfld p.p0 19 16 + 1)).foldl (fun s i =>
      chanWrite (chanWrite s .bnm p.chan (0x400 + 16 * (first + i)) (p.pw (8 * i)) ones) .bnm p.chan
        (0x404 + 16 * (first + i)) (p.pw (8 * i + 4)) ones) s))

/-- CH_GRANT: a pipe outside XBG_GPOLn gives 0032h (R358, R23). -/
def execChGrant (src : CmdSrc) (s : State) : Host.Outcome State Fault Refusal :=
  .next (answerRun s src 0x0103 fun s p =>
    let bad := p.p1 &&& ~~~ s.reg (R.xbgGpol p.chan)
    if bad ≠ 0 then (⟨0x32, bad, 0⟩, s)
    else
      let w := wfld p.p0 11 8
      (⟨0, 0, (s.chan p.chan).pmask⟩, s.modChan p.chan fun ch =>
        { ch with pmask := p.p1, weight := if w = 0 then ch.weight else w }))

/-- A start command (R39, R254); the compute watchdog counts from the first one after a reset (R474). -/
def startChannel (s : State) (c : Chan) : State :=
  let s := refetch (s.modChan c fun ch => { ch with st := .running }) c
  let s := if !s.rst.cwdgGo && s.rst.cwdg = 0 && s.rbit R.wdgCfg 16 then reloadCwdg s else s
  { s with rst := { s.rst with cwdgGo := true } }

/-- CH_START (R359). -/
def execChStart (src : CmdSrc) (s : State) : Host.Outcome State Fault Refusal :=
  .next (answerRun s src 0x0104 fun s p =>
    let ch := s.chan p.chan
    if ch.st = .stopped then (⟨0, 0, 0⟩, startChannel s p.chan) else (wrongState ch, s))

/-- Ask a channel to stop or to quiesce, and let it act if it can. -/
def askChannel (s : State) (src : CmdSrc) (c : Chan) (q : ChReq) : State :=
  settle ((waitFor s src (.chan c)).modChan c fun ch => { ch with req := some q }) c

/-- A stop command on a channel that has already stopped: DETAIL bit 1. While the drain of an earlier stop still runs
it ends with that one. -/
def alreadyStopped (s : State) (src : CmdSrc) (p : Packet) (result : Word) : State :=
  match (s.chan p.chan).req with
  | some (.done _) => (waitFor s src (.chan p.chan)).modChan p.chan fun ch => { ch with req := some (.done 2) }
  | _ => finishCmd s src p ⟨0, 2, result⟩

/-- CH_STOP (R359). -/
def chStop (src : CmdSrc) (s : State) : State :=
  withRun s src 0x0105 fun s p =>
    let c := p.chan
    let ch := s.chan c
    match ch.st with
    | .stopped => alreadyStopped s src p ch.wm
    | .lockedUp =>
      finishCmd (releaseLedger (unlock (s.modChan c fun ch => { ch with st := .stopped }) c) c) src p ⟨0, 0, ch.wm⟩
    | .halted => finishCmd s src p (wrongState ch)
    | .running | .waiting => askChannel s src c .stop

/-- CH_STOP. -/
def execChStop (src : CmdSrc) (s : State) : Host.Outcome State Fault Refusal := .next (chStop src s)

/-- CH_QUIESCE (R359). -/
def chQuiesce (src : CmdSrc) (s : State) : State :=
  withRun s src 0x0106 fun s p =>
    let c := p.chan
    let ch := s.chan c
    match ch.st with
    | .stopped => alreadyStopped s src p ch.pc
    | .lockedUp | .halted => finishCmd s src p (wrongState ch)
    | .running | .waiting => askChannel s src c .quiesce

/-- CH_QUIESCE. -/
def execChQuiesce (src : CmdSrc) (s : State) : Host.Outcome State Fault Refusal := .next (chQuiesce src s)

/-- CH_READCTX (R357). -/
def execChReadctx (src : CmdSrc) (s : State) : Host.Outcome State Fault Refusal :=
  .next (answerRun s src 0x0107 fun s p =>
    let ch := s.chan p.chan
    if ch.st = .running ∨ ch.st = .waiting then (wrongState ch, s) else sendRecord s (p.pq 0) (ctxRecord ch) 0)

/-- DEV_RESET: the status is written, and the reset is asked for (R359). -/
def execDevReset (src : CmdSrc) (s : State) : Host.Outcome State Fault Refusal :=
  .next (answerRun s src 0x0108 fun s p =>
    (⟨0, 0, 0⟩, { s with cmds := { s.cmds with asked := some (bit p.p0 0) } }))

end Sys2Proof.Machine
end

