-- ==== Sys2Proof/Machine/CmdMem.lean ====
section
/-! DEFINITION. The memory commands: the Binnacle copy engine, bank ownership, row repair (11 R360, 09 R293, R294,
10 R317-R319). -/
namespace Sys2Proof.Machine

/-- The kinds of copy. -/
inductive CopyKind where | write | read | fill
  deriving DecidableEq, Repr

/-- A copy: host address, physical address, bytes, key, and the pattern of a fill. -/
structure Copy where
  kind : CopyKind
  ha   : Nat
  pa   : Nat
  n    : Nat
  key  : BitVec 4
  pat  : Word
  deriving DecidableEq, Repr

/-- How one piece of a copy ends: moved, refused with a status code and its address, or waiting (R294, R329). -/
inductive Moved where
  | ok
  | stop (code addr : Nat)
  | wait
  deriving DecidableEq, Repr

/-- The key check of a piece in DRAM (R287, R288). -/
def copyKey (s : State) (c : Copy) (a : Nat) : Moved × State :=
  let wr := c.kind != .read
  if s.target a = .dram then
    if wr && (!s.writable a || !s.keyWritable a) then (.wait, s)
    else match keyCheck s a c.key wr with
      | (.pass, s) => if s.keyWritable a then (.ok, markKey s a wr) else (.wait, s)
      | (.refuse, s) => (.stop 0x34 a, s)
      | (.uncorrectable, s) => (.stop 0x35 a, s)
  else (.ok, s)

/-- The bytes a fill writes from address `a`: every aligned word of the range holds the pattern (log 13). -/
def fillBytes (pat : Word) (a n : Nat) : List Byte := (List.range n).map fun i => (wordBytes pat).getD ((a + i) % 4) 0

/-- Move one piece that lies in one line. What a write command writes is fetched from the host first: with the link down no
access is made to the piece, and its key byte stays (R288, R360). -/
def movePiece (s : State) (c : Copy) (off k : Nat) : Moved × State :=
  let a := c.pa + off
  if c.kind = .write ∧ ¬ s.rbit R.pxLink 0 then (.stop 0x40 (c.ha + off), s)
  else match copyKey s c a with
  | (.ok, s) =>
    (match c.kind with
     | .read =>
       (match readXbar s .bnm a k with
        | (.ok l, s) => (match hostPut s (c.ha + off) l with | some s => (.ok, s) | none => (.stop 0x40 (c.ha + off), s))
        | (.uncorrectable, s) => (.stop 0x35 a, s)
        | (.error, s) => (.stop 0x34 a, s)
        | (.wait, s) => (.wait, s))
     | kind =>
       (match writeXbar s .bnm a (if kind = .fill then fillBytes c.pat a k else s.hbytes (c.ha + off) k) with
        | (.ok, s) => (.ok, s)
        | (.error, s) => (.stop 0x34 a, s)
        | (.wait, s) => (.wait, s)))
  | r => r

/-- Move the bytes from `off` on, line by line: the final status, or `none` where an access has to wait. -/
def moveAll : (fuel : Nat) → State → Copy → Nat → Option (Status × State)
  | 0, s, _, off => some (⟨0, 0, BitVec.ofNat 32 off⟩, s)
  | f + 1, s, c, off =>
    if off ≥ c.n then some (⟨0, 0, BitVec.ofNat 32 off⟩, s)
    else
      let k := min (c.n - off) (64 - (c.pa + off) % 64)
      match movePiece s c off k with
      | (.ok, s) => moveAll f s c (off + k)
      | (.stop code addr, s) => some (⟨code, BitVec.ofNat 32 addr, BitVec.ofNat 32 off⟩, s)
      | (.wait, _) => none

/-- The first chart bank of a range that the Binnacle does not own. -/
def foreignBank (s : State) (pa n : Nat) : Option Nat :=
  ((List.range 32).find? fun b =>
    let base := 0x800000000000 + 0x200000 * b
    base < pa + n && pa < base + 0x200000 && s.rfld (R.cbOwner b) 4 0 != 0x10).map fun b => s.rfld (R.cbOwner b) 4 0

/-- A memory command (R360); the copy engine pauses while the whole domain is halted (R461). -/
def memCommand (s : State) (src : CmdSrc) (op : Nat) (kind : CopyKind) : State :=
  if s.sx.all then s else withRun s src op fun s p =>
    let (pa, n, key) := memFields p
    match foreignBank s pa n with
    | some o => finishCmd s src p ⟨0x33, BitVec.ofNat 32 o, 0⟩
    | none =>
      match moveAll (n / 64 + 3) s ⟨kind, p.pq 0, pa, n, key, p.p1⟩ 0 with
      | some (st, s) => finishCmd s src p st
      | none => s

/-- MEM_WRITE: host memory to the device. -/
def execMemWrite (src : CmdSrc) (s : State) : Host.Outcome State Fault Refusal := .next (memCommand s src 0x0201 .write)
/-- MEM_READ: the device to host memory. -/
def execMemRead (src : CmdSrc) (s : State) : Host.Outcome State Fault Refusal := .next (memCommand s src 0x0202 .read)
/-- MEM_FILL. -/
def execMemFill (src : CmdSrc) (s : State) : Host.Outcome State Fault Refusal := .next (memCommand s src 0x0203 .fill)

/-- BANK_OWNER: completes after the handover, or after the wipe when WIPE = 1 (R293, R294, R360). -/
def bankOwner (src : CmdSrc) (s : State) : State :=
  withRun s src 0x0204 fun s p =>
    let b : Fin 32 := ⟨wfld p.p0 4 0 % 32, by omega⟩
    let was := s.rfld (R.cbOwner b) 4 0
    let wipe := bit p.p0 16
    if s.wiping.contains b.val then finishCmd s src p ⟨0x30, 1, 0⟩
    else
      let s := setOwner s (masterOf src) b (BitVec.ofNat 32 (wfld p.p0 12 8 + wipe.toNat * 256))
      if s.handover.any (·.1 == b.val) then waitFor s src (.bank b was wipe)
      else finishCmd s src p ⟨0, 0, BitVec.ofNat 32 was⟩

/-- BANK_OWNER. -/
def execBankOwner (src : CmdSrc) (s : State) : Host.Outcome State Fault Refusal := .next (bankOwner src s)

/-- BANK_OWNER commands that wait for bank `b`: for the handover, or for the wipe. -/
def endBankWaits (s : State) (b : Nat) (wiped : Bool) : State :=
  endWhere s fun _ r => match r.waits with
    | some (.bank x was wipe) => if x.val = b ∧ wipe = wiped then some ⟨0, 0, BitVec.ofNat 32 was⟩ else none
    | _ => none

/-- MEM_STATUS. -/
def execMemStatus (src : CmdSrc) (s : State) : Host.Outcome State Fault Refusal :=
  .next (answerRun s src 0x0205 fun s _ => (⟨0, 0, s.reg R.smsMinit⟩, s))

/-- The lines of a row: for each column the one line index whose location it is (R318, R319). -/
def rowLines (s : State) (m : Fin 8) (sub rank bk row : Nat) : List Nat :=
  let c := if s.rbit (R.mcCfg m) 6 then 6 else 7
  let k := s.rfld (R.mcCfg m) 5 4
  (List.range (2 ^ c)).filterMap fun col =>
    ((List.range 512).map fun low => (row * 2 ^ (c + k) + rank * 2 ^ c + col) * 512 + low).find? fun l =>
      let d := s.dramLoc (l * 64)
      mcOf (l * 64) == m && d.sub == sub && d.bank.toNat == bk

/-- MEM_PPR: every line of the repaired row is poisoned (R317, R323, R360). -/
def execMemPpr (src : CmdSrc) (s : State) : Host.Outcome State Fault Refusal :=
  .next (answerRun s src 0x0206 fun s p =>
    let ls := rowLines s ⟨wfld p.p0 2 0 % 8, by omega⟩ (wfld p.p0 3 3) (wfld p.p0 7 4) (wfld p.p0 12 8) (leAt p.payload 0 4)
    (⟨0, 0, 0⟩, ls.foldl (fun s l =>
      let s := kcInval (clearResv s l) l
      { s with poison := setIns l s.poison }) s))

end Sys2Proof.Machine
end

