-- ==== Sys2Proof/Machine/Bearing.lean ====
section
/-! DEFINITION. Cross-bearing: proposals, confirmations, their outcomes and the apply (09 R297-R303, 12 R394, R395). -/
namespace Sys2Proof.Machine

/-- XBG_STAT.PARTY. -/
def partyCode : Party → Nat
  | .ring0 => 1 | .vlan => 2 | .console => 3

/-- The origin code of a party (R441). -/
def partyOrigin : Party → Nat
  | .ring0 => 0x213 | .vlan => 0x218 | .console => 0x217

/-- Whether the console acts as party 3: after a credential, and always on a blank device (R383, R394). -/
def State.consoleIs3 (s : State) : Bool := s.fuses.lcs == 0 || s.bnm.console.party.isSome

/-- Extend measurement register `i` with the SHA-384 of `m` (R379). -/
def extendMeas (s : State) (i : Fin 8) (m : List Byte) : State :=
  { s with bnm := { s.bnm with meas := s.bnm.meas.set i (digest (leBytes 48 (s.bnm.meas[i]).toNat ++ sha384 m)) } }

/-- DIGEST of R300. -/
def bearingDigest (item : Nat) (nonce : Word) (value : List Byte) : Word :=
  bytesWord ((sha384 (BitVec.ofNat 8 item :: wordBytes nonce ++ value)).take 4)

/-- The word at byte `o` of a value. -/
def valWord (v : List Byte) (o : Nat) : Word := bytesWord ((v.drop o).take 4)

/-- Whether a value is valid for its item (R297, R394). -/
def validValue (s : State) (item : Nat) (v : List Byte) : Bool :=
  let w := valWord v 0
  let lcs := s.fuses.lcs
  if item = 1 then
    let base := 2 ^ 24 * wfld w 23 0
    let len := wfld (valWord v 4) 18 0
    v.length == 8 && base + 4096 * len ≤ s.dramSize && 2 ^ 24 * len ≤ s.dramSize
  else if item = 2 then v.length == 4 && wfld w 31 2 == 0
  else if item = 3 then v.length == 64
  else if item = 4 then v.length == 4 && wfld w 7 4 == 0 && wfld w 31 9 == 0
  else if item = 5 then
    v.length == 4 && wfld w 31 2 == 0 && !(bit w 0 && lcs == 3) && !(bit w 1 && 2 ≤ lcs)
  else if item = 6 then v.length == 4 && wfld w 31 1 == 0
  else if item = 7 then v.length == 4 && lcs < 3 && w.toNat == lcs + 1
  else false

/-- No proposal is pending any more. -/
def clearProposal (s : State) : State :=
  { s.modReg R.xbgStat (· &&& 0xF0000) with bnm := { s.bnm with prop := none } }

/-- A pending proposal ends with an outcome. -/
def endProposal (s : State) (last conf : Nat) : State :=
  match s.bnm.prop with
  | some p => outcome (clearProposal s) last (partyOrigin p.party) p.item p.nonce conf
  | none => s

/-- Two seconds of Chronometer time end a proposal (R302). -/
def expireProposal (s : State) : State :=
  match s.bnm.prop with
  | some p => if p.time + 2000000000 ≤ s.time.toNat then endProposal s 7 0 else s
  | none => s

/-- The sealed bank is wiped, which destroys MK, and its lending ends (R296, R384). -/
def wipeSealed (s : State) : State :=
  { (s.setReg R.cbcSblend 0) with wiping := setIns 32 s.wiping, bnm := { s.bnm with mgmtKey := none } }

/-- What a change does at its apply point (R297, R303, R395). -/
def applyItem (s : State) (item : Nat) (v : List Byte) : State :=
  let w := valWord v 0
  if item = 1 then
    { (s.setReg R.kcKtbase (w &&& 0xFFFFFF)).setReg R.kcKtlen (valWord v 4 &&& 0x7FFFF) with kcache := [] }
  else if item = 2 then s.setReg R.cbcPolicy w
  else if item = 3 then
    channels.foldl (fun s (c : Chan) =>
      let a := valWord v (4 * c.val)
      (s.setReg (R.xbgGpol c) a).modChan c fun ch => { ch with pmask := ch.pmask &&& a }) s
  else if item = 4 then s.setReg R.cbcSblend w
  else if item = 5 then s.setFld R.bnmLcs 9 8 (wfld w 1 0)
  else if item = 6 then s.setBit R.bnmLcs 10 (bit w 0)
  else
    let s := { s with fuses := { s.fuses with lcs := w.toNat % 8, keyBlown := s.fuses.keyBlown || w.toNat == 3 } }
    let s := wipeSealed s
    { s with bnm := { s.bnm with lcReset := true } }

/-- A PROPOSE (R299-R302): the result is LAST, or 0 where it is accepted and pending. `party` is `none` for the
console without a credential. -/
def propose (s : State) (party : Option Party) (who item : Nat) (nonce dig : Word) (value : List Byte) : Nat × State :=
  let s := expireProposal s
  let refuse := fun last => (last, outcome s last who item nonce 0)
  if s.reg R.xbgNonce = ones then refuse 4
  else match party with
  | none => refuse 1
  | some q =>
    if nonce ≠ s.reg R.xbgNonce ∨ dig ≠ bearingDigest item nonce value ∨ validValue s item value = false then refuse 1
    else if s.bnm.prop.isSome then refuse 2
    else
      let s := s.setReg R.xbgNonce (nonce + 1)
      let s := s.modReg R.xbgStat fun w => (w &&& 0xF0000) ||| BitVec.ofNat 32 (1 + partyCode q * 16 + item * 256)
      let s := { s with bnm := { s.bnm with prop := some ⟨q, item, nonce, dig, value, s.time.toNat⟩ } }
      (0, assertEvent (saveNow s) 504)

/-- A CONFIRM (R302, R303): the result is LAST. -/
def confirm (s : State) (party : Option Party) (who item : Nat) (nonce dig : Word) : Nat × State :=
  let s := expireProposal s
  match s.bnm.prop, party with
  | some p, some q =>
    if item ≠ p.item ∨ nonce ≠ p.nonce ∨ dig ≠ p.digest then (5, endProposal s 5 who)
    else if q = p.party then (6, endProposal s 6 who)
    else
      let s := applyItem s p.item p.value
      let s := extendMeas s 6 (BitVec.ofNat 8 p.item :: wordBytes p.nonce ++ p.value)
      let s := outcome (clearProposal s) 0 (partyOrigin p.party) p.item p.nonce who
      (0, saveNow s)
  | _, _ => (3, outcome s 3 who item nonce who)

/-- The party that sends a command, if its source is one now (R298). -/
def partyOfSrc (s : State) : CmdSrc → Option Party
  | .ring n => if n.val = 0 then some .ring0 else none
  | .vlan => some .vlan
  | .console _ => if s.consoleIs3 then some .console else none
  | _ => none

/-- The packet that stands for a message of the console. -/
def consolePacket (op : Nat) (body : List Byte) : Packet :=
  ⟨op, 0, false, false, false, false, 0, 0, body.length, 0, 0, body⟩

/-- A message of cross-bearing: the console's is checked as a packet's is. -/
def bearingMsg (s : State) (src : CmdSrc) (op : Nat) (f : State → Packet → Status × State) : State :=
  match src with
  | .console body =>
    let p := consolePacket op body
    if !s.packetsOk || s.bnm.halted then s
    else if wantedLen p ≠ some p.len then finishCmd s src p ⟨0x11, 6, 0⟩
    else (match modeFail s p, firstFail (paramFails s p) with
      | some st, _ => finishCmd s src p st
      | none, some (o, c) => finishCmd s src p ⟨c, BitVec.ofNat 32 o, 0⟩
      | none, none => let (st, s) := f s p; finishCmd s src p st)
  | _ => answerRun s src op f

/-- XB_PROPOSE (R299, R361): RESULT is the new XBG_NONCE. -/
def execXbPropose (src : CmdSrc) (s : State) : Host.Outcome State Fault Refusal :=
  .next (bearingMsg s src 0x0301 fun s p =>
    let (last, s) := propose s (partyOfSrc s src) (origin (masterOf src)) (leAt p.payload 0 1) (p.pw 4) (p.pw 8)
      (p.payload.drop 16)
    (if last = 0 then ⟨0, 0, s.reg R.xbgNonce⟩ else ⟨0x50, BitVec.ofNat 32 last, 0⟩, s))

/-- XB_CONFIRM (R299, R361). -/
def execXbConfirm (src : CmdSrc) (s : State) : Host.Outcome State Fault Refusal :=
  .next (bearingMsg s src 0x0302 fun s p =>
    let (last, s) := confirm s (partyOfSrc s src) (origin (masterOf src)) (leAt p.payload 0 1) (p.pw 4) (p.pw 8)
    (if last = 0 then ⟨0, 0, 0⟩ else ⟨0x50, BitVec.ofNat 32 last, 0⟩, s))

/-- CROSS_BEARING_TIMEOUT: two seconds of Chronometer time have passed without a valid CONFIRM (R302). -/
def execCrossBearingTimeout (s : State) : Host.Outcome State Fault Refusal := .next (expireProposal s)

/-- XB_STATUS: RESULT is XBG_STAT, DETAIL is XBG_NONCE. -/
def execXbStatus (src : CmdSrc) (s : State) : Host.Outcome State Fault Refusal :=
  .next (answerRun s src 0x0303 fun s _ => (⟨0, s.reg R.xbgNonce, s.reg R.xbgStat⟩, s))

/-- SETTINGS_RECORD_WRITE: a record is written after a mirrored field has changed, no sooner than 60 s after the previous
one (R484, R492). -/
def settingsRecordWrite (ok : Bool) (s : State) : State :=
  if (newest s.nor.settings).map (·.val) = some (settingsOf s) then s
  else if s.bnm.lastSet.any fun t => s.ticks < t + settingsGap then s
  else saveSettings s ok

/-- SETTINGS_RECORD_WRITE. -/
def execSettingsRecordWrite (ok : Bool) (s : State) : Host.Outcome State Fault Refusal := .next (settingsRecordWrite ok s)

/-! ### Console (R383) -/

/-- Ticks of the console's lock after `k` failed entries in a row: 60 s from the third, doubling up to 1 h. -/
def lockTicks (k : Nat) : Nat := 1000000000 * min (60 * 2 ^ (k - 3)) 3600

/-- OPERATOR_CREDENTIAL: 64 hexadecimal digits, the first digit most significant. -/
def operatorCredential (digits : BitVec 256) (s : State) : State :=
  let con := s.bnm.console
  let h := digest (beBytes 32 digits.toNat)
  if con.lock.isSome then s
  else if s.fuses.verifiers.toList.any (· == some h) then
    State.answers { s with bnm := { s.bnm with console := ⟨some (s.ticks + 600000000000), 0, none⟩ } } (.bits [true])
  else
    let k := con.fails + 1
    State.answers { s with bnm := { s.bnm with console :=
        { con with fails := k, lock := if k < 3 then none else some (s.ticks + lockTicks k) } } } (.bits [false])

/-- OPERATOR_CREDENTIAL. -/
def execOperatorCredential (digits : BitVec 256) (s : State) : Host.Outcome State Fault Refusal :=
  .next (operatorCredential digits s)

/-- Change the console. -/
def State.modConsole (s : State) (f : Console → Console) : State :=
  { s with bnm := { s.bnm with console := f s.bnm.console } }

/-- Whether a deadline in ticks has come. -/
def State.due (s : State) (d : Option Nat) : Bool := d.any (· ≤ s.ticks)

/-- The console's lock ends at its deadline (R383). -/
def consoleUnlock (s : State) : State :=
  if s.due s.bnm.console.lock then s.modConsole fun x => { x with lock := none } else s

/-- The console is party 3 no more, ten minutes after the credential (R383). -/
def consoleEnd (s : State) : State :=
  if s.due s.bnm.console.party then s.modConsole fun x => { x with party := none } else s

/-- CONSOLE_LOCK_EXPIRY. -/
def execConsoleLockExpiry (s : State) : Host.Outcome State Fault Refusal := .next (consoleUnlock s)

/-- CONSOLE_PARTY_EXPIRY. -/
def execConsolePartyExpiry (s : State) : Host.Outcome State Fault Refusal := .next (consoleEnd s)

/-- CONSOLE_LOGOUT. -/
def execConsoleLogout (s : State) : Host.Outcome State Fault Refusal :=
  .next (s.modConsole fun x => { x with party := none })

/-- MANAGEMENT_KEY_LOAD: MK enters the sealed bank while the console is party 3 (R384). -/
def execManagementKeyLoad (key : BitVec 256) (s : State) : Host.Outcome State Fault Refusal :=
  .next (if s.consoleIs3 && !s.wiping.contains 32 then { s with bnm := { s.bnm with mgmtKey := some key } } else s)

/-- VERIFIER_PROGRAM: a verifier slot while the console is party 3; a fuse only changes from 0 to 1 (R382, R383). -/
def execVerifierProgram (slot : Fin 4) (v : BitVec 384) (s : State) : Host.Outcome State Fault Refusal :=
  let vs := s.fuses.verifiers.set slot (some ((s.fuses.verifiers[slot]).getD 0 ||| v))
  .next (if s.consoleIs3 then { s with fuses := { s.fuses with verifiers := vs } } else s)

/-! ### Management VLAN (R384, R385) -/

/-- A packet that is not accepted is dropped and recorded. -/
def vlanDrop (s : State) (port : Fin 4) (counter : Nat) : State :=
  formRecord s 5 4 0x218 [BitVec.ofNat 32 port.val, BitVec.ofNat 32 counter]

/-- The ceiling is raised in a settings record before a counter above it is accepted. -/
def acceptCounter (s : State) (n : Nat) : State :=
  let s := if n > s.bnm.rxCeil then saveNow { s with bnm := { s.bnm with rxCeil := n + 2 ^ 20 } } else s
  { s with bnm := { s.bnm with rxLast := n } }

/-- A management packet: one whose tag verifies and whose counter is new is accepted, and checked when it starts (R384). -/
def vlanPacket (port : Fin 4) (l : List Byte) (s : State) : State :=
  let n := leAt l 4 8
  if s.rst.hold.isSome then s else
  match s.bnm.mgmtKey with
  | none => vlanDrop s port n
  | some k =>
    if leAt l 1 1 ≠ 0 ∨ l.length < 28 then vlanDrop s port n
    else match Config.gcmOpen k (vlanIv 0 n) (l.take 12) (l.drop 12) with
    | none => vlanDrop s port n
    | some plain =>
      if n ≤ s.bnm.rxLast then vlanDrop s port n
      else acceptPkt (acceptCounter s n) ⟨.vlan, plain, port, l.headD 0⟩

/-- MANAGEMENT_PACKET: it comes by a port that is up and has the management VLAN (R384, R411; log 14). -/
def managementPacket (port : Fin 4) (l : List Byte) (s : State) : State :=
  if (s.ifc.nx[port]).up && s.rbit (R.nxCfg port) 5 then vlanPacket port l s else s

/-- MANAGEMENT_PACKET. -/
def execManagementPacket (port : NxPort) (packet : List Byte) (s : State) : Host.Outcome State Fault Refusal :=
  .next (managementPacket port packet s)

end Sys2Proof.Machine
end

