-- ==== Sys2Proof/Machine/CmdDev.lean ====
section
/-! DEFINITION. Telemetry, Logbook, firmware, cascade, attestation and debug commands (11 R356, R362, R363;
12 R373, R374, R380, R386-R392; 14 R450-R464). -/
namespace Sys2Proof.Machine

/-! ### Telemetry (R362, R372-R376) -/

/-- A temperature reading sign-extended to a word. -/
def tempWord (t : BitVec 16) : Word := t.signExtend 32

/-- The mean of the newest `n` values, of those there are; 0 of none. -/
def meanOf (l : List Nat) (n : Nat) : Nat := let x := l.take n; x.foldl (· + ·) 0 / max 1 x.length

/-- The value of a telemetry item (R362, R373). -/
def telemetry (s : State) (cls i : Nat) : Word :=
  let x := s.bnm.sensors
  if cls = 0 then tempWord (x.temps.getD i 0)
  else if cls = 1 then (x.rails.getD i 0).zeroExtend 32
  else if cls = 2 then (x.srm.getD i 0).zeroExtend 32
  else if cls = 3 then
    (if i = 0 then BitVec.ofNat 32 (s.rfld R.bnmTstep 15 0)
     else BitVec.ofNat 32 (meanOf x.hist (if i = 1 then 100 else 10000)))
  else x.power

/-- TLM_READ. -/
def execTlmRead (src : CmdSrc) (s : State) : Host.Outcome State Fault Refusal :=
  .next (answerRun s src 0x0401 fun s p => (⟨0, 0, telemetry s (wfld p.p0 11 8) (wfld p.p0 7 0)⟩, s))

/-- The telemetry snapshot (R374); monitor 0 measures VDD_CORE (R511). -/
def snapshot (s : State) : List Byte :=
  let x := s.bnm.sensors
  let flags := x.throttle.toNat + (decide ((x.rails.getD 0 0).toNat < 760)).toNat * 2 + x.fault.toNat * 4
  leBytes 2 1 ++ leBytes 2 0 ++ leBytes 8 x.time ++ leBytes 4 flags ++
  ((List.range 24).flatMap fun i => wordBytes (tempWord (x.temps.getD i 0))) ++
  ((List.range 12).flatMap fun i => leBytes 4 (x.rails.getD i 0).toNat) ++
  ((List.range 32).flatMap fun i => leBytes 4 (x.srm.getD i 0).toNat) ++
  leBytes 4 (s.rfld R.bnmTstep 15 0) ++ wordBytes x.power ++ leBytes 4 (s.rfld R.bnmVctl 9 0) ++ List.replicate 20 0

/-- TLM_SNAPSHOT. -/
def execTlmSnapshot (src : CmdSrc) (s : State) : Host.Outcome State Fault Refusal :=
  .next (answerRun s src 0x0402 fun s p => sendRecord s (p.pq 0) (snapshot s) 320)

/-- VCORE_SET: TARGET is written; below 760 mV DETAIL bit 0 is set (R362, R376). -/
def execVcoreSet (src : CmdSrc) (s : State) : Host.Outcome State Fault Refusal :=
  .next (answerRun s src 0x0403 fun s p =>
    (⟨0, ofBool (p.p0.toNat < 760), BitVec.ofNat 32 (s.rfld R.bnmVctl 9 0)⟩,
     followTarget (s.setFld R.bnmVctl 9 0 p.p0.toNat)))

/-! ### Logbook (R362, R450-R453) -/

/-- LB_FREEZE acts through bit 16, the Binnacle's. -/
def execLbFreeze (src : CmdSrc) (s : State) : Host.Outcome State Fault Refusal :=
  .next (answerRun s src 0x0501 fun s p =>
    (⟨0, 0, s.reg R.lbHoldLostCnt⟩, freezeBit s 16 (bit p.p0 0)))

/-- The records held with sequence numbers from `first`, `n` numbers at most, oldest first. -/
def recordsFrom (s : State) (first n : Nat) : List LogRec :=
  s.log.recs.reverse.filter fun r => first ≤ r.seq && r.seq < first + n

/-- LB_READ: records by sequence number; its own freeze holds for the copy only, which is one step here. -/
def execLbRead (src : CmdSrc) (s : State) : Host.Outcome State Fault Refusal :=
  .next (answerRun s src 0x0502 fun s p =>
    let rs := recordsFrom s (p.pq 8) (leAt p.payload 16 4)
    sendRecord s (p.pq 0) (rs.flatMap LogRec.bytes) (BitVec.ofNat 32 rs.length))

/-- LB_CLEAR names its source as the clearer. -/
def execLbClear (src : CmdSrc) (s : State) : Host.Outcome State Fault Refusal :=
  .next (answerRun s src 0x0503 fun s _ =>
    let s := clearLog s (origin (masterOf src))
    (⟨0, 0, s.reg R.lbClrCnt⟩, s))

/-- LB_STATUS. -/
def execLbStatus (src : CmdSrc) (s : State) : Host.Outcome State Fault Refusal :=
  .next (answerRun s src 0x0504 fun s _ => (⟨0, s.reg R.lbLostCnt, BitVec.ofNat 32 s.log.recs.length⟩, s))

/-! ### Images and slots (R386-R392) -/

/-- The bytes of a slot: an empty list stands for the image delivered in it (log 5). -/
def slotBytes (s : State) (patch slotB : Bool) : List Byte :=
  let l := if patch then (if slotB then s.nor.pB else s.nor.pA) else (if slotB then s.nor.fwB else s.nor.fwA)
  if l.isEmpty && !slotB then Config.factoryImage patch else l

/-- Whether a slot still holds the image it was delivered with. -/
def isFactory (s : State) (patch slotB : Bool) : Bool := !slotB && (if patch then s.nor.pA.isEmpty else s.nor.fwA.isEmpty)

/-- The version an image's header names. -/
def imgVersion (l : List Byte) : Word := bytesWord ((l.drop 8).take 4)

/-- The boot descriptor in force: a valid copy with the higher sequence number (R387). -/
def bootDesc (s : State) : BootDesc :=
  match s.nor.desc0.crcOk, s.nor.desc1.crcOk with
  | true, true => if s.nor.desc0.seq < s.nor.desc1.seq then s.nor.desc1 else s.nor.desc0
  | false, true => s.nor.desc1
  | true, false => s.nor.desc0
  | false, false => ⟨0, false, (false, false), false, (false, false), 0⟩

/-- A change of the descriptor writes the other copy (R387). -/
def changeDesc (s : State) (f : BootDesc → BootDesc) : State :=
  let d := bootDesc s
  let new := BootDesc.sealed { f d with seq := (d.seq + 1) % 2 ^ 32 }
  if s.nor.desc0.crcOk && d == s.nor.desc0 then { s with nor := { s.nor with desc1 := new } }
  else { s with nor := { s.nor with desc0 := new } }

/-- The slot of a kind that this start runs from (BNM_LCS.FWSLOT, PSLOT); `true` is B. -/
def runsB (s : State) (patch : Bool) : Bool := s.rbit R.bnmLcs (if patch then 6 else 5)

/-- The valid bit of a slot. -/
def BootDesc.valid (d : BootDesc) (patch slotB : Bool) : Bool :=
  let v := if patch then d.pOk else d.fwOk
  if slotB then v.2 else v.1

/-- Set the valid bit of a slot. -/
def BootDesc.setValid (d : BootDesc) (patch slotB b : Bool) : BootDesc :=
  let put := fun (v : Bool × Bool) => if slotB then (v.1, b) else (b, v.2)
  if patch then { d with pOk := put d.pOk } else { d with fwOk := put d.fwOk }

/-- Put an image into a slot. -/
def writeSlot (s : State) (patch slotB : Bool) (l : List Byte) : State :=
  { s with nor := if patch then (if slotB then { s.nor with pB := l } else { s.nor with pA := l })
                  else (if slotB then { s.nor with fwB := l } else { s.nor with fwA := l }) }

/-- The comparator words and microwords of a patch's plaintext. -/
def patchWords (l : List Byte) : List Word × List Word :=
  let nc := leAt l 2 2
  (bytesWords nc (l.drop 16), bytesWords (leAt l 4 2) (l.drop (16 + 4 * nc)))

/-- The content checks of R390. -/
def patchOk (l : List Byte) : Bool :=
  let nc := leAt l 2 2
  let nw := leAt l 4 2
  leAt l 0 2 == 1 && nc ≤ 64 && nw ≤ 1024 && ((l.drop 6).take 10).all (· == 0) && 16 + 4 * (nc + nw) ≤ l.length &&
  (patchWords l).1.all fun w => wfld w 2 1 != 3 && wfld w 31 28 == 0 && wfld w 27 18 < nw

/-- How the verification of an image ends: its plaintext, or the stage that failed (R389). -/
inductive Verified where
  | ok (plain : List Byte)
  | fail (stage : Nat)
  deriving DecidableEq, Repr

/-- The image decryption key, all ones once it is blown (R382, R395). -/
def imgKey (s : State) : BitVec 256 := if s.fuses.keyBlown then BitVec.allOnes 256 else s.fuses.imageKey

/-- The verification of R389, in its order. -/
def verifyImage (s : State) (patch : Bool) (l : List Byte) : Verified :=
  let len := leAt l 16 4
  let cipher := (l.drop 256).take len
  let lcs := s.fuses.lcs
  let signedBy := fun (k : Fin 2) => Config.ecdsaVerify s.fuses.signers[k] (l.take 160 ++ cipher) ((l.drop 160).take 96)
  if leAt l 0 4 ≠ 0x4E445153 ∨ leAt l 4 2 ≠ patch.toNat ∨ leAt l 6 2 ≠ 1 ∨ leAt l 20 4 ≠ 0x11 ∨
      len > (if patch then 4368 else 196608) ∨ cipher.length ≠ len ∨ ((l.drop 100).take 60).any (· != 0) then .fail 1
  else if lcs = 0 ∨ lcs = 3 ∨ ¬(signedBy 0 ∨ (lcs = 1 ∧ signedBy 1)) then .fail 2
  else if leAt l 12 4 < (if patch then s.fuses.svnPatch else s.fuses.svnFw) then .fail 3
  else match Config.gcmOpen (imgKey s) ((l.drop 24).take 12) (l.take 24) (cipher ++ (l.drop 36).take 16) with
    | none => .fail 4
    | some plain =>
      if sha384 plain ≠ (l.drop 52).take 48 then .fail 5
      else if patch && !patchOk plain then .fail 6
      else .ok plain

/-- FW_WRITE: the inactive slot's valid bit is cleared, the image written and verified, and the bit set only if it
passes (R363, R391). -/
def fwWrite (s : State) (p : Packet) : Status × State :=
  let patch := bit p.p0 0
  let slotB := !runsB s patch
  let s := changeDesc s fun d => d.setValid patch slotB false
  if !s.rbit R.pxLink 0 then (⟨0x40, BitVec.ofNat 32 (p.pq 0), 0⟩, s)
  else
    let l := s.hbytes (p.pq 0) (leAt p.payload 8 4)
    let s := writeSlot s patch slotB l
    match verifyImage s patch l with
    | .fail k => (⟨0x41, BitVec.ofNat 32 k, 0⟩, s)
    | .ok _ => (⟨0, 0, imgVersion l⟩, changeDesc s fun d => d.setValid patch slotB true)

/-- FW_WRITE. -/
def execFwWrite (src : CmdSrc) (s : State) : Host.Outcome State Fault Refusal := .next (answerRun s src 0x0601 fwWrite)

/-- FW_ACTIVATE: the valid inactive slot becomes the active one at the next start; in recovery mode FAILCNT is cleared
(R363, R391, R487). -/
def fwActivate (s : State) (p : Packet) : Status × State :=
  let patch := bit p.p0 0
  let slotB := !runsB s patch
  if !(bootDesc s).valid patch slotB then (⟨0x41, 0, 0⟩, s)
  else
    let s := changeDesc s fun d => if patch then { d with pB := slotB } else { d with fwB := slotB }
    let s := { s with bnm := if patch then { s.bnm with freshP := true, triedP := false }
                             else { s.bnm with freshFw := true, triedFw := false } }
    let s := if s.rbit R.bnmLcs 4 then s.setFld R.rstStat 3 2 0 else s
    (⟨0, 0, imgVersion (slotBytes s patch slotB)⟩, s)

/-- FW_ACTIVATE. -/
def execFwActivate (src : CmdSrc) (s : State) : Host.Outcome State Fault Refusal := .next (answerRun s src 0x0602 fwActivate)

/-- FW_INFO: RESULT is the active slot's version, DETAIL the inactive slot's. -/
def execFwInfo (src : CmdSrc) (s : State) : Host.Outcome State Fault Refusal :=
  .next (answerRun s src 0x0603 fun s p =>
    let patch := bit p.p0 0
    (⟨0, imgVersion (slotBytes s patch (!runsB s patch)), imgVersion (slotBytes s patch (runsB s patch))⟩, s))

/-! ### Cascade (R356, R432) -/

/-- CAS_STATUS. -/
def execCasStatus (src : CmdSrc) (s : State) : Host.Outcome State Fault Refusal :=
  .next (answerRun s src 0x0701 fun s _ =>
    let c := s.ifc.casc
    let up := (List.range 4).foldl (fun n q => n + (s.rbit (R.klStat q) 0).toNat * 2 ^ q) 0
    (⟨0, BitVec.ofNat 32 up, BitVec.ofNat 32 (c.index % 8 + c.lodestar.toNat * 8 + c.devices % 16 * 16)⟩, s))

/-- CAS_SETROLE writes the retained role, which applies at the next start. -/
def execCasSetrole (src : CmdSrc) (s : State) : Host.Outcome State Fault Refusal :=
  .next (answerRun s src 0x0702 fun s p =>
    (⟨0, 0, ofBool s.bnm.role⟩, { s with bnm := { s.bnm with role := bit p.p0 0 } }))

/-! ### Attestation (R380) -/

/-- The attestation report before its signature. -/
def reportBody (s : State) (nonce : List Byte) : List Byte :=
  leBytes 2 1 ++ leBytes 2 0 ++ wordBytes (wset (s.reg R.bnmLcs) 2 0 s.fuses.lcs) ++ leBytes 8 s.time.toNat ++ nonce ++
  s.bnm.meas.toList.flatMap (fun m => leBytes 48 m.toNat) ++ wordBytes (s.reg R.xbgNonce) ++
  wordBytes s.bnm.fwVer ++ wordBytes s.bnm.patchVer ++ List.replicate 20 0

/-- A signature of a digest with the attestation key, r and s big-endian (R380). -/
def signDigest (s : State) (d : List Byte) : List Byte × State :=
  let (r, t) := Config.ecdsaSign s.fuses.attKey d s.free
  (beBytes 48 r.toNat ++ beBytes 48 t.toNat, { s with free := s.free + 1 })

/-- The report and its signature over SHA-384 of bytes 0-463 (R380). -/
def report (s : State) (nonce : List Byte) : List Byte × State :=
  let (sig, t) := signDigest s (sha384 (reportBody s nonce))
  (reportBody s nonce ++ sig, t)

/-- A record that goes to host memory, and over the management VLAN into the reply as well (R380). -/
def sendAttest (s : State) (src : CmdSrc) (ha : Nat) (l : List Byte) : Status × State :=
  let s := if src = .vlan then { s with cmds := { s.cmds with vlanData := l } } else s
  sendRecord s ha l (BitVec.ofNat 32 l.length)

/-- ATT_MEAS. -/
def execAttMeas (src : CmdSrc) (s : State) : Host.Outcome State Fault Refusal :=
  .next (answerRun s src 0x0801 fun s p =>
    let (l, s) := report s ((p.payload.drop 8).take 32)
    sendAttest s src (p.pq 0) l)

/-- ATT_CERT: at most the bytes asked for. -/
def execAttCert (src : CmdSrc) (s : State) : Host.Outcome State Fault Refusal :=
  .next (answerRun s src 0x0802 fun s p => sendAttest s src (p.pq 0) (Config.certChain.take (leAt p.payload 8 4)))

/-! ### Debug commands (R458-R464) -/

/-- DBG_HALT: it completes when the requests it makes have been taken or ignored. -/
def dbgHalt (src : CmdSrc) (s : State) : State :=
  withRun s src 0x0901 fun s p =>
    let mask := p.p0 &&& 0xFFFF
    finishHalts (waitFor (writeHaltReq s (masterOf src) mask) src (.halts mask))

/-- DBG_HALT. -/
def execDbgHalt (src : CmdSrc) (s : State) : Host.Outcome State Fault Refusal := .next (dbgHalt src s)

/-- DBG_RELEASE: RESULT is the mask of the channels released (R462). -/
def execDbgRelease (src : CmdSrc) (s : State) : Host.Outcome State Fault Refusal :=
  .next (answerRun s src 0x0902 fun s p =>
    let mask := p.p0 &&& 0xFFFF
    (⟨0, 0, BitVec.ofNat 32 (haltedMask s) &&& mask⟩, release s (origin (masterOf src)) mask))

/-- The result of a peek of physical memory through M0: a control-space word with peek semantics, or the word read, whose
key byte is marked (R288). -/
def dbgPeek (s : State) (pa : Nat) : Status × State :=
  let away := fun (r : Got × State) => match r with
    | (.ok l, s) => ((⟨0, 0, bytesWord l⟩ : Status), s)
    | (.uncorrectable, s) => (⟨0x35, BitVec.ofNat 32 pa, 0⟩, s)
    | (_, s) => (⟨0x34, BitVec.ofNat 32 pa, 0⟩, s)
  match s.target pa with
  | .control o =>
    let (w, failed, s) := debugRead s .bnm o
    if failed then (⟨0x34, BitVec.ofNat 32 pa, 0⟩, s) else (⟨0, 0, w⟩, s)
  | .pcie x => away (readHost s x 4)
  | .kenrid d x => away (readKenrid s .bnm d x pa 4)
  | _ => match readXbar (markKey s pa false) .bnm pa 4 with
    | (.ok l, s) => (⟨0, 0, bytesWord l⟩, s)
    | (.uncorrectable, s) => (⟨0x35, BitVec.ofNat 32 pa, 0⟩, s)
    | (_, s) => (⟨0x34, BitVec.ofNat 32 pa, 0⟩, s)

/-- DBG_PEEK. -/
def execDbgPeek (src : CmdSrc) (s : State) : Host.Outcome State Fault Refusal :=
  .next (answerRun s src 0x0903 fun s p => dbgPeek s (p.pq 0))

end Sys2Proof.Machine
end

