-- ==== Sys2Proof/Machine/MemCtl.lean ====
section
/-! DEFINITION. What the memory controllers, the initialisation sweep, the patrol scrub, the key cache, the chart
controller and the default target do (10 R311, R320-R337, 09 R289-R296). -/
namespace Sys2Proof.Machine

/-- The line at a physical address as a reader receives it: its bytes, or uncorrectable data. -/
def lineAnswer (s : State) (pa : Nat) : State :=
  s.answers (if s.poison.contains (pa / 64) then .abort else .bytes (s.bytes (pa / 64 * 64) 64))

/-- Whether a master has a route to DRAM: PCIe inbound and the network DMA have none (R306). -/
def dramRoute : Master → Bool
  | .host | .nx => false
  | _ => true

/-- DRAM_LINE_READ (R322, R329): a line that is not initialised returns zeros without a check. -/
def dramLineRead (pa : Nat) (cond : LineCond) (s : State) : State :=
  if pa < s.dramSize then lineAnswer (if s.inited pa then lineOutcome s pa cond false else s) pa else s

/-- DRAM_LINE_READ, of a master that has a route to DRAM. -/
def execDramLineRead (m : Master) (pa : BitVec 48) (cond : LineCond) (s : State) : Host.Outcome State Fault Refusal :=
  .next (if dramRoute m then dramLineRead pa.toNat cond s else s)

/-- DRAM_READ_RETRY (R325): an attempt that finds no uncorrectable beat gives the outcome; the last that does makes
the line uncorrectable. -/
def dramReadRetry (pa : Nat) (attempt : Fin 3) (cond : LineCond) (s : State) : State :=
  if pa < s.dramSize && s.inited pa && (cond != .uncorrectable || attempt.val = 2) then
    lineAnswer (lineOutcome s pa cond false) pa
  else s

/-- DRAM_READ_RETRY. -/
def execDramReadRetry (pa : BitVec 48) (attempt : Fin 3) (cond : LineCond) (s : State) :
    Host.Outcome State Fault Refusal :=
  .next (dramReadRetry pa.toNat attempt cond s)

/-- DRAM_LINE_WRITE: a full line clears poison and writes its seal (R321, R323); it waits for initialisation (R329).
The line reached is its own unless the write went wrong: then it takes the data with the seal of `l.pa`, whose own line
keeps what it held (R321). -/
def execDramLineWrite (m : Master) (l : LineAt) (data : BitVec 512) (s : State) :
    Host.Outcome State Fault Refusal :=
  let a := l.reached.toNat / 64 * 64
  .next (if dramRoute m && a < s.dramSize && s.inited a then
    (writeLine s a (leBytes 64 data.toNat)).putSeal (a / 64) (addrSeal l.pa.toNat) else s)

/-- DRAM_PARTIAL_WRITE: a read-modify-write, absorbed where its read finds the line poisoned or uncorrectable
(R323). -/
def execDramPartialWrite (m : Master) (pa : BitVec 48) (data : List Byte) (cond : LineCond) (s : State) :
    Host.Outcome State Fault Refusal :=
  .next (if dramRoute m && pa.toNat < s.dramSize && s.inited pa.toNat then
    writeLine (lineOutcome s pa.toNat cond false) pa.toNat (data.take (64 - pa.toNat % 64)) else s)

/-- The word an atomic operation stores; a CAS that does not match stores none (R327). -/
def atomResult (op : AtomOp) (old cmp val : Word) : Option Word :=
  match op with
  | .ldadd => some (old + val)
  | .swp => some val
  | .cas => if old = cmp then some val else none

/-- DRAM_ATOMIC: uncorrectable data change nothing (R323, R327). -/
def dramAtomic (op : AtomOp) (pa : Nat) (cmp val : Word) (cond : LineCond) (s : State) : State :=
  if pa < s.dramSize && s.inited pa then
    let s := lineOutcome s pa cond false
    if s.poison.contains (pa / 64) then s.answers .abort
    else
      let old := bytesWord (s.bytes (pa / 4 * 4) 4)
      let s := match atomResult op old cmp val with
        | some w => writeLine s (pa / 4 * 4) (wordBytes w)
        | none => s
      s.answers (.word old)
  else s

/-- DRAM_ATOMIC. -/
def execDramAtomic (m : Master) (op : AtomOp) (pa : BitVec 48) (cmp val : Word) (cond : LineCond) (s : State) :
    Host.Outcome State Fault Refusal :=
  .next (if dramRoute m then dramAtomic op pa.toNat cmp val cond s else s)

/-- KEY_CACHE_FILL: a line of the key table enters the key cache unless its read is uncorrectable (R289). -/
def keyCacheFill (line : Nat) (cond : LineCond) (s : State) : State :=
  if s.ktBase / 64 ≤ line && line * 64 < s.ktBase + s.ktBytes && line * 64 < s.dramSize then
    let s := if s.inited (line * 64) then lineOutcome s (line * 64) cond false else s
    if s.poison.contains line then s
    else { s with kcache := (line :: s.kcache.filter (· != line)).take kcLines }
  else s

/-- KEY_CACHE_FILL. -/
def execKeyCacheFill (line : Nat) (cond : LineCond) (s : State) : Host.Outcome State Fault Refusal :=
  .next (keyCacheFill line cond s)

/-! ### Initialisation (R328-R331) -/

/-- The controllers write zeros, check bits and seals over a range; reservations on it end (R327). -/
def initRange (s : State) (lo hi : Nat) : State :=
  let inR := fun a => lo ≤ a && a < hi
  { s with mem := s.mem.filter fun e => !inR e.1
           poison := s.poison.filter fun l => !inR (l * 64)
           seals := s.seals.filter fun e => !inR (e.1 * 64)
           chans := s.chans.map fun ch => if (ch.resv.map fun l => inR (l * 64)).getD false then { ch with resv := none } else ch }

/-- The watermark passes over chunks that are marked done. -/
def passDone : (fuel : Nat) → State → State
  | 0, s => s
  | f + 1, s =>
    let wm := s.rfld R.smsMinit 18 0
    if wm % 64 = 0 && s.chunks.contains (wm / 64) && 2 ^ 24 * wm < s.dramSize then
      passDone f (s.setFld R.smsMinit 18 0 (wm + 64))
    else s

/-- The watermark has reached the end of installed DRAM: DONE, and event k = 4 of each controller (R330). -/
def noteInitDone (s : State) : State :=
  if s.rbit R.smsMinit 31 || 2 ^ 24 * s.rfld R.smsMinit 18 0 < s.dramSize then s
  else (List.finRange 8).foldl (fun s m => assertEvent s (mcEvent m 4)) (s.setBit R.smsMinit 31 true)

/-- MEMORY_INIT_SWEEP_STEP: the next 16 MiB (R328). It has no occasion before training and when the sweep is done. -/
def sweepStep (s : State) : State :=
  if s.dramSize = 0 || s.rbit R.smsMinit 31 then s
  else
    let s := passDone 4096 s
    let wm := s.rfld R.smsMinit 18 0
    if s.dramSize ≤ 2 ^ 24 * wm then noteInitDone s
    else
      let s := initRange s (2 ^ 24 * wm) (2 ^ 24 * (wm + 1))
      noteInitDone (passDone 4096 (s.setFld R.smsMinit 18 0 (wm + 1)))

/-- MEMORY_INIT_SWEEP_STEP. -/
def execMemoryInitSweepStep (s : State) : Host.Outcome State Fault Refusal := .next (sweepStep s)

/-- CHUNK_INIT_COMPLETE: a 1 GiB chunk ahead of the sweep is initialised and marked done (R329). -/
def chunkInit (chunk : Nat) (s : State) : State :=
  if s.rbit R.smsMinit 31 || s.dramSize ≤ 2 ^ 30 * chunk || s.chunks.contains chunk ||
      chunk * 64 < s.rfld R.smsMinit 18 0 then s
  else
    let s := initRange s (2 ^ 30 * chunk) (2 ^ 30 * (chunk + 1))
    noteInitDone (passDone 4096 { s with chunks := setIns chunk s.chunks })

/-- CHUNK_INIT_COMPLETE. -/
def execChunkInitComplete (chunk : Nat) (s : State) : Host.Outcome State Fault Refusal := .next (chunkInit chunk s)

/-! ### Scrub and DIMM events (R317, R326) -/

/-- PATROL_SCRUB_LINE: the patrol reads an initialised line of controller `m`; the last line of a pass counts it. -/
def patrolScrub (m : Fin 8) (line : Nat) (cond : LineCond) (last : Bool) (s : State) : State :=
  if line * 64 < s.dramSize && mcOf (line * 64) == m && s.inited (line * 64) && s.rfld (R.mcCtl m) 15 8 != 0 then
    let s := lineOutcome s (line * 64) cond true
    if last then assertEvent (s.count (R.mcScrubCnt m)) (mcEvent m 3) else s
  else s

/-- PATROL_SCRUB_LINE. -/
def execPatrolScrubLine (m : Fin 8) (line : Nat) (cond : LineCond) (last : Bool) (s : State) :
    Host.Outcome State Fault Refusal :=
  .next (patrolScrub m line cond last s)

/-- DIMM_CA_PARITY_ERROR: event k = 5, KIND 101b; the command is reissued (R317). -/
def execDimmCaParityError (m : Fin 8) (pa : BitVec 48) (s : State) : Host.Outcome State Fault Refusal :=
  .next (if s.dramSize = 0 then s else assertEvent (setErrAddr s m pa.toNat 5 false) (mcEvent m 5))

/-- DIMM_SENSOR_READ: above the SPD limit event k = 6 is raised (R317). -/
def execDimmSensorRead (m : Fin 8) (hot : Bool) (s : State) : Host.Outcome State Fault Refusal :=
  .next (if hot then assertEvent s (mcEvent m 6) else s)

/-- ECC_COUNTER_CLEAR: a write of any value by the Binnacle clears the counter (R326, R334). -/
def execEccCounterClear (m : Master) (r : EccReg) (s : State) : Host.Outcome State Fault Refusal :=
  .next (ctlWrite s m (match r with
    | .mcEcc k => R.mcEccCnt k
    | .mcSeal k => R.mcSealCnt k
    | .cbc => R.cbcEccCnt) 15 0)

/-! ### Chart memory (R292-R296, R332-R337) -/

/-- The enabled bytes of a row as runs within its words: address and bytes. -/
def rowRuns (a : Nat) (data : BitVec 256) (be : BitVec 32) : List (Nat × List Byte) :=
  (List.range 8).flatMap fun w =>
    let en := fun i => be.getLsbD (4 * w + i)
    let b := fun i => (data >>> (8 * (4 * w + i))).truncate 8
    if en 0 && en 1 && en 2 && en 3 then [(a + 4 * w, [b 0, b 1, b 2, b 3])]
    else (List.range 4).filterMap fun i => if en i then some (a + 4 * w + i, [b i]) else none

/-- A row access of a bank by a master that may make it. -/
def rowAccess (s : State) (bank : Fin 33) (row : Nat) (wdata : Option (BitVec 256)) (be : BitVec 32) (word : Fin 8)
    (cond : LineCond) : State :=
  let a := bankBase bank + row * 32
  match wdata with
  | none =>
    let s := chartOutcome s bank (a + 4 * word.val) cond
    s.answers (if s.anyPoison a 32 then .abort else .bytes (s.bytes a 32))
  | some d =>
    let part := (be >>> (4 * word.val)).truncate 4
    let s := if part = (0 : BitVec 4) ∨ part = 15 then s else chartOutcome s bank (a + 4 * word.val) cond
    (rowRuns a d be).foldl (fun s r => writeLine s r.1 r.2) s

/-- CHART_ACCESS: the ownership rule, then one row access (R292-R296, R332, R334). -/
def chartAccess (m : Master) (bank : Fin 33) (row : Nat) (wdata : Option (BitVec 256)) (be : BitVec 32) (word : Fin 8)
    (cond : LineCond) (s : State) : State :=
  match s.owns bank (ownerCode m) with
  | .pass => rowAccess s bank row wdata be word cond
  | .wait => s
  | .refuse =>
    (denyAccess s m bank (bankBase bank + row * 32) wdata.isSome).answers .abort

/-- CHART_ACCESS. -/
def execChartAccess (m : Master) (bank : Fin 33) (row : BitVec 16) (wdata : Option (BitVec 256)) (be : BitVec 32)
    (word : Fin 8) (cond : LineCond) (s : State) : Host.Outcome State Fault Refusal :=
  .next (chartAccess m bank row.toNat wdata be word cond s)

/-- CHART_SCRUB_ROW: the scrubber reads a row (R334, R335). -/
def execChartScrubRow (bank : Fin 33) (row : BitVec 16) (word : Fin 8) (cond : LineCond) (s : State) :
    Host.Outcome State Fault Refusal :=
  .next (chartOutcome s bank (bankBase bank + row.toNat * 32 + 4 * word.val) cond)

/-- CBN_OWNER_WRITE (R293, R294). -/
def execCbnOwnerWrite (m : Master) (bank : Fin 32) (v : Word) (s : State) : Host.Outcome State Fault Refusal :=
  .next (ctlWrite s m (R.cbOwner bank) 15 v)

/-- CHART_HANDOVER_EFFECT: a handover takes effect; a wipe starts then (R294). -/
def handoverEffect (bank : Fin 32) (s : State) : State :=
  match s.handover.find? (·.1 == bank.val) with
  | none => s
  | some (_, _, wipe) =>
    let s := { s with handover := s.handover.filter (·.1 != bank.val)
                      wiping := if wipe then setIns bank.val s.wiping else s.wiping }
    endBankWaits s bank.val false

/-- CHART_HANDOVER_EFFECT. -/
def execChartHandoverEffect (bank : Fin 32) (s : State) : Host.Outcome State Fault Refusal := .next (handoverEffect bank s)

/-- CHART_WIPE_COMPLETE: the bank holds zeros and valid check bits (R294). -/
def wipeComplete (bank : Fin 32) (s : State) : State :=
  if s.wiping.contains bank.val then
    let s := zeroBank s ⟨bank.val, by omega⟩
    endBankWaits { s with wiping := setDel bank.val s.wiping } bank.val true
  else s

/-- CHART_WIPE_COMPLETE. -/
def execChartWipeComplete (bank : Fin 32) (s : State) : Host.Outcome State Fault Refusal := .next (wipeComplete bank s)

/-- SEALED_BANK_WIPE_COMPLETE (R296). -/
def execSealedBankWipeComplete (s : State) : Host.Outcome State Fault Refusal :=
  .next (if s.wiping.contains 32 then { zeroBank s 32 with wiping := setDel 32 s.wiping } else s)

/-- DEFAULT_TARGET_ANSWER: an error response, EV511 and the XB_DEF registers (R311). -/
def execDefaultTargetAnswer (m : Master) (pa : BitVec 48) (wr : Bool) (s : State) : Host.Outcome State Fault Refusal :=
  .next (if s.target pa.toNat = .dflt then (defaultAnswer s m pa.toNat wr).answers .abort else s)

end Sys2Proof.Machine
end

