-- ==== Sys2Proof/Machine/Reset.lean ====
section
/-! DEFINITION. Resets and the start (15 R469-R489): requests, the last fix, what each level clears, and the start-up
sequence. -/
namespace Sys2Proof.Machine

/-! ### Requests (R472, R473) -/

/-- RST_CAUSE.LEVEL of a level, which also orders them from the highest. -/
def Level.code : Level → Nat
  | .power => 0 | .system => 1 | .core => 2

/-- A reset request: it joins one that has not been released; the highest level and every cause bit stand (R473). An error of the retained store in a hold
lets the start that follows load the settings image (R483). -/
def requestReset (s : State) (lvl : Level) (cause : Nat) (crit : Nat := 0) : State :=
  if s.rst.hold.isSome then
    let s := s.modReg R.rstCause fun w =>
      let w := wbit w cause true
      if wfld w 23 20 = 0 then wset w 23 20 crit else w
    if crit = 6 then { s with rst := { s.rst with load := true } } else s
  else
    let req := match s.rst.req with
      | some r => ⟨if lvl.code < r.level.code then lvl else r.level,
          if fld r.bits cause cause = 1 then r.bits else r.bits + 2 ^ cause, if r.crit = 0 then crit else r.crit,
          r.lost || crit == 6⟩
      | none => ⟨lvl, 2 ^ cause, crit, crit == 6⟩
    { s with rst := { s.rst with req := some req } }

/-- The level that PERST# and hot reset request: a system reset in recovery mode (R408, R488). -/
def pcieLevel (s : State) : Level := if s.rbit R.bnmLcs 4 || !s.rbit R.pxCfg 0 then .system else .core

/-! ### The last fix (R475) -/

/-- Reads in flight return to no requester (R338): the registers they would have reached stand. -/
def Channel.dropLoads (ch : Channel) : Channel :=
  let none_ := fun (sl : Slot) => { sl with snap := { sl.snap with loads := [] } }
  { ch with loads := [], remotes := [], slots := ch.slots.map none_, group := ch.group.map none_ }

/-- PC and WM of a LAST_FIX record: the address of the head and its W0 where a head exists (R475). -/
def Channel.fixAt (ch : Channel) : Word × Word :=
  match ch.head with
  | some h => (h.pc, BitVec.ofNat 32 ch.headW0)
  | none => (ch.pc, ch.wm)

/-- The channel stops dispatch: what it has in flight goes no further, and its registers stand (R471, R475). -/
def Channel.stopDispatch (ch : Channel) : Channel :=
  { ch.dropLoads with slots := [], group := none, drains := [], heldX := none, wait := .none }

/-- Every channel stops dispatch, and its Ledger instruction stops at its last boundary; one that is not stopped leaves a
LAST_FIX record of its head's address and W0, and of its CSW as it stands. No drain is awaited (R475). -/
def fixChannel (s : State) (c : Chan) : State :=
  let s := stopLedger s c
  let ch := s.chan c
  let t := s.modChan c Channel.stopDispatch
  if ch.st = .stopped then t else formRecord t 1 3 (0x200 + c.val) [ch.fixAt.1, ch.csw, ch.fixAt.2]

/-- The waiting records, the pending count and the hold queue are written (R454); the holder bits that the reset clears
are those of `keep`'s zeros. A freeze that goes on stays one freeze, in which a loss raises EV500 once (R500). -/
def closeLog (s : State) (keep : Word) : State :=
  let ws := s.log.waiting
  let s := ws.foldl acceptRec { s with log := { s.log with waiting := [] } }
  let seen := s.log.lossSeen && (s.reg R.lbFrzMask &&& keep) != 0
  let s := (flushHold s).modReg R.lbFrzMask (· &&& keep)
  { s with log := { s.log with lossSeen := seen } }

/-- The last fix. -/
def lastFix (s : State) (keep : Word) : State := closeLog (channels.foldl fixChannel s) keep

/-! ### What a reset clears (R469, R470) -/

/-- The registers of one level: POR values, but for the bits that the level keeps or restores. -/
def resetRegs (keep : RegDesc → Word) (l : List (Nat × Word)) : List (Nat × Word) :=
  l.filterMap fun (o, w) => match regDesc o with
    | some d =>
      let w := merge (keep d) d.por w
      if w = d.por then none else some (o, w)
    | none => none

/-- A channel after a system or power-on reset, its undefined registers taken from free values (R40, R471). -/
def freeChannel (n : Nat) (mask : Word) (weight : Nat) : Channel :=
  { Channel.reset with
      g := Vector.ofFn fun i => Config.freeBits 32 (n + i.val)
      d := Vector.ofFn fun i => Config.freeBits 128 (n + 16 + i.val)
      v := Vector.ofFn fun i => Config.freeBits 8192 (n + 24 + i.val)
      m := Vector.ofFn fun i => Config.freeBits 256 (n + 40 + i.val)
      pmask := mask
      weight := weight }

/-- Free values one channel takes. -/
def freePerChan : Nat := 48

/-- Every channel after a reset: `g` tells whether the G registers stand (R471). PMASK and WEIGHT are restored. The
Binnacle core runs on through a core reset and is cleared by any other (R371, R469). -/
def resetChannels (s : State) (g : Bool) : State :=
  { s with
      chans := s.chans.mapFinIdx fun i ch _ =>
        let x := freeChannel (s.free + freePerChan * i) ch.pmask ch.weight
        if i = 16 then (if g then ch else .reset) else if g then { x with g := ch.g } else x
      free := s.free + freePerChan * 16 }

/-- The compute domain: pipes, Ledger Engine, key cache (R469). -/
def resetCompute (s : State) (g : Bool) : State :=
  { resetChannels s g with
      pipes := .replicate 32 .reset, lge := .reset, smsSeq := .reset, lgeSeq := .reset, kcache := [] }

/-- Write RST_CAUSE whole. -/
def writeCause (s : State) (r : ResetReq) (lvl : Level) : State :=
  s.setReg R.rstCause (BitVec.ofNat 32
    (r.bits + lvl.code * 65536 + r.crit * 0x100000 + s.rfld R.rstStat 7 4 * 0x1000000))

/-- The RESET record (R444). -/
def resetRecord (s : State) : State := formRecord s 9 1 0x211 [s.reg R.rstCause]

/-- Load the patch RAM and the comparators from the copy in the Binnacle's SRAM (R393). -/
def loadPatch (s : State) : State :=
  { s with comps := (patchWords s.bnm.patch).1, patchRam := (patchWords s.bnm.patch).2 }

/-- Every bank that waits for a handover or a wipe ends it (R476). -/
def finishWipes (s : State) : State :=
  (List.finRange 32).foldl (fun s b => wipeComplete b (handoverEffect b s)) s

/-- Whether a command waits for channels to halt. -/
def waitsHalt : Option Awaits → Bool
  | some (.halts _) => true
  | _ => false

/-- A core reset, from the last fix to the release (R481, R482): class 01xxh commands that run end with 0061h (R369). -/
def applyCore (s : State) (r : ResetReq) : State :=
  let s := takeTimers (writeCause (lastFix s 0xFFFF0000) r .core)
  let s := finishWipes (resetCompute { s with regs := resetRegs (·.c) s.regs } true)
  let s : State :=
    { s with
        rst := { s.rst with req := none, cwdg := 0, cwdgGo := false, lockup := none }
        sx := { s.sx with all := false } }
  let s := loadPatch (resetRecord s)
  endWhere s fun _ x => if x.pkt.cls == 1 || waitsHalt x.waits then some ⟨0x61, 0, 0⟩ else none

/-- The bytes of DRAM among the memory's entries: everything but the chart banks and the sealed bank, which a reset
fills with zeros (R337). -/
def dramOnly (l : List (Nat × Byte)) : List (Nat × Byte) := l.filter fun e => e.1 < 0x800000000000

/-- A slot that FW_WRITE is writing is left invalid: its valid bit was cleared first (R391, R396, R476). -/
def spoilFwWrite (s : State) : State :=
  sources.foldl (fun s src => match s.runningHere src with
    | some r =>
      if r.pkt.opcode = 0x0601 ∧ r.final.isNone then
        changeDesc s fun d => d.setValid (bit r.pkt.p0 0) (!runsB s (bit r.pkt.p0 0)) false
      else s
    | none => s) s

/-- A system reset is applied (R469): it is held until START_UP releases it. -/
def applySystem (s : State) (r : ResetReq) : State :=
  let s := takeTimers (spoilFwWrite (writeCause (lastFix s 0) r .system))
  let s := resetCompute { s with regs := resetRegs (fun d => d.k ||| d.t) s.regs } false
  let b := s.bnm
  let s := if b.prop.isSome then s.setFld R.xbgStat 19 16 8 else s
  { s with
      mem := dramOnly s.mem
      cpoison := []
      wiping := []
      handover := []
      patchRam := []
      comps := []
      log := { s.log with rsel := .replicate 32 0, lastOcc := 2 ^ 64 }
      cmds := .reset
      bnm := { Bnm.reset with
        rxLast := b.rxLast, txNext := b.txNext, rxCeil := b.rxCeil, txCeil := b.txCeil
        freshFw := b.freshFw, freshP := b.freshP, triedFw := b.triedFw, triedP := b.triedP
        aborted := b.aborted ++ b.prop.toList.map ((·, true))
        sensors := { Sensors.reset with setpoint := b.sensors.setpoint, goal := b.sensors.setpoint }
        lastSet := b.lastSet, role := b.role, subsys := b.subsys }
      rst := { Rst.reset with
        hold := some .system, therm := s.rst.therm, rails := s.rst.rails, railWait := s.rst.railWait
        load := s.rst.load || r.lost, ddrLost := s.rst.ddrLost }
      sx := { s.sx with asker := .replicate 17 0, bnmAsker := 0, all := false, pend := [], feeding := none }
      ifc := { Ifc.reset with gpio := s.ifc.gpio }
      time := 0 }

/-- A power-on reset abandons any reset in progress and clears everything but the fuses and the NOR (R469, R473). -/
def applyPower (s : State) (cause : Nat) : State :=
  let s := spoilFwWrite s
  let b := s.bnm
  { State.reset with
      chans := s.chans.mapFinIdx fun i _ _ => if i = 16 then .reset else freeChannel (s.free + freePerChan * i) 0 4
      free := s.free + freePerChan * 16
      pending := s.pending
      regs := store regPor [] R.rstCause (BitVec.ofNat 32 (2 ^ cause))
      host := s.host
      log := .reset (BitVec.ofNat 32 (2 ^ cause))
      nor := s.nor
      fuses := s.fuses
      bnm := { Bnm.reset with freshFw := b.freshFw, freshP := b.freshP, triedFw := b.triedFw, triedP := b.triedP }
      ifc := { Ifc.reset with gpio := s.ifc.gpio }
      ticks := s.ticks
      answer := s.answer }

/-- POWER_ON_RESET: POR_N, or a brown-out of VDD_AON (R472). -/
def execPowerOnReset (brownOut : Bool) (s : State) : Host.Outcome State Fault Refusal :=
  .next (applyPower s brownOut.toNat)

/-- BROWN_OUT (R472, R477, R479): VDD_AON resets at once as power-on does, another rail requests a system reset. -/
def execBrownOut (r : Rail) (s : State) : Host.Outcome State Fault Refusal :=
  .next (if r = .aon then
      let t := applyPower s 1
      { t with rst := { t.rst with rails := [.aon] } }
    else
      let s := requestReset s .system 2
      { s with rst := { s.rst with rails := r :: s.rst.rails.filter (· != r), ddrLost := s.rst.ddrLost || r == .ddr } })

/-- SYSRST_N low for at least 1 µs. -/
def execSysrstN (s : State) : Host.Outcome State Fault Refusal := .next (requestReset s .system 3)

/-- CRITICAL_ERROR: the coding of RST_CAUSE.CRIT. -/
def critCode : CritSrc → Nat
  | .patchRam => 1 | .regionMap _ => 2 | .keyCache _ => 3 | .ledgerSlot => 4 | .bnmSram => 5 | .retained _ => 6

/-- The core whose lookup has found the error: its access is not made and raises nothing, and it issues nothing further
(R285, R289); while a reset is held none looks anything up, and the Binnacle
core has no region map and a key of 0. -/
def critMute (s : State) (e : CritSrc) : State :=
  let mute := fun (c : Chan) => if s.rst.hold.isSome || c == bnmCore then s else s.modChan c fun ch => { ch with mute := true }
  match e with
  | .regionMap c => mute c
  | .keyCache (some c) => mute c
  | _ => s

/-- Whether the retained store was read without error at a release: its CRC-32 is that of its contents (R483, R520). -/
def storeIntact : CritSrc → Bool
  | .retained (some (l, crc)) => crc == crc32 l
  | _ => false

/-- CRITICAL_ERROR (R472). -/
def execCriticalError (e : CritSrc) (s : State) : Host.Outcome State Fault Refusal :=
  .next (if storeIntact e then s else if critCode e ≤ 4 then requestReset (critMute s e) .core 11 (critCode e) else requestReset s .system 12 (critCode e))

/-- START_TIMEOUT: a start that is not READY after 5 s, and is not in recovery mode (R487). -/
def startTimeout (s : State) : State :=
  if s.rst.hold.isNone && s.rst.stage < 8 && !s.rbit R.bnmLcs 4 then requestReset s .system 14 else s

/-- START_TIMEOUT. -/
def execStartTimeout (s : State) : Host.Outcome State Fault Refusal := .next (startTimeout s)

/-- COMPUTE_WATCHDOG_EXPIRY: it counts while EN = 1, after the first CH_START, and while neither a channel nor ALL is halted
(R461, R463, R474). -/
def State.cwdgCounts (s : State) : Bool :=
  s.rst.hold.isNone && s.rbit R.wdgCfg 16 && s.rst.cwdgGo && !s.sx.all && channels.all fun c => (s.chan c).st != .halted

/-- COMPUTE_WATCHDOG_EXPIRY. -/
def computeWatchdog (s : State) : State :=
  if s.cwdgCounts then requestReset { s with rst := { s.rst with cwdg := 0 } } .core 8 else s

/-- COMPUTE_WATCHDOG_EXPIRY. -/
def execComputeWatchdogExpiry (s : State) : Host.Outcome State Fault Refusal := .next (computeWatchdog s)

/-- LOCKUP_DELAY_EXPIRY: a core reset, unless every locked channel has been stopped (R277). -/
def lockupDelayExpiry (s : State) : State :=
  if s.rst.lockup.isSome && s.reg R.evcLockStat != 0 then
    requestReset { s with rst := { s.rst with lockup := none } } .core 9 else s

/-- LOCKUP_DELAY_EXPIRY. -/
def execLockupDelayExpiry (s : State) : Host.Outcome State Fault Refusal := .next (lockupDelayExpiry s)

/-- DEV_RESET_BEGIN: the reset that DEV_RESET asked for is requested, 10 µs after its status (R359). -/
def execDevResetBegin (_ : CmdSrc) (s : State) : Host.Outcome State Fault Refusal :=
  .next (match s.cmds.asked with
    | some sys =>
      let s := { s with cmds := { s.cmds with asked := none } }
      requestReset s (if sys then .system else .core) 6
    | none => s)

/-- WDG_KICK_WRITE (R474). -/
def execWdgKickWrite (m : Master) (v : Word) (s : State) : Host.Outcome State Fault Refusal :=
  .next (ctlWrite s m R.wdgKick 15 v)

/-- WDG_CFG_WRITE (R474). -/
def execWdgCfgWrite (m : Master) (v : Word) (s : State) : Host.Outcome State Fault Refusal :=
  .next (ctlWrite s m R.wdgCfg 15 v)

/-- SYSTEM_RESET: a requested system reset is applied after the last fix. -/
def systemReset (s : State) : State :=
  match s.rst.req with
  | some r => if r.level = .system then applySystem s r else s
  | none => s

/-- SYSTEM_RESET. -/
def execSystemReset (s : State) : Host.Outcome State Fault Refusal := .next (systemReset s)

/-- CORE_RESET: a requested core reset is applied and released. -/
def coreReset (s : State) : State :=
  match s.rst.req with
  | some r => if r.level = .core then applyCore s r else s
  | none => s

/-- CORE_RESET. -/
def execCoreReset (s : State) : Host.Outcome State Fault Refusal := .next (coreReset s)

/-! ### The start (R480) -/

/-- RST_STAT.STAGE. -/
def setStage (s : State) (k : Nat) : State :=
  { s.setFld R.rstStat 7 4 k with rst := { s.rst with stage := k } }

/-- Recovery mode (R488): the start goes no further. -/
def enterRecovery (s : State) : State := (s.setBit R.rstStat 1 true).setBit R.bnmLcs 4 true

/-- Proposals that a reset or a tamper ended are logged (R302). -/
def logAborted (s : State) : State :=
  let s' := s.bnm.aborted.foldl
    (fun s p => formRecord s 4 1 (partyOrigin p.1.party) [BitVec.ofNat 32 p.1.item, p.1.nonce, 8, 0]) s
  { s' with bnm := { s'.bnm with aborted := [] } }

/-- What a lost retained store leaves until the settings image is loaded: every T field at its power-on value, FAILCNT and
the memory-initialisation state at zero, and the factory role, subsystem IDs and ceilings (R483, R485). -/
def loseStore (s : State) : State :=
  let s := ({ s with regs := resetRegs (fun d => ~~~d.t) s.regs } : State).setFld R.rstStat 3 2 0
  { s with
      chans := s.chans.mapFinIdx fun i ch _ => if i = 16 then ch else { ch with pmask := 0, weight := 4 }
      bnm := { s.bnm with role := Bnm.reset.role, subsys := Bnm.reset.subsys, rxLast := 0, txNext := 0, rxCeil := 0, txCeil := 0 }
      rst := { s.rst with ddrLost := true } }

/-- Step 1 (R480): the Binnacle core runs its boot ROM, MEAS0, LODESTAR, and the RESET record after a system reset.
EV505 of a proposal that the reset ended is raised here, and every one ended with outcome 8 is logged (R302). -/
def startRom (s : State) (lodestar : Bool) : State :=
  let sys := s.rst.hold = some .system
  let s := if s.rst.load then loseStore s else s
  let s := setStage { s with rst := { s.rst with hold := none, rails := [], since := 0, lodestar := lodestar } } 1
  let s := s.modChan bnmCore fun ch => { ch with st := .running }
  let s := extendMeas s 0 (romBytes 0 0x10000)
  let s := if sys then resetRecord s else s
  let s := if s.bnm.aborted.any (·.2) then assertEvent s 505 else s
  logAborted s

/-- Whether a slot's image verifies: what R389 says of it, but for the images the device was delivered with (log 5). -/
def verifySlot (s : State) (patch slotB : Bool) : Verified :=
  if !(bootDesc s).valid patch slotB then .fail 1
  else if isFactory s patch slotB then
    (if s.fuses.lcs = 0 ∨ s.fuses.lcs = 3 then .fail 2
     else if 0 < (if patch then s.fuses.svnPatch else s.fuses.svnFw) then .fail 3
     else if patch && !patchOk (Config.factoryPlain patch) then .fail 6
     else .ok (Config.factoryPlain patch))
  else verifyImage s patch (slotBytes s patch slotB)

/-- The security version of a slot's image; a delivered image has version 0 (log 5). -/
def imgSvn (s : State) (patch slotB : Bool) : Nat :=
  if isFactory s patch slotB then 0 else leAt (slotBytes s patch slotB) 12 4

/-- The active slot of a kind, or the other when it does not verify: whether it is B, and the plaintext (R393). -/
def pickSlot (s : State) (patch : Bool) : Option (Bool × List Byte) :=
  let active := if patch then (bootDesc s).pB else (bootDesc s).fwB
  match verifySlot s patch active with
  | .ok l => some (active, l)
  | .fail _ => match verifySlot s patch (!active) with
    | .ok l => some (!active, l)
    | .fail _ => none

/-- A newly activated slot whose first start failed gives way to the other slot (R392); the first start is noted. -/
def fallBack (s : State) (patch : Bool) : State :=
  let d := bootDesc s
  let active := if patch then d.pB else d.fwB
  let fresh := if patch then s.bnm.freshP else s.bnm.freshFw
  let tried := if patch then s.bnm.triedP else s.bnm.triedFw
  let put := fun (s : State) (f t : Bool) =>
    { s with bnm := if patch then { s.bnm with freshP := f, triedP := t } else { s.bnm with freshFw := f, triedFw := t } }
  if fresh && tried && d.valid patch (!active) then
    put (changeDesc s fun d =>
      let d := d.setValid patch active false
      if patch then { d with pB := !active } else { d with fwB := !active }) false false
  else if fresh then put s true true
  else s

/-- BNM_LCS.FWSLOT and PSLOT show the active slots of the descriptor in force (R399). -/
def showSlots (s : State) : State :=
  (s.setBit R.bnmLcs 5 (bootDesc s).fwB).setBit R.bnmLcs 6 (bootDesc s).pB

/-- Step 2: FAILCNT, the boot descriptors, the PCI Express link's first answers (R480, R487). The result tells whether the
start goes on. -/
def startCount (s : State) : Bool × State :=
  let s := setStage s 2
  let s := { s with ifc := { s.ifc with cfgMode := 1 } }
  if s.rfld R.rstStat 3 2 = 3 then (false, enterRecovery (showSlots s))
  else (true, showSlots (fallBack (fallBack (s.setFld R.rstStat 3 2 (s.rfld R.rstStat 3 2 + 1)) false) true))

/-- Step 3: the active firmware is verified, measured and started; without one the device enters recovery mode. -/
def startFirmware (s : State) : Bool × State :=
  let s := setStage s 3
  match pickSlot s false with
  | none => (false, enterRecovery s)
  | some (b, plain) =>
    let l := slotBytes s false b
    let s := extendMeas (s.setBit R.bnmLcs 5 b) 1 (l.take 256 ++ plain)
    (true, { s with bnm := { s.bnm with fwVer := imgVersion l } })

/-- The header with LENGTH 0 that stands for an empty patch set: 256 bytes, of which the manual gives bytes 16-19 (R379,
R388). -/
def emptyPatchHeader : List Byte :=
  (List.range 256).map fun i => if 16 ≤ i && i < 20 then 0 else Config.emptyHeader i

/-- The patch set of step 4 (R393): the active slot, the other, or none at all. -/
def startPatch (s : State) : State :=
  match pickSlot s true with
  | none => formRecord (extendMeas (s.setBit R.bnmLcs 3 true) 2 emptyPatchHeader) 5 3 0x210 []
  | some (b, plain) =>
    let l := slotBytes s true b
    let s := extendMeas (s.setBit R.bnmLcs 6 b) 2 (l.take 256 ++ plain)
    { s with bnm := { s.bnm with patch := plain, patchVer := imgVersion l } }

/-- The settings of a record are loaded (R485). -/
def loadSettings (s : State) (x : Settings) : State :=
  let s := x.regs.foldl (fun s e => match regDesc e.1 with
    | some d => s.modReg e.1 fun w => merge d.t w e.2
    | none => s) s
  { s.setReg R.xbgNonce x.nonce with
      chans := s.chans.mapFinIdx fun i ch _ =>
        { ch with pmask := (x.masks.getD i (0, 4)).1, weight := (x.masks.getD i (0, 4)).2 }
      bnm := { s.bnm with role := x.role, subsys := x.subsys, rxCeil := x.rxCeil, txCeil := x.txCeil,
                          rxLast := x.rxCeil, txNext := x.txCeil } }

/-- The 8 bytes measured when factory defaults apply (R379). -/
def factoryTag : List Byte := [0x46, 0x41, 0x43, 0x54, 0x4F, 0x52, 0x59, 0]

/-- The settings image as loaded, which MEAS3 takes: its header and the store (R379, R484). -/
def settingsBytes (r : SettingsRec) : List Byte :=
  r.head ++ wordBytes r.crc ++ List.replicate 44 0 ++ r.store

/-- The settings of step 4: loaded from the newest record after power-on, and measured. -/
def startSettings (s : State) : State :=
  let r := newest s.nor.settings
  let s := if s.rst.load then (match r with | some r => loadSettings s r.val | none => s) else s
  let s := { s with rst := { s.rst with load := false } }
  let s := extendMeas s 3 ((r.map settingsBytes).getD factoryTag)
  extendMeas s 4 (wordBytes (wset (s.reg R.bnmLcs) 2 0 s.fuses.lcs))

/-- Step 4: patch set, settings, the VDD_CORE target; configuration requests complete from here on, and a nonzero
heartbeat period starts (R427, R480). -/
def startRestore (s : State) : State :=
  let s := startSettings (startPatch (setStage s 4))
  let led := s.rst.lodestar || s.bnm.role
  { s with
      bnm := { s.bnm with sensors := { s.bnm.sensors with goal := s.rfld R.bnmVctl 9 0 } }
      ifc := { s.ifc with cfgMode := 2, hbCnt := 0, casc := { s.ifc.casc with lodestar := led } } }

/-- START_UP: the release of a power-on or system reset, and the start as far as DDR5 training (R480). A thermal trip
holds the reset (R377), and so does a brown-out until 1 ms after its rail is good again (R479). -/
def startUp (lodestar : Bool) (s : State) : State :=
  if s.rst.hold.isNone || s.rst.therm || !s.rst.rails.isEmpty || s.ticks < s.rst.railWait then s
  else match startCount (startRom s lodestar) with
    | (false, s) => s
    | (true, s) => match startFirmware s with
      | (false, s) => s
      | (true, s) => setStage (startRestore s) 5

/-- START_UP. -/
def execStartUp (lodestar : Bool) (s : State) : Host.Outcome State Fault Refusal := .next (startUp lodestar s)

/-- A range of memory set to one byte, in the canonical form. -/
def fillMem (s : State) (lo n : Nat) (b : Byte) : State :=
  let below := s.mem.filter fun e => e.1 < lo
  let above := s.mem.filter fun e => lo + n ≤ e.1
  { s with mem := below ++ (if b = 0 then [] else (List.range n).map fun i => (lo + i, b)) ++ above }

/-- The key table is written, and the chunks it lies in are initialised ahead of the sweep (R291, R331). -/
def writeKeyTable (s : State) : State :=
  let n := s.ktBytes
  let s := fillMem s s.ktBase n (BitVec.ofNat 8 (s.rfld R.kcCfg 7 0))
  if n = 0 then s
  else
    let first := s.ktBase / 2 ^ 30
    let last := (s.ktBase + n - 1) / 2 ^ 30
    { s with chunks := (List.range (last + 1 - first)).foldl (fun l i => setIns (first + i) l) s.chunks }

/-- Step 6: DRAM is reached. Where its contents are lost, the key table is written and the sweep starts at address 0;
otherwise it resumes (R291, R331, R479). -/
def startMemory (s : State) (cfg : Word) : State :=
  let s := (List.range 8).foldl (fun s m => s.setReg (R.mcCfg m) (cfg &&& 0x3FF01FF)) (setStage s 6)
  if s.rst.ddrLost then
    writeKeyTable { s.setReg R.smsMinit 0 with
      mem := s.mem.filter fun e => 0x800000000000 ≤ e.1
      poison := [], seals := [], chunks := []
      rst := { s.rst with ddrLost := false } }
  else s

/-- Whether a configuration, in the form of MCm_CFG, is one of the supported ones: two DIMMs at no more than DDR5-5200, a
coded density, 1 to 512 GiB a channel (R316). -/
def dimmOk (cfg : Word) : Bool :=
  wfld cfg 2 0 ≤ (if bit cfg 3 then 1 else 3) && wfld cfg 8 7 ≤ 2 && 1 ≤ wfld cfg 25 16 && wfld cfg 25 16 ≤ 512

/-- Whether the eight channels hold the same supported DIMMs (R316). -/
def dimmsOk (cfgs : Vector Word 8) : Bool := dimmOk cfgs[0] && cfgs.toList.all (· == cfgs[0])

/-- The words of MEAS5 (R379). -/
def hardwareWords (s : State) : List Word :=
  (List.range 8).map (fun m => s.reg (R.mcCfg m)) ++ (List.range 33).map (fun n => peekWord s .bnm (R.cbcRepair n)) ++
  [ofBool s.ifc.casc.lodestar]

/-- An image that reaches READY raises its security version, and its slot is no longer new (R392). -/
def reachReady (s : State) : State :=
  let fw := imgSvn s false (runsB s false)
  let p := if s.rbit R.bnmLcs 3 then 0 else imgSvn s true (runsB s true)
  let s := (s.setBit R.rstStat 0 true).setFld R.rstStat 3 2 0
  { s with
      fuses := { s.fuses with svnFw := max s.fuses.svnFw fw, svnPatch := max s.fuses.svnPatch p }
      bnm := { s.bnm with freshFw := false, freshP := false, triedFw := false, triedP := false } }

/-- TRAINING_COMPLETE: steps 6 to 8 (R480), from the configuration that each controller found. An unsupported one is the
memory-configuration failure: the start stays at step 5, and its timeout reports that (R316, R487, log 56). -/
def trainingComplete (cfgs : Vector Word 8) (s : State) : State :=
  if s.rst.hold.isSome || s.rst.stage != 5 || !dimmsOk cfgs then s
  else
    let s := loadPatch (setStage (startMemory s cfgs[0]) 7)
    let s := extendMeas s 5 ((hardwareWords s).flatMap wordBytes)
    reachReady (setStage s 8)

/-- TRAINING_COMPLETE. -/
def execTrainingComplete (cfgs : Vector Word 8) (s : State) : Host.Outcome State Fault Refusal :=
  .next (trainingComplete cfgs s)

end Sys2Proof.Machine
end

