-- ==== Sys2Proof/Machine/BnmRows.lean ====
section
/-! DEFINITION. The Binnacle's own steps: sensors, voltage and temperature, its watchdog, tamper, and the SPDM responder
(12 R372-R381, R395-R398). -/
namespace Sys2Proof.Machine

/-! ### Sensors (R372, R373, R377) -/

/-- Change the sensors' state. -/
def State.modSensors (s : State) (f : Sensors → Sensors) : State :=
  { s with bnm := { s.bnm with sensors := f s.bnm.sensors } }

/-- The hottest sensor, in 1/16 °C. -/
def hottest (l : List (BitVec 16)) : Int :=
  match l with
  | [] => 0
  | t :: ts => ts.foldl (fun m x => max m x.toInt) t.toInt

/-- A threshold in °C, as sensor readings give it. -/
def sixteenths (n : Nat) : Int := 16 * (n : Int)

/-- EV502 once at WARN, and again only after the reading has fallen 5 °C below it (R377). -/
def checkWarning (s : State) (hot : Int) : State :=
  let warn := s.rfld R.bnmTherm 7 0
  if sixteenths warn ≤ hot then
    (if s.bnm.sensors.warned then s else assertEvent (s.modSensors fun x => { x with warned := true }) 502)
  else if hot ≤ sixteenths warn - 80 then s.modSensors fun x => { x with warned := false }
  else s

/-- EV503 and throttling at THROT; raising begins 5 °C below it (R377). -/
def checkThrottle (s : State) (hot : Int) : State :=
  let lim := s.rfld R.bnmTherm 15 8
  let x := s.bnm.sensors
  if sixteenths lim ≤ hot then
    (if x.throttle && !x.rising then s
     else assertEvent (s.modSensors fun x => { x with throttle := true, rising := false }) 503)
  else if x.throttle && decide (hot ≤ sixteenths lim - 80) then s.modSensors fun x => { x with rising := true }
  else s

/-- The monitor of a rail, and the mV above which the rail is good (R477, R511). -/
def railGood (rails : List (BitVec 16)) : Rail → Bool
  | .core => 700 < (rails.getD 0 0).toNat
  | .fab => 760 < (rails.getD 1 0).toNat
  | .sram => 810 < (rails.getD 2 0).toNat
  | .ddr => 1050 < (rails.getD 3 0).toNat
  | .io18 => 1710 < (rails.getD 4 0).toNat
  | .io33 => 3140 < (rails.getD 5 0).toNat
  | .aon => 760 < (rails.getD 6 0).toNat

/-- Rails in a brown-out that read good again end it, 1 ms after the last (R479, log 67). -/
def railsBack (s : State) (rails : List (BitVec 16)) : State :=
  let left := s.rst.rails.filter fun r => !railGood rails r
  if s.rst.rails.isEmpty then s
  else { s with rst := { s.rst with rails := left, railWait := if left.isEmpty then s.ticks + msTicks else s.rst.railWait } }

/-- SENSOR_SAMPLE: while a thermal trip holds the reset, the readings only end holds (R377, R479). -/
def sensorSample (temps rails : List (BitVec 16)) (power : Word) (s : State) : State :=
  let hot := hottest temps
  let s := railsBack s rails
  if s.rst.hold.isSome then
    (if hot < sixteenths 90 then { s with rst := { s.rst with therm := false } } else s)
  else
    let s := s.modSensors fun x => { x with temps := temps, rails := rails, power := power, time := s.time.toNat }
    checkThrottle (checkWarning s hot) hot

/-- SENSOR_SAMPLE. -/
def execSensorSample (temps rails : List (BitVec 16)) (power : Word) (s : State) : Host.Outcome State Fault Refusal :=
  .next (sensorSample temps rails power s)

/-- EST: the mean of the 32 readings by the die's calibration factor, whole picoseconds of it (R373, log 58). -/
def estOf (calib : Nat) (readings : List (BitVec 16)) : Nat :=
  readings.foldl (fun n x => n + x.toNat) 0 * calib / (32 * 65536) % 65536

/-- STEP_RATE_SAMPLE: EST is the calibrated mean, MAX the largest reading (R373). -/
def execStepRateSample (readings : List (BitVec 16)) (s : State) : Host.Outcome State Fault Refusal :=
  let est := estOf s.fuses.calib readings
  let mx := readings.foldl (fun n x => max n x.toNat) 0
  .next (if s.rst.hold.isSome then s else
    (s.setReg R.bnmTstep (BitVec.ofNat 32 (est + mx * 65536))).modSensors fun x =>
      { x with srm := readings, hist := (est :: x.hist).take 10000 })

/-- THROTTLE_STEP: the set-point aimed at moves 10 mV down to FLOOR, or up to TARGET (R376, R377), and VDD_CORE follows in
the steps of R28; a regulator fault ends downward steps (R375). -/
def throttleStep (up : Bool) (s : State) : State :=
  let x := s.bnm.sensors
  let target := s.rfld R.bnmVctl 9 0
  let floor := s.rfld R.bnmVctl 25 16
  if !x.throttle || x.rising != up then s
  else
    let s := checkWarning s (hottest x.temps)
    if up then
      let v := if x.fault then max x.goal (min (x.goal + 10) target) else min (x.goal + 10) target
      if target ≤ v then s.modSensors fun x => { x with goal := v, throttle := false, rising := false }
      else s.modSensors fun x => { x with goal := v }
    else if x.fault || x.goal ≤ floor then s
    else s.modSensors fun x => { x with goal := max (x.goal - 10) floor }

/-- THROTTLE_STEP. -/
def execThrottleStep (up : Bool) (s : State) : Host.Outcome State Fault Refusal := .next (throttleStep up s)

/-- THERMAL_TRIP: the comparator asserts system reset and holds it (R377). -/
def execThermalTrip (s : State) : Host.Outcome State Fault Refusal :=
  let s := if s.rst.hold.isSome then s else checkWarning s (sixteenths 110)
  .next (requestReset { s with rst := { s.rst with therm := true } } .system 10)

/-- Whether READ_VOUT differs from the set-point by more than 15 mV (R375). -/
def State.voutOff (s : State) (v : Nat) : Bool := s.bnm.sensors.setpoint + 15 < v || v + 15 < s.bnm.sensors.setpoint

/-- The regulator-fault flag, EV497 and the record (R375). -/
def regulatorFault (s : State) (readVout : Word) : State :=
  let s := assertEvent (s.modSensors fun x => { x with fault := true }) 497
  formRecord s 5 2 0x210 [BitVec.ofNat 32 s.bnm.sensors.setpoint, readVout]

/-- REGULATOR_FAULT: READ_VOUT has been off for 1 ms, or the regulator has not acknowledged a command; the record's READ_VOUT
is free then, as there is none (R375, log 1). -/
def execRegulatorFault (readVout : Option (BitVec 16)) (s : State) : Host.Outcome State Fault Refusal :=
  .next (if s.rst.hold.isSome then s else
    match readVout with
    | some v => if s.voutOff v.toNat then regulatorFault s (v.zeroExtend 32) else s
    | none => let (w, s) := s.freeWord; regulatorFault s w)

/-! ### Watchdog, tamper, life cycle (R395-R398) -/

/-- Whether the Binnacle watchdog counts: a halt stops it only under item 06h (R398). -/
def State.bwdgCounts (s : State) : Bool := s.rst.hold.isNone && !(s.bnm.halted && s.rbit R.bnmLcs 10)

/-- BINNACLE_WATCHDOG_EXPIRY (R397). -/
def binnacleWatchdog (s : State) : State := if s.bwdgCounts then requestReset s .system 7 else s

/-- BINNACLE_WATCHDOG_EXPIRY. -/
def execBinnacleWatchdogExpiry (s : State) : Host.Outcome State Fault Refusal := .next (binnacleWatchdog s)

/-- BNM_WDGKICK_WRITE (R397, R399). -/
def execBnmWdgkickWrite (m : Master) (v : Word) (s : State) : Host.Outcome State Fault Refusal :=
  .next (ctlWrite s m R.bnmWdgKick 15 v)

/-- The bit of a tamper source in BNM_TAMPER. -/
def tamperBit : TamperSrc → Nat
  | .pin => 0 | .vglitch => 1 | .cglitch => 2

/-- FW_WRITE that is running ends with 0041h and DETAIL 7, its slot invalid (R396). -/
def abortFwWrite (s : State) : State :=
  endWhere (spoilFwWrite s) fun _ r => if r.pkt.opcode = 0x0601 then some ⟨0x41, 7, 0⟩ else none

/-- A pending proposal ends with outcome 8, which is logged at the next start (R302, R396). -/
def abortProposal (s : State) : State :=
  match s.bnm.prop with
  | some p =>
    let s := (clearProposal s).setFld R.xbgStat 19 16 8
    assertEvent { s with bnm := { s.bnm with aborted := s.bnm.aborted ++ [(p, false)] } } 505
  | none => s

/-- TAMPER (R396). -/
def tamper (t : TamperSrc) (s : State) : State :=
  let s := abortProposal (wipeSealed s)
  let s := (s.setBit R.bnmTamper (tamperBit t) true).countFld R.bnmTamper 31 16
  let s := formRecord (assertEvent s 510) 5 1 0x210 [s.reg R.bnmTamper]
  abortFwWrite s

/-- TAMPER. TAMPER_N is sampled only while VDD_IO33 is good (R513). -/
def execTamper (t : TamperSrc) (s : State) : Host.Outcome State Fault Refusal :=
  .next (if t = .pin ∧ .io33 ∈ s.rst.rails then s else tamper t s)

/-- LIFE_CYCLE_RESET: 1 ms after item 07h has been applied (R395). -/
def execLifeCycleReset (s : State) : Host.Outcome State Fault Refusal :=
  .next (if s.bnm.lcReset then requestReset { s with bnm := { s.bnm with lcReset := false } } .system 13 else s)

/-! ### SPDM 1.2 over DOE (R381) -/

/-- A request reaches the responder: EV395. None does while the link is down, in reset, or while the Binnacle is halted. -/
def doe (s : State) (f : State → State) : State :=
  if s.rst.hold.isSome || !s.rbit R.pxLink 0 || s.bnm.halted then s else f (assertEvent s 395)

/-- DOE_DISCOVERY: entry 0 is DOE Discovery, entry 1 SPDM (R402); no further entry exists. -/
def execDoeDiscovery (index : Byte) (s : State) : Host.Outcome State Fault Refusal :=
  .next (doe s fun s => s.answers (.bytes
    (if index = 0 then [1, 0, 0, 1] else if index = 1 then [1, 0, 1, 0] else [0xFF, 0xFF, 0, 0])))

/-- ERROR of SPDM 1.2: the code and its data. -/
def spdmError (code data : Byte) : Answer := .bytes [0x12, 0x7F, code, data]

/-- Change the responder's state. -/
def State.modSpdm (s : State) (f : Spdm → Spdm) : State := { s with bnm := { s.bnm with spdm := f s.bnm.spdm } }

/-- A response is sent; it and its request join the messages exchanged. -/
def spdmReply (s : State) (req resp : List Byte) : State :=
  (s.modSpdm fun x => { x with msgs := resp :: req :: x.msgs }).answers (.bytes resp)

/-- A response that ends with a signature of the messages exchanged, with the attestation key (R381). -/
def spdmSigned (s : State) (req body : List Byte) : State :=
  let (sig, t) := signDigest s (Config.spdmDigest s.bnm.spdm.msgs req body)
  spdmReply t req (body ++ sig)

/-- GET_VERSION: version 1.2 only; it begins the negotiation. -/
def execGetVersion (s : State) : Host.Outcome State Fault Refusal :=
  .next (doe s fun s =>
    spdmReply (s.modSpdm fun _ => ⟨true, false, false, []⟩) [0x10, 0x84, 0, 0] [0x10, 0x04, 0, 0, 0, 1, 0, 0x12])

/-- CERT_CAP, CHAL_CAP and MEAS_CAP = 10b. -/
def spdmFlags : Nat := 0x16

/-- GET_CAPABILITIES: the timing exponent and the transfer sizes are not stated (log 1). -/
def execGetCapabilities (s : State) : Host.Outcome State Fault Refusal :=
  .next (doe s fun s =>
    if !s.bnm.spdm.version then s.answers (spdmError 4 0)
    else
      let (f, s) := s.freeBytes 9
      spdmReply (s.modSpdm fun x => { x with caps := true }) [0x12, 0xE1, 0, 0]
        ([0x12, 0x61, 0, 0, 0] ++ f.take 1 ++ [0, 0] ++ leBytes 4 spdmFlags ++ f.drop 1))

/-- NEGOTIATE_ALGORITHMS: P-384, SHA-384 and measurement hash SHA-384, if the requester offers them. -/
def execNegotiateAlgorithms (asymOk hashOk : Bool) (s : State) : Host.Outcome State Fault Refusal :=
  .next (doe s fun s =>
    if !s.bnm.spdm.caps then s.answers (spdmError 4 0)
    else if !asymOk || !hashOk then s.answers (spdmError 1 0)
    else
      spdmReply (s.modSpdm fun x => { x with algs := true }) [0x12, 0xE3, 0, 0]
        ([0x12, 0x63, 0, 0, 36, 0, 1, 0] ++ leBytes 4 4 ++ leBytes 4 0x80 ++ leBytes 4 2 ++ List.replicate 16 0))

/-- The certificate chain of slot 0 as SPDM lays it out. -/
def spdmChain : List Byte :=
  leBytes 2 (52 + Config.certChain.length) ++ [0, 0] ++ beBytes 48 Config.rootHash.toNat ++ Config.certChain

/-- Answer once the algorithms have been negotiated. -/
def spdmAfter (s : State) (f : State → State) : State :=
  doe s fun s => if s.bnm.spdm.algs then f s else s.answers (spdmError 4 0)

/-- GET_DIGESTS: slot 0 only. -/
def execGetDigests (s : State) : Host.Outcome State Fault Refusal :=
  .next (spdmAfter s fun s => spdmReply s [0x12, 0x81, 0, 0] ([0x12, 0x01, 0, 1] ++ sha384 spdmChain))

/-- GET_CERTIFICATE: slot 0 only. -/
def execGetCertificate (slot : Byte) (offset len : BitVec 16) (s : State) : Host.Outcome State Fault Refusal :=
  .next (spdmAfter s fun s =>
    let rest := spdmChain.drop offset.toNat
    let part := rest.take len.toNat
    if slot != 0 || rest.isEmpty then s.answers (spdmError 1 0)
    else spdmReply s ([0x12, 0x82, slot, 0] ++ leBytes 2 offset.toNat ++ leBytes 2 len.toNat)
      ([0x12, 0x02, 0, 0] ++ leBytes 2 part.length ++ leBytes 2 (rest.length - part.length) ++ part))

/-- CHALLENGE: signed with the attestation key over the messages, the caller's nonce among them; the device's nonce and its
measurement summary are free (log 1). -/
def execChallenge (slot : Byte) (nonce : BitVec 256) (s : State) : Host.Outcome State Fault Refusal :=
  .next (spdmAfter s fun s =>
    if slot != 0 then s.answers (spdmError 1 0)
    else
      let (f, s) := s.freeBytes 32
      spdmSigned s ([0x12, 0x83, slot, 0] ++ leBytes 32 nonce.toNat)
        ([0x12, 0x03, 0, 1] ++ sha384 spdmChain ++ f ++ [0, 0]))

/-- A measurement block: index k carries MEAS(k - 1) as a raw bit stream; the type in its low bits is not stated. -/
def measBlock (s : State) (kind : Byte) (i : Fin 8) : List Byte :=
  [BitVec.ofNat 8 (i.val + 1), 1] ++ leBytes 2 51 ++ [kind ||| 0x80] ++ leBytes 2 48 ++ leBytes 48 (s.bnm.meas[i]).toNat

/-- GET_MEASUREMENTS: indices 1 to 8, FFh for all; index 0 asks for their number. Signed as CHALLENGE is. -/
def execGetMeasurements (index : Byte) (nonce : BitVec 256) (s : State) : Host.Outcome State Fault Refusal :=
  .next (spdmAfter s fun s =>
    let (f, s) := s.freeBytes 33
    let pick := (List.finRange 8).filter fun i => index.toNat == i.val + 1 || index == 0xFF
    let l := pick.flatMap (measBlock s (f.headD 0))
    if pick.isEmpty && index != 0 then s.answers (spdmError 1 0)
    else spdmSigned s ([0x12, 0xE0, 1, index] ++ leBytes 32 nonce.toNat ++ [0])
      ([0x12, 0x60, if index = 0 then 8 else 0, 0, BitVec.ofNat 8 pick.length] ++ leBytes 3 l.length ++ l ++
        f.drop 1 ++ [0, 0]))

/-- SPDM_UNSUPPORTED_REQUEST: ERROR UnsupportedRequest. -/
def execSpdmUnsupportedRequest (code : Byte) (s : State) : Host.Outcome State Fault Refusal :=
  .next (doe s fun s => s.answers (spdmError 7 code))

end Sys2Proof.Machine
end

