-- ==== Sys2Proof/Machine/Flags.lean ====
section
/-! DEFINITION. The integer results and flags of 06 R180-R189: the scalar unit's, and the element operations the lanes
share with it. -/
namespace Sys2Proof.Machine

/-- A scalar result: the value, and the flags the instruction names (R181). -/
structure Alu where
  val : Word
  c   : Option Bool := none
  v   : Option Bool := none
  z   : Option Bool := none
  n   : Option Bool := none
  dz  : Bool := false
  deriving DecidableEq, Repr

/-- Set bit `i` of CSW where the instruction names the flag. -/
def setFlag (csw : Word) (i : Nat) : Option Bool → Word
  | some b => wbit csw i b
  | none => csw

/-- CSW with the flags of a result: C, V, Z, N and the sticky DZ (R41, R181). -/
def Alu.flags (r : Alu) (csw : Word) : Word :=
  let w := setFlag (setFlag (setFlag (setFlag csw 0 r.c) 1 r.v) 2 r.z) 3 r.n
  if r.dz then wbit w 6 true else w

/-- A result whose Z and N come from the value written. -/
def aluZN (val : Word) (c v : Option Bool := none) (dz : Bool := false) : Alu :=
  ⟨val, c, v, some (val == 0), some (val.getLsbD 31), dz⟩

/-- Whether an exact integer fits in 32 signed bits. -/
def fits32 (i : Int) : Bool := -(2 ^ 31) ≤ i && i < 2 ^ 31

/-- An integer clamped to lo..hi. -/
def clampI (lo hi i : Int) : Int := max lo (min hi i)

/-- An exact integer clamped to 32 signed bits (R182). -/
def sat32 (i : Int) : Word := ofInt (clampI (-(2 ^ 31)) (2 ^ 31 - 1) i)

/-- An exact integer clamped to 32 unsigned bits (R182). -/
def usat32 (i : Int) : Word := ofInt (clampI 0 (2 ^ 32 - 1) i)

/-- The written result of ADD, SUB and MUL, saturating under SAT (R182, R184). -/
def satIf (sat : Bool) (i : Int) : Word := if sat then sat32 i else ofInt i

/-- ADD (R181, R184). -/
def aluAdd (sat : Bool) (a b : Word) : Alu :=
  let i := a.toInt + b.toInt
  aluZN (satIf sat i) (some (decide (a.toNat + b.toNat ≥ 2 ^ 32))) (some (!fits32 i))

/-- SUB, CMP and CMPI: C is 1 when a ≥ b as unsigned (R181, R184). -/
def aluSub (sat : Bool) (a b : Word) : Alu :=
  let i := a.toInt - b.toInt
  aluZN (satIf sat i) (some (decide (b.toNat ≤ a.toNat))) (some (!fits32 i))

/-- AND, OR, XOR. -/
def bitOp : BitOp → Word → Word → Word
  | .and, a, b => a &&& b
  | .or, a, b => a ||| b
  | .xor, a, b => a ^^^ b

/-- A shift by k = b[4:0]. -/
def shiftVal : ShiftOp → Word → Nat → Word
  | .shl, a, k => a <<< k
  | .shr, a, k => a >>> k
  | .sar, a, k => a.sshiftRight k

/-- The last bit shifted out; C is unchanged when nothing is shifted (R181). -/
def shiftC : ShiftOp → Word → Nat → Option Bool
  | _, _, 0 => none
  | .shl, a, k + 1 => some (a.getLsbD (31 - k))
  | _, a, k + 1 => some (a.getLsbD k)

/-- SHL, SHR, SAR. -/
def aluShift (op : ShiftOp) (a b : Word) : Alu := aluZN (shiftVal op a (wfld b 4 0)) (shiftC op a (wfld b 4 0))

/-- MUL: V is 1 when the signed product does not fit (R181, R184, R185). -/
def aluMul (sat : Bool) (a b : Word) : Alu :=
  aluZN (satIf sat (a.toInt * b.toInt)) none (some (!fits32 (a.toInt * b.toInt)))

/-- The high word of the product (R185). -/
def mulHigh (uns : Bool) (a b : Word) : Word :=
  if uns then BitVec.ofNat 32 (a.toNat * b.toNat / 2 ^ 32)
  else ofInt ((a.toInt * b.toInt) / 2 ^ 32)

/-- The overflow case of R187. -/
def divOverflows (op : DivOp) (a b : Word) : Bool :=
  (op == .div || op == .rem) && a == 0x80000000 && b == 0xFFFFFFFF

/-- Quotient or remainder, with the special cases of R187. -/
def divVal (op : DivOp) (sat : Bool) (a b : Word) : Word :=
  if b = 0 then (match op with | .div | .divu => a | .rem | .remu => 0)
  else if divOverflows op a b then (if op = .rem then 0 else if sat then 0x7FFFFFFF else 0x80000000)
  else match op with
    | .div => ofInt (a.toInt.tdiv b.toInt)
    | .divu => BitVec.ofNat 32 (a.toNat / b.toNat)
    | .rem => ofInt (a.toInt.tmod b.toInt)
    | .remu => BitVec.ofNat 32 (a.toNat % b.toNat)

/-- DIV, DIVU, REM, REMU (R181, R187, R188). -/
def aluDiv (op : DivOp) (a b : Word) : Alu :=
  aluZN (divVal op false a b) none (some (divOverflows op a b)) (b == 0)

/-- NEG: SUB with a = 0 (R181). -/
def aluNeg (a : Word) : Alu := aluSub false 0 a

/-- Leading zeros. -/
def clz (w : Word) : Nat := if w = 0 then 32 else 31 - w.toNat.log2

/-- Set bits. -/
def popc (w : Word) : Nat := (List.range 32).countP fun i => w.getLsbD i

/-- CLZ, POPC: Z from the result, N unchanged (R181). -/
def aluCount (isPopc : Bool) (a : Word) : Alu :=
  let r := BitVec.ofNat 32 (if isPopc then popc a else clz a)
  { val := r, z := some (r == 0) }

/-- SEXT and ZEXT. -/
def extend : ExtOp → Word → Word
  | .sextB, a => (a.truncate 8).signExtend 32
  | .sextH, a => (a.truncate 16).signExtend 32
  | .zextB, a => a &&& 0xFF
  | .zextH, a => a &&& 0xFFFF

/-- Whether a branch condition holds (R53). -/
def condHolds (k : Cond) (csw : Word) : Bool :=
  let c := bit csw 0
  let v := bit csw 1
  let z := bit csw 2
  let n := bit csw 3
  match k with
  | .always => true
  | .eq => z | .ne => !z
  | .cs => c | .cc => !c
  | .mi => n | .pl => !n
  | .vs => v | .vc => !v
  | .hi => c && !z | .ls => !(c && !z)
  | .ge => n == v | .lt => n != v
  | .gt => !z && n == v | .le => !(!z && n == v)

end Sys2Proof.Machine
end

