-- ==== Sys2Proof/Machine/Operands.lean ====
section
/-! DEFINITION. The operand forms of the scalar encodings (R52, R521): the value of an operand, the bytes of its form,
the G registers it reads. -/
namespace Sys2Proof.Machine

/-- The value of the b operand: imm16 is sign-extended, imm32 stands as it is (R521). -/
def srcVal (ch : Channel) : Src → Word
  | .reg b => ch.rg b
  | .imm16 v => v.signExtend 32
  | .imm32 v => v

/-- Bytes of the RRR, RI16 or RI32 form. -/
def srcLen : Src → Nat
  | .reg _ => 3
  | .imm16 _ => 4
  | .imm32 _ => 6

/-- G registers of the b operand. -/
def srcReads : Src → List Reg
  | .reg b => [b]
  | _ => []

/-- A displacement (R521). -/
def dispVal : Disp → Word
  | .d16 v => v.signExtend 32
  | .d32 v => v

/-- Bytes of the M16 or M32 form (and of RI16 and RI32). -/
def dispLen : Disp → Nat
  | .d16 _ => 4
  | .d32 _ => 6

/-- The effective address of an M or MA form. -/
def effAddr (ch : Channel) (base : Reg) (d : Word) : Word := ch.rg base + d

/-- A branch displacement. -/
def relVal : Rel → Word
  | .r8 v => v.signExtend 32
  | .r32 v => v

/-- Bytes of the B8 or B32 form. -/
def relLen : Rel → Nat
  | .r8 _ => 2
  | .r32 _ => 5

/-- The G register after `r`, for the pairs of R217. -/
def nextReg (r : Reg) : Reg := ⟨(r.val + 1) % 16, by omega⟩

/-- What a load of kind `k` puts into the register: sign- or zero-extended (R53). -/
def loadVal : LdKind → Nat → Word
  | .b, v => (BitVec.ofNat 8 v).signExtend 32
  | .bu, v => BitVec.ofNat 32 (v % 2 ^ 8)
  | .h, v => (BitVec.ofNat 16 v).signExtend 32
  | .hu, v => BitVec.ofNat 32 (v % 2 ^ 16)
  | .w, v => BitVec.ofNat 32 v

/-- Bytes a load reads. -/
def loadLen : LdKind → Nat
  | .b | .bu => 1
  | .h | .hu => 2
  | .w => 4

/-- Bytes a store writes. -/
def storeLen : StKind → Nat
  | .b => 1
  | .h => 2
  | .w => 4

/-- A control register as MFC reads it, without the latch of 15h (R53). -/
def crRead (ch : Channel) (cr : Nat) : Word :=
  match cr with
  | 0x00 => ch.csw
  | 0x01 => ch.fsw
  | 0x02 => ch.slim
  | 0x03 => ch.lsav
  | 0x04 => BitVec.ofNat 32 ch.vl
  | 0x05 => ch.sc
  | 0x06 => ch.wm
  | 0x07 => BitVec.ofNat 32 ch.lpst
  | 0x08 => ch.lps[0] | 0x09 => ch.lps[1] | 0x0A => ch.lps[2] | 0x0B => ch.lps[3]
  | 0x0C => ch.lpe[0] | 0x0D => ch.lpe[1] | 0x0E => ch.lpe[2] | 0x0F => ch.lpe[3]
  | 0x10 => ch.lpc[0] | 0x11 => ch.lpc[1] | 0x12 => ch.lpc[2] | 0x13 => ch.lpc[3]
  | 0x14 => ch.vbar
  | 0x15 => ch.steps.truncate 32
  | 0x16 => ch.stepsH.zeroExtend 32
  | 0x17 => ch.pmask
  | _ => 0

/-- Control registers that MTC may write (R54): 00h to 14h. -/
def crWritable (cr : Byte) : Bool := cr.toNat ≤ 0x14

/-- Control registers that exist (R49, R53): 00h to 17h. -/
def crDefined (cr : Byte) : Bool := cr.toNat ≤ 0x17

/-- Control registers whose MTC is privileged (R48): SLIM, LSAV, WM, LPST, VBAR. -/
def crPrivileged (cr : Byte) : Bool := cr == 0x02 || cr == 0x03 || cr == 0x06 || cr == 0x07 || cr == 0x14

/-- The control register after MTC writes `w` (R42, R45, R54): in user mode only CSW[7:0] changes; 5 to 7 into LPST is
ignored; VL stores at most 256. -/
def crWrite (ch : Channel) (cr : Nat) (w : Word) : Channel :=
  match cr with
  | 0x00 => { ch with csw := merge (if ch.sup then cswMask else 0xFF) ch.csw w }
  | 0x01 => ch.store 0x00C w
  | 0x02 => ch.store 0x01C w
  | 0x03 => ch.store 0x020 w
  | 0x04 => ch.store 0x018 w
  | 0x05 => ch.store 0x014 w
  | 0x06 => ch.store 0x010 w
  | 0x07 => ch.store 0x024 w
  | 0x08 => ch.store 0x100 w | 0x09 => ch.store 0x104 w | 0x0A => ch.store 0x108 w | 0x0B => ch.store 0x10C w
  | 0x0C => ch.store 0x110 w | 0x0D => ch.store 0x114 w | 0x0E => ch.store 0x118 w | 0x0F => ch.store 0x11C w
  | 0x10 => ch.store 0x120 w | 0x11 => ch.store 0x124 w | 0x12 => ch.store 0x128 w | 0x13 => ch.store 0x12C w
  | 0x14 => ch.store 0x028 w
  | _ => ch

end Sys2Proof.Machine
end

