-- ==== Sys2Proof/Machine/Control.lean ====
section
/-! DEFINITION. Control flow, hardware loops, and the system instructions: traps, the return from a handler, WAIT,
FENCE and IFLUSH (R53, R68-R72, R263, R268). -/
namespace Sys2Proof.Machine

/-- A branch that is taken when `cond` holds. -/
def branch (s : State) (c : Chan) (i : Scalar) (cond : Channel → Bool) (rel : Word) : State :=
  scalar s c i fun s next => finish s c (if cond (s.chan c) then next + rel else next) id

/-- BR and Bcc. -/
def execBrBcc (c : Chan) (p : Prefixes) (cond : Cond) (rel : Rel) (s : State) : Host.Outcome State Fault Refusal :=
  .next (branch s c { p := p, len := relLen rel } (fun ch => condHolds cond ch.csw) (relVal rel))

/-- BCM: branch if bit CSW.CC of the mask is 1. -/
def execBcm (c : Chan) (p : Prefixes) (mask : BitVec 4) (rel : Byte) (s : State) : Host.Outcome State Fault Refusal :=
  .next (branch s c { p := p, len := 3 } (fun ch => mask.getLsbD ch.cc) (rel.signExtend 32))

/-- CALL. -/
def execCall (c : Chan) (p : Prefixes) (rel : Rel) (s : State) : Host.Outcome State Fault Refusal :=
  .next (scalar s c { p := p, len := relLen rel } fun s next =>
    finish s c (next + relVal rel) fun ch => ch.setG 14 next)

/-- JMP. -/
def execJmp (c : Chan) (p : Prefixes) (a : Reg) (s : State) : Host.Outcome State Fault Refusal :=
  .next (scalar s c { p := p, len := 2, reads := [a] } fun s _ => finish s c ((s.chan c).rg a) id)

/-- CALLR: the target is read before G14 is written. -/
def execCallr (c : Chan) (p : Prefixes) (a : Reg) (s : State) : Host.Outcome State Fault Refusal :=
  .next (scalar s c { p := p, len := 2, reads := [a] } fun s next =>
    finish s c ((s.chan c).rg a) fun ch => ch.setG 14 next)

/-- RET. -/
def execRet (c : Chan) (p : Prefixes) (s : State) : Host.Outcome State Fault Refusal :=
  .next (scalar s c { p := p, len := 1, reads := [14] } fun s _ => finish s c ((s.chan c).rg 14) id)

/-- Open a loop level (R68). -/
def openLoop (s : State) (c : Chan) (next count len : Word) : State :=
  let ch := s.chan c
  if h : ch.lpst < 4 then
    if count = 0 then finish s c (next + len) id
    else finish s c next fun ch' => { ch' with
      lps := ch'.lps.set ch.lpst next h
      lpe := ch'.lpe.set ch.lpst (next + len) h
      lpc := ch'.lpc.set ch.lpst count h
      lpst := ch.lpst + 1 }
  else raise s c { vec := 10, addr := ch.pc } ch.pc

/-- LOOP. -/
def execLoop (c : Chan) (p : Prefixes) (cnt : Reg) (len : BitVec 16) (s : State) :
    Host.Outcome State Fault Refusal :=
  .next (scalar s c { p := p, len := 4, legal := len != 0, reads := [cnt] } fun s next =>
    openLoop s c next ((s.chan c).rg cnt) (len.zeroExtend 32))

/-- LOOPI. -/
def execLoopi (c : Chan) (p : Prefixes) (cnt len : BitVec 16) (s : State) : Host.Outcome State Fault Refusal :=
  .next (scalar s c { p := p, len := 5, legal := len != 0 } fun s next =>
    openLoop s c next (cnt.zeroExtend 32) (len.zeroExtend 32))

/-- LEXIT: the innermost level closes with its LPC unchanged (R69). -/
def execLexit (c : Chan) (p : Prefixes) (s : State) : Host.Outcome State Fault Refusal :=
  .next (scalar s c { p := p, len := 1 } fun s next => finish s c next fun ch => { ch with lpst := ch.lpst - 1 })

/-- BKPT: vector 11. -/
def execBkpt (c : Chan) (p : Prefixes) (s : State) : Host.Outcome State Fault Refusal :=
  .next (scalar s c { p := p, len := 1, alone := true } fun s _ =>
    let pc := (s.chan c).pc
    raise s c { vec := 11, addr := pc } pc)

/-- SVC: vector 12; the stacked pc is the next instruction's, and the loop-end step has not been applied (R57, R70). -/
def execSvc (c : Chan) (p : Prefixes) (imm : Byte) (s : State) : Host.Outcome State Fault Refusal :=
  .next (scalar s c { p := p, len := 2, alone := true } fun s next =>
    raise s c { vec := 12, addr := (s.chan c).pc, svc := imm } next)

/-- Whether a drain writes its final WM into the frame at G15, which a RETE returns through (R95). -/
def Channel.frameDrains (ch : Channel) : Bool :=
  ch.drains.any fun d => match d.dest with | .frame a _ => a == ch.rg 15 | _ => false

/-- RETE: waits for the drains of the frame it returns through (R95), then reads the frame (R268). What a window held off
applies at the boundary that follows (R270). -/
def execRete (c : Chan) (p : Prefixes) (s : State) : Host.Outcome State Fault Refusal :=
  .next (scalarOr s c { p := p, len := 1, priv := true, alone := true, reads := [15] } fun s _ =>
    if (s.chan c).frameDrains then none else (tryReturn s c).map fun t => settle t c)

/-- Whether an event routed to the channel is pending (R263). -/
def eventPending (s : State) (c : Chan) : Bool :=
  (List.range 512).any fun n => s.rbit (R.evcPend (n / 32)) (n % 32) && routed s c n

/-- WAIT: the channel waits unless an event routed to it is pending (R263). -/
def execWait (c : Chan) (p : Prefixes) (s : State) : Host.Outcome State Fault Refusal :=
  .next (scalar s c { p := p, len := 1, alone := true } fun s next =>
    if eventPending s c then finish s c next id
    else s.modChan c fun ch => { ch with st := .waiting })

/-- WAIT_WAKEUP: an event routed to the waiting channel is pending, so it runs on after WAIT (R263). -/
def execWaitWakeup (c : Chan) (s : State) : Host.Outcome State Fault Refusal :=
  .next (if eventPending s c then leaveWait s c else s)

/-- FENCE: completes at once when every earlier store has been performed, and waits otherwise (R62). -/
def execFence (c : Chan) (p : Prefixes) (s : State) : Host.Outcome State Fault Refusal :=
  .next (scalar s c { p := p, len := 1, alone := true } fun s next =>
    if (s.chan c).stq.isEmpty then finish s c next id
    else s.modChan c fun ch => { ch with wait := .fence })

/-- FENCE_COMPLETE: the last earlier store has been performed or answered (R62, R523). -/
def execFenceComplete (c : Chan) (s : State) : Host.Outcome State Fault Refusal :=
  .next (if (s.chan c).wait = .fence ∧ (s.chan c).stq.isEmpty = true then
    settle (finish s c ((s.chan c).pc + 1) fun ch => { ch with wait := .none }) c
  else s)

/-- IFLUSH: waits for earlier stores; then the instruction cache, the fetch buffer and the vector cache are loaded
anew (R72, R254). -/
def execIflush (c : Chan) (p : Prefixes) (s : State) : Host.Outcome State Fault Refusal :=
  .next (scalarOr s c { p := p, len := 1, alone := true } fun s next =>
    if (s.chan c).stq.isEmpty then some (finish (refetch s c) c next id) else none)

end Sys2Proof.Machine
end

