-- ==== Sys2Proof/Machine/Micro.lean ====
section
/-! DEFINITION. The microsequencer slices: microwords, their fetch from ROM or patch RAM, and how long they last
(01 R31-R36). What a machine instruction does is its own definition's: R37 keeps the microcode that does it out of the
programming model, so its contents are constants without a body. -/
namespace Sys2Proof.Machine

/-- A microword by its fields (R32). -/
structure Microword where
  opc  : BitVec 6
  a    : BitVec 5
  b    : BitVec 5
  d    : BitVec 5
  cond : BitVec 5
  /-- W: the handshake holds until COND is true -/
  hold : Bool
  dly  : BitVec 4
  /-- L: the last microword of the instruction -/
  last : Bool
  deriving DecidableEq, Repr

/-- The fields of a word (R32). -/
def Microword.ofWord (w : Word) : Microword where
  opc := w.extractLsb' 26 6
  a := w.extractLsb' 21 5
  b := w.extractLsb' 16 5
  d := w.extractLsb' 11 5
  cond := w.extractLsb' 6 5
  hold := bit w 5
  dly := w.extractLsb' 1 4
  last := bit w 0

/-- How long a microword lasts, in quarters of a step: `wait` until COND is true when W = 1, and from then on one step,
or 1 + k/4 steps with DLY = k in a unit that uses DLY (R33, R34). -/
def Microword.quarters (m : Microword) (delays : Bool) (wait : Nat) : Nat :=
  (if m.hold then wait else 0) + 4 + if delays then m.dly.toNat else 0

/-- Whether a slice of a class runs an instruction for a unit that uses DLY (R34): an execute slice, number 1 of the three of
its pipe, for the integer divider and the FFT twiddle unit, whose instructions are DIV to REMU, WMUL, FFT and ENV (R164, R172, R176); the
Ledger Engine's slice for the digit datapath, whose instructions are those of digits, 00h to 0Bh and EDIT. -/
def usesDly (cls unit code : Nat) : Bool :=
  match cls with
  | 0 => unit % 3 == 1 && ((0x15 ≤ code && code ≤ 0x18) || code == 0x78 || code == 0x7A || code == 0x7C)
  | 1 => code < 0x10 || code == 0x18
  | _ => false

/-- The patch RAM address of the comparator that matches a fetch (R35). -/
def State.patchAt (s : State) (cls : Nat) (addr : BitVec 15) : Option (BitVec 10) :=
  (s.comps.find? fun w => bit w 0 && wfld w 2 1 == cls && wfld w 17 3 == addr.toNat).map fun w => w.extractLsb' 18 10

/-- Where the next microword of a slice comes from: its word, its patch RAM address, and whether it is the first patched
one (R35). -/
def microFetch (s : State) (cls : Nat) (u : USeq) : Word × Option (BitVec 10) × Bool :=
  match u.patch with
  | some p => (s.patchRam.getD p.toNat 0, some p, false)
  | none =>
    match s.patchAt cls u.addr with
    | some p => (s.patchRam.getD p.toNat 0, some p, true)
    | none => (Config.microRom cls u.addr, none, false)

/-- One microword of the instruction `code`: fetched, timed, its operation done on the micro-registers, and the address of
the next one found. The first patched microword costs one step more; a jump returns to the ROM (R32-R35). R35 does not say
where a branch fetched from patch RAM goes: DESIGN CHOICE of the model (log 61), one that is taken stays in patch RAM, at the
low 10 bits of its target, and one not taken goes to the word after it. -/
def microStep (s : State) (cls unit code : Nat) (u : USeq) : USeq :=
  let (w, patch, first) := microFetch s cls u
  let m := Microword.ofWord w
  let jump := Config.microJump cls m.opc
  let branch := Config.microBranch cls m.opc && (m.hold || Config.microCond unit m.cond u.quarters)
  { addr := if jump || (branch && patch.isNone) then Config.microTarget cls w else if patch.isSome then u.addr else u.addr + 1
    word := w
    patch := if jump then none else patch.map fun p => if branch then (Config.microTarget cls w).truncate 10 else p + 1
    run := u.run + 1
    quarters := u.quarters + m.quarters (usesDly cls unit code && Config.microDelays cls m.opc)
      (Config.microHold unit m.cond u.quarters) + (if first then 4 else 0)
    regs := if Config.microWrites cls m.opc then
      u.regs.set m.d.toFin (Config.microOp cls m.opc u.regs[m.a.toFin] u.regs[m.b.toFin]) else u.regs }

/-- The microwords of one machine instruction: 2 to 12, up to one whose L is 1 (R31, R32). -/
def microLoop (s : State) (cls unit code : Nat) : (fuel : Nat) → USeq → USeq
  | 0, u => u
  | n + 1, u =>
    let v := microStep s cls unit code u
    if 2 ≤ v.run && (Microword.ofWord v.word).last then v else microLoop s cls unit code n v

/-- A slice of a class runs the microprogram of the machine instruction `code`. -/
def microRun (s : State) (cls slice unit code : Nat) (u : USeq) : USeq :=
  microLoop s cls unit code 12 { u with addr := Config.microEntry cls slice code, patch := none, run := 0 }

/-- The three slices of pipe `p` run an instruction (R16). -/
def runPipeMicro (s : State) (p : Pipe) (code : Nat) : State :=
  let x := s.pipes[p]
  { s with pipes := s.pipes.set p { x with useq := x.useq.mapFinIdx fun k u _ => microRun s 0 k (3 * p.val + k) code u } }

/-- The slice of the Ledger Engine runs an instruction. -/
def runLedgerMicro (s : State) (code : Nat) : State := { s with lgeSeq := microRun s 1 0 96 code s.lgeSeq }

/-- The slice of the SMS runs an instruction. -/
def runSmsMicro (s : State) (code : Nat) : State := { s with smsSeq := microRun s 2 0 97 code s.smsSeq }

/-- The three slices of a pipe run the instructions of a chain group, member by member (R31, R100). -/
def runPipeGroup (s : State) (p : Pipe) (l : List Member) : State := l.foldl (fun s m => runPipeMicro s p m.op.opcode) s

/-- The slice of the SMS runs the instructions of a chain group. -/
def runSmsGroup (s : State) (l : List Member) : State := l.foldl (fun s m => runSmsMicro s m.op.opcode) s

end Sys2Proof.Machine
end

