-- ==== Sys2Proof/Machine/Float.lean ====
section
/-! DEFINITION. Binary32 arithmetic (06 R190-R199), exact and then rounded once, and the twiddle and window
coefficients (R164, R172). -/
namespace Sys2Proof.Machine

/-- FSW.RM and FSW.FTZ as captured at decode (R43, R44). -/
structure FpEnv where
  rm  : BitVec 2
  ftz : Bool
  deriving DecidableEq, Repr

/-- A result and its flags: NV, DZ, OF, UF, IX in bits 0 to 4. -/
structure Fp where
  val : Word
  fl  : BitVec 5
  deriving DecidableEq, Repr

/-- Invalid operation. -/
def flNV : BitVec 5 := 1
/-- Division by zero. -/
def flDZ : BitVec 5 := 2
/-- Overflow. -/
def flOF : BitVec 5 := 4
/-- Underflow. -/
def flUF : BitVec 5 := 8
/-- Inexact. -/
def flIX : BitVec 5 := 16

/-- Sign bit. -/
def fSign (w : Word) : Bool := w.getLsbD 31
/-- Exponent field. -/
def fExp (w : Word) : Nat := wfld w 30 23
/-- Fraction field. -/
def fFrac (w : Word) : Nat := wfld w 22 0
/-- NaN. -/
def fNaN (w : Word) : Bool := fExp w == 255 && fFrac w != 0
/-- Signalling NaN. -/
def fSNaN (w : Word) : Bool := fNaN w && !w.getLsbD 22
/-- Infinity. -/
def fInf (w : Word) : Bool := fExp w == 255 && fFrac w == 0
/-- Zero of either sign. -/
def fZero (w : Word) : Bool := fExp w == 0 && fFrac w == 0
/-- Subnormal. -/
def fSub (w : Word) : Bool := fExp w == 0 && fFrac w != 0

/-- Significand of a finite value. -/
def fMant (w : Word) : Nat := if fExp w = 0 then fFrac w else fFrac w + 2 ^ 23
/-- Exponent of the significand's unit. -/
def fUnit (w : Word) : Int := if fExp w = 0 then -149 else (fExp w : Int) - 150

/-- A word with this sign and magnitude. -/
def fPut (neg : Bool) (mag : Nat) : Word := BitVec.ofNat 32 (mag + neg.toNat * 2 ^ 31)

/-- The quiet NaN of an invalid operation (R194). -/
def defaultNaN : Word := 0x7FC00000

/-- A subnormal operand read as a zero of the same sign under FTZ (R193). -/
def flush (e : FpEnv) (w : Word) : Word := if e.ftz && fSub w then fPut (fSign w) 0 else w

/-- The magnitude of an overflowed result (R191). -/
def overflowTo (e : FpEnv) (neg : Bool) : Nat :=
  let inf := 0x7F800000
  let max := 0x7F7FFFFF
  match e.rm.toNat with
  | 0 => inf
  | 1 => max
  | 2 => if neg then max else inf
  | _ => if neg then inf else max

/-- Round the positive value m · 2^e to an integer multiple of 2^q: the integer, and whether it is inexact. -/
def roundTo (env : FpEnv) (neg : Bool) (m : Nat) (e q : Int) : Nat × Bool :=
  if q ≤ e then (m * 2 ^ (e - q).toNat, false)
  else
    let k := (q - e).toNat
    let hi := m / 2 ^ k
    let lo := m % 2 ^ k
    let half := 2 ^ (k - 1)
    let up := match env.rm.toNat with
      | 0 => decide (lo > half) || (lo == half && hi % 2 == 1)
      | 1 => false
      | 2 => decide (lo ≠ 0) && !neg
      | _ => decide (lo ≠ 0) && neg
    (if up then hi + 1 else hi, decide (lo ≠ 0))

/-- Round ±m · 2^e, m positive, to binary32 (R191-R193). -/
def roundPack (env : FpEnv) (neg : Bool) (m : Nat) (e : Int) : Fp :=
  let top : Int := m.log2 + e
  let (r1, _) := roundTo env neg m e (top - 23)
  let tiny := decide (top < -127) || (decide (top = -127) && decide (r1 < 2 ^ 24))
  if env.ftz && tiny then ⟨fPut neg 0, flUF ||| flIX⟩
  else
    let q := max (top - 23) (-149)
    let (r, ix) := roundTo env neg m e q
    let mag := (q + 149).toNat * 2 ^ 23 + r
    if mag ≥ 0x7F800000 then ⟨fPut neg (overflowTo env neg), flOF ||| flIX⟩
    else ⟨fPut neg mag, (if ix then flIX else 0) ||| (if tiny && ix then flUF else 0)⟩

/-- Round an exact integer multiple of 2^e; `zneg` is the sign of a zero. -/
def roundInt (env : FpEnv) (v : Int) (e : Int) (zneg : Bool) : Fp :=
  if v = 0 then ⟨fPut zneg 0, 0⟩ else roundPack env (decide (v < 0)) v.natAbs e

/-- A NaN operand quieted (R194). -/
def quiet (w : Word) : Word := w ||| 0x400000

/-- The NaN result of operands of which one is a NaN: the first NaN in operand order (R194). -/
def nanOf (ops : List Word) : Fp :=
  ⟨quiet ((ops.find? fNaN).getD defaultNaN), if ops.any fSNaN then flNV else 0⟩

/-- The signed significand of a finite value. -/
def fInt (w : Word) : Int := if fSign w then -(fMant w : Int) else fMant w

/-- The exact sum of two multiples of powers of two. -/
def sumExact (v1 e1 v2 e2 : Int) : Int × Int :=
  let e := min e1 e2
  (v1 * 2 ^ (e1 - e).toNat + v2 * 2 ^ (e2 - e).toNat, e)

/-- The sign of an exact zero sum (R191). -/
def zeroSign (env : FpEnv) (n1 n2 : Bool) : Bool := if n1 == n2 then n1 else env.rm == 3

/-- Addition. -/
def fadd (env : FpEnv) (a b : Word) : Fp :=
  let a := flush env a
  let b := flush env b
  if fNaN a || fNaN b then nanOf [a, b]
  else if fInf a then (if fInf b && fSign a != fSign b then ⟨defaultNaN, flNV⟩ else ⟨a, 0⟩)
  else if fInf b then ⟨b, 0⟩
  else
    let (v, e) := sumExact (fInt a) (fUnit a) (fInt b) (fUnit b)
    roundInt env v e (zeroSign env (fSign a) (fSign b))

/-- Negation: bit 31 inverted. -/
def fneg (w : Word) : Word := w ^^^ 0x80000000
/-- Absolute value: bit 31 cleared. -/
def fabs (w : Word) : Word := w &&& 0x7FFFFFFF

/-- Subtraction: a + (−b), a NaN b as it stands (R195). -/
def fsub (env : FpEnv) (a b : Word) : Fp := if fNaN a || fNaN b then nanOf [a, b] else fadd env a (fneg b)

/-- Multiplication. -/
def fmul (env : FpEnv) (a b : Word) : Fp :=
  let a := flush env a
  let b := flush env b
  let neg := fSign a != fSign b
  if fNaN a || fNaN b then nanOf [a, b]
  else if fInf a || fInf b then (if fZero a || fZero b then ⟨defaultNaN, flNV⟩ else ⟨fPut neg 0x7F800000, 0⟩)
  else roundInt env (fInt a * fInt b) (fUnit a + fUnit b) neg

/-- Fused multiply-add, one rounding (R191, R194). -/
def ffma (env : FpEnv) (a b c : Word) : Fp :=
  let a := flush env a
  let b := flush env b
  let c := flush env c
  let neg := fSign a != fSign b
  let invalid := (fZero a && fInf b) || (fInf a && fZero b)
  if fNaN a || fNaN b || fNaN c then
    let r := nanOf [a, b, c]
    if invalid then ⟨r.val, r.fl ||| flNV⟩ else r
  else if invalid then ⟨defaultNaN, flNV⟩
  else if fInf a || fInf b then
    (if fInf c && fSign c != neg then ⟨defaultNaN, flNV⟩ else ⟨fPut neg 0x7F800000, 0⟩)
  else if fInf c then ⟨c, 0⟩
  else
    let (v, e) := sumExact (fInt a * fInt b) (fUnit a + fUnit b) (fInt c) (fUnit c)
    roundInt env v e (zeroSign env neg (fSign c))

/-- Division. -/
def fdiv (env : FpEnv) (a b : Word) : Fp :=
  let a := flush env a
  let b := flush env b
  let neg := fSign a != fSign b
  if fNaN a || fNaN b then nanOf [a, b]
  else if fInf a then (if fInf b then ⟨defaultNaN, flNV⟩ else ⟨fPut neg 0x7F800000, 0⟩)
  else if fInf b then ⟨fPut neg 0, 0⟩
  else if fZero b then (if fZero a then ⟨defaultNaN, flNV⟩ else ⟨fPut neg 0x7F800000, flDZ⟩)
  else if fZero a then ⟨fPut neg 0, 0⟩
  else
    let n := fMant a * 2 ^ 64
    let q := n / fMant b
    let sticky := if n % fMant b = 0 then 0 else 1
    roundPack env neg (2 * q + sticky) (fUnit a - fUnit b - 65)

/-- The integer square root, one bit a step from bit `k - 1` down. -/
def isqrt (n : Nat) : (k : Nat) → (r : Nat) → Nat
  | 0, r => r
  | k + 1, r => let t := r + 2 ^ k; isqrt n k (if t * t ≤ n then t else r)

/-- Square root. -/
def fsqrt (env : FpEnv) (a : Word) : Fp :=
  let a := flush env a
  if fNaN a then nanOf [a]
  else if fZero a then ⟨a, 0⟩
  else if fSign a then ⟨defaultNaN, flNV⟩
  else if fInf a then ⟨a, 0⟩
  else
    let odd := (fUnit a) % 2 ≠ 0
    let m := fMant a * 2 ^ (if odd then 91 else 90)
    let e := fUnit a - (if odd then 91 else 90)
    let r := isqrt m 58 0
    let sticky := if r * r = m then 0 else 1
    roundPack env false (2 * r + sticky) (e / 2 - 1)

/-- Order of two values that are not NaN: a before b, with equal zeros. -/
def fLess (a b : Word) : Bool :=
  let v := fun (w : Word) => if fSign w then -((wfld w 30 0 : Nat) : Int) else (wfld w 30 0 : Nat)
  decide (v a < v b)

/-- minimumNumber and maximumNumber, −0 less than +0 (R196). -/
def fminmax (env : FpEnv) (isMax : Bool) (a b : Word) : Fp :=
  let a := flush env a
  let b := flush env b
  let fl := if fSNaN a || fSNaN b then flNV else 0
  if fNaN a && fNaN b then nanOf [a, b]
  else if fNaN a then ⟨b, fl⟩
  else if fNaN b then ⟨a, fl⟩
  else
    let less := if fZero a && fZero b then fSign a && !fSign b else fLess a b
    ⟨if less != isMax then a else b, 0⟩

/-- FCMP under condition `opt` (R197). -/
def fcmp (env : FpEnv) (opt : Nat) (a b : Word) : Bool × BitVec 5 :=
  let a := flush env a
  let b := flush env b
  let un := fNaN a || fNaN b
  let nv := if fSNaN a || fSNaN b || (un && (opt == 2 || opt == 3)) then flNV else 0
  let eq := !un && (a == b || (fZero a && fZero b))
  let lt := !un && fLess a b
  (match opt with
   | 0 => eq
   | 1 => !eq
   | 2 => lt
   | 3 => lt || eq
   | 4 => un
   | _ => !un, nv)

/-- Integer to binary32 (R198); FTZ has no part in it (R193). -/
def fOfInt (env : FpEnv) (v : Int) : Fp := roundInt { env with ftz := false } v 0 false

/-- Binary32 to an integer in lo..hi (R198): `trunc` rounds toward zero. -/
def fToInt (env : FpEnv) (trunc : Bool) (lo hi : Int) (a : Word) : Int × BitVec 5 :=
  let a := flush env a
  if fNaN a then (0, flNV)
  else if fInf a then (if fSign a then lo else hi, flNV)
  else
    let env := if trunc then { env with rm := 1 } else env
    let (r, ix) := if fMant a = 0 then (0, false) else roundTo env (fSign a) (fMant a) (fUnit a) 0
    let v : Int := if fSign a then -(r : Int) else r
    if v < lo then (lo, flNV) else if v > hi then (hi, flNV) else (v, if ix then flIX else 0)

/-- Round to nearest-even with no flags (R164, R172). -/
def nearest (neg : Bool) (m : Nat) (e : Int) : Word :=
  if m = 0 then fPut false 0 else (roundPack ⟨0, false⟩ neg m e).val

/-! ### Cosines to 160 fraction bits -/

/-- Fraction bits of the fixed-point values below. -/
def fixBits : Nat := 160

/-- π · 2^160, rounded. -/
def piFix : Nat := 4591442807048218921384805199743311128454155024418

/-- The Taylor sum Σ (−1)^k x^(2k+o)/(2k+o)! for x in 2^-160 units, from term `k` on; `t` is the term before it. -/
def taylor (x2 : Nat) : (n : Nat) → (k : Nat) → (t : Nat) → Int
  | 0, _, _ => 0
  | n + 1, k, t => (t : Int) - taylor x2 n (k + 2) (t * x2 / 2 ^ fixBits / ((k + 1) * (k + 2)))

/-- cos x and sin x for a fixed-point x in 0 to π/4. -/
def cosFix (x : Nat) : Int := taylor (x * x / 2 ^ fixBits) 24 0 (2 ^ fixBits)
/-- See `cosFix`. -/
def sinFix (x : Nat) : Int := taylor (x * x / 2 ^ fixBits) 24 1 x

/-- cos(2πt/N) in 2^-160 units, N a power of two; exact where it is 0 or ±1. -/
def cosTurn (t n : Nat) : Int :=
  let t := t % n
  let t := if 2 * t > n then n - t else t
  let (neg, t) := if 4 * t > n then (true, n - 2 * t) else (false, 2 * t)
  -- the angle is now 2π · (t / 2) / n, in the first quadrant
  let v := if 4 * t ≤ n then cosFix (piFix * t / n) else sinFix (piFix * (n - 2 * t) / (2 * n))
  let v := if 2 * t = n then 0 else v
  if neg then -v else v

/-- sin(2πt/N) in 2^-160 units. -/
def sinTurn (t n : Nat) : Int := cosTurn (4 * t + 3 * n) (4 * n)

/-- A fixed-point value rounded to nearest-even binary32. -/
def fixFloat (v : Int) : Word := nearest (decide (v < 0)) v.natAbs (-(fixBits : Int))

/-- 100,000 times a window function at n of len, in fixed point (R163): Hann 1, Hamming 2, Blackman-Harris 3. -/
def windowSum (opt n len : Nat) : Int :=
  let one : Int := 2 ^ fixBits
  match opt with
  | 1 => 50000 * one - 50000 * cosTurn n len
  | 2 => 54000 * one - 46000 * cosTurn n len
  | _ => 35875 * one - 48829 * cosTurn n len + 14128 * cosTurn (2 * n) len - 1168 * cosTurn (3 * n) len

/-- A generated window coefficient w[n], rounded once (R163, R164). -/
def window (opt n len : Nat) : Word :=
  let v := windowSum opt n len
  let m := 2 ^ 64 * v.natAbs
  let sticky := if m % 100000 = 0 then 0 else 1
  nearest (decide (v < 0)) (2 * (m / 100000) + sticky) (-(fixBits : Int) - 65)

/-- A product of two complex values, or of a and the conjugate of b (R157). -/
def cmulParts (env : FpEnv) (conj : Bool) (ar ai br bi : Word) : Word × Word × BitVec 5 :=
  if conj then
    let p := fmul env ai bi
    let re := ffma env ar br p.val
    let q := fmul env ar bi
    let im := ffma env ai br (fneg q.val)
    (re.val, im.val, p.fl ||| re.fl ||| q.fl ||| im.fl)
  else
    let p := fmul env ai bi
    let re := ffma env ar br (fneg p.val)
    let q := fmul env ai br
    let im := ffma env ar bi q.val
    (re.val, im.val, p.fl ||| re.fl ||| q.fl ||| im.fl)

/-- fma(re, re, im ⊗ im) (R165). -/
def power (env : FpEnv) (re im : Word) : Fp :=
  let p := fmul env im im
  let r := ffma env re re p.val
  ⟨r.val, p.fl ||| r.fl⟩

end Sys2Proof.Machine
end

