-- ==== Sys2Proof/Machine/Lanes.lean ====
section
/-! DEFINITION. The operation of each stream and vector instruction on one element (05 R152-R165, 06 R180-R209), and
the reduction tree with its carry stack (03 R107-R111). -/
namespace Sys2Proof.Machine

/-- Bytes of a TYPE in memory (R115). -/
def typeBytes (t : Nat) : Nat := if t ≤ 1 then 1 else if t ≤ 3 then 2 else if t = 7 ∨ t = 9 ∨ t = 10 then 8 else 4

/-- Alignment that a TYPE requires (R115). -/
def typeAlign (t : Nat) : Nat := if t = 7 ∨ t = 9 ∨ t = 10 then 4 else 1

/-- The class of a TYPE (R149). -/
def clsOf (t : Nat) : Cls :=
  if t ≤ 5 then .I else if t = 6 then .F else if t = 7 then .X else if t = 8 then .DS else if t = 9 then .DL else .L

/-- u8, u16 or u32. -/
def typeUns (t : Nat) : Bool := t == 1 || t == 3 || t == 5

/-- The lane value of an element's bytes (R115). -/
def laneOf (t : Nat) (v : Nat) : BitVec 64 :=
  match t with
  | 0 => ((BitVec.ofNat 8 v).signExtend 32).zeroExtend 64
  | 2 => ((BitVec.ofNat 16 v).signExtend 32).zeroExtend 64
  | _ => BitVec.ofNat 64 v

/-- Least and greatest value of a class I TYPE. -/
def typeRange (t : Nat) : Int × Int :=
  match t with
  | 0 => (-128, 127) | 1 => (0, 255) | 2 => (-32768, 32767) | 3 => (0, 65535)
  | 5 => (0, 4294967295) | _ => (-2147483648, 2147483647)

/-- The number stored for a lane value: low bits, or clamped under SAT in the operation's signedness (R116, R183). -/
def storeVal (t : Nat) (sat uns : Bool) (v : BitVec 64) : Nat :=
  if t ≤ 3 ∧ sat = true then
    let w : Word := v.truncate 32
    let i : Int := if uns then w.toNat else w.toInt
    let (lo, hi) := typeRange t
    (ofInt (clampI lo hi i)).toNat
  else v.toNat

/-- A word as a lane value. -/
def lw (w : Word) : BitVec 64 := w.zeroExtend 64
/-- The low word, or the real part. -/
def vlo (v : BitVec 64) : Word := v.truncate 32
/-- The high word, or the imaginary part. -/
def vhi (v : BitVec 64) : Word := (v >>> 32).truncate 32
/-- A pair of words. -/
def vpair (lo hi : Word) : BitVec 64 := hi ++ lo

/-! ### Lane decimal (R202-R208) -/

/-- The value of BCD digits, least significant first; `none` for an invalid digit. -/
def bcdVal : (n : Nat) → Nat → Option Nat
  | 0, _ => some 0
  | n + 1, v => if v % 16 > 9 then none else (bcdVal n (v / 16)).map fun x => 10 * x + v % 16

/-- A number as BCD digits. -/
def bcdPut : (n : Nat) → Nat → Nat
  | 0, _ => 0
  | n + 1, v => v % 10 + 16 * bcdPut n (v / 10)

/-- Digits of a decimal class. -/
def decDigits (c : Cls) : Nat := if c = .DL then 15 else 7

/-- The cause code of an invalid operand, lowest first: 0 a digit, 1 the sign (R204, R206). -/
def decBad (c : Cls) (v : BitVec 64) : Option Nat :=
  if (bcdVal (decDigits c) (v.toNat / 16)).isNone then some 0
  else if v.toNat % 16 < 10 then some 1 else none

/-- The lowest of two causes. -/
def lowCause : Option Nat → Option Nat → Option Nat
  | some a, some b => some (min a b)
  | some a, none => some a
  | none, b => b

/-- The value of a valid operand: Bh and Dh are negative (R203). -/
def decVal (c : Cls) (v : BitVec 64) : Int :=
  let n : Int := (bcdVal (decDigits c) (v.toNat / 16)).getD 0
  if v.toNat % 16 = 0xB ∨ v.toNat % 16 = 0xD then -n else n

/-- A decimal result; a zero carries Ch (R203). -/
def decPut (c : Cls) (i : Int) : BitVec 64 :=
  BitVec.ofNat 64 (bcdPut (decDigits c) i.natAbs * 16 + (if i < 0 then 0xD else 0xC))

/-- Whether a value fits the digits of a class. -/
def decFits (c : Cls) (i : Int) : Bool := decide (i.natAbs < 10 ^ decDigits c)

/-! ### One element -/

/-- The result of a lane operation: a value with its floating-point flags and the divide-by-zero flag, or a fault with
its vector and cause. -/
inductive LaneRes where
  | ok (v : BitVec 64) (fl : BitVec 5) (dz : Bool)
  | fault (vec sub : Nat)
  deriving DecidableEq, Repr

/-- A word with no flag. -/
def laneW (w : Word) : LaneRes := .ok (lw w) 0 false
/-- A binary32 result. -/
def laneF (r : Fp) : LaneRes := .ok (lw r.val) r.fl false
/-- A pair of binary32 results. -/
def laneX (re im : Fp) : LaneRes := .ok (vpair re.val im.val) (re.fl ||| im.fl) false

/-- An exact integer as a result, clamped under SAT in the operation's signedness (R182). -/
def laneInt (m : Member) (i : Int) : LaneRes :=
  laneW (if m.sat then (if m.uns then usat32 i else sat32 i) else ofInt i)

/-- A word in the operation's signedness. -/
def numOf (m : Member) (w : Word) : Int := if m.uns then w.toNat else w.toInt

/-- MIN, MINU, MAX, MAXU. -/
def minmax (op : MinOp) (a b : Word) : Word :=
  match op with
  | .min => if a.toInt ≤ b.toInt then a else b
  | .max => if a.toInt ≥ b.toInt then a else b
  | .minu => if a.toNat ≤ b.toNat then a else b
  | .maxu => if a.toNat ≥ b.toNat then a else b

/-- CMP under condition `opt` (R156). -/
def intCond (opt : Nat) (a b : Word) : Bool :=
  match opt with
  | 0 => a == b
  | 1 => a != b
  | 2 => decide (a.toInt < b.toInt)
  | 3 => decide (a.toInt ≤ b.toInt)
  | 4 => decide (a.toNat < b.toNat)
  | _ => decide (a.toNat ≤ b.toNat)

/-- CVT (R158, R198, R208): from the class of A to the TYPE `rty`. -/
def laneCvt (env : FpEnv) (m : Member) (a : BitVec 64) : LaneRes :=
  let trunc := m.ext.getLsbD 4
  match m.cls, clsOf m.rty with
  | .I, .I => .ok a 0 false
  | .I, .F => laneF (fOfInt env (numOf m (vlo a)))
  | .F, .I =>
    let (lo, hi) := typeRange m.rty
    let (i, fl) := fToInt env trunc lo hi (vlo a)
    .ok (lw (ofInt i)) fl false
  | .F, .X => .ok (vpair (vlo a) 0) 0 false
  | .X, .F => laneW (if m.ext.getLsbD 5 then vhi a else vlo a)
  | .I, .DS =>
    let i := numOf m (vlo a)
    if decFits .DS i then .ok (decPut .DS i) 0 false else .fault 14 3
  | .DS, _ =>
    (match decBad .DS a with
     | some k => .fault 14 k
     | none =>
       match clsOf m.rty with
       | .DL => .ok (decPut .DL (decVal .DS a)) 0 false
       | _ => laneW (ofInt (decVal .DS a)))
  | .DL, k =>
    (match decBad .DL a with
     | some k => .fault 14 k
     | none =>
       let i := decVal .DL a
       match k with
       | .DS => if decFits .DS i then .ok (decPut .DS i) 0 false else .fault 14 3
       | _ => .ok (BitVec.ofInt 64 i) 0 false)
  | .L, _ =>
    let i := a.toInt
    if decFits .DL i then .ok (decPut .DL i) 0 false else .fault 14 3
  | _, _ => .ok a 0 false

/-- A decimal operation on two operands, both checked first. -/
def dec2 (c : Cls) (a b : BitVec 64) (f : Int → Int → LaneRes) : LaneRes :=
  match lowCause (decBad c a) (decBad c b) with
  | some k => .fault 14 k
  | none => f (decVal c a) (decVal c b)

/-- A decimal sum that must fit its class (R205). -/
def decSum (c : Cls) (i : Int) : LaneRes := if decFits c i then .ok (decPut c i) 0 false else .fault 14 2

/-- Extend an element to 64 bits under WIDE (R161). -/
def wideOf (m : Member) (a : BitVec 64) : BitVec 64 := if m.uns then lw (vlo a) else (vlo a).signExtend 64

/-- The operation of member `m` on element `i` whose operands are a, b and c (R152). -/
def laneOp (env : FpEnv) (tdz : Bool) (m : Member) (i : Nat) (a b c : BitVec 64) : LaneRes :=
  let aw := vlo a
  let bw := vlo b
  let opt := m.ext.toNat / 16 % 8
  match m.op with
  | .mlogic op => laneW (bitOp op aw bw)
  | .mnot => laneW (~~~ aw)
  | .vld | .vst | .mov => .ok a 0 false
  | .addSub sub => laneInt m (if sub then numOf m aw - numOf m bw else numOf m aw + numOf m bw)
  | .mul => laneInt m (numOf m aw * numOf m bw)
  | .mulh uns => laneW (mulHigh uns aw bw)
  | .div op =>
    if bw = 0 ∧ tdz = true then .fault 9 0 else .ok (lw (divVal op m.sat aw bw)) 0 (bw == 0)
  | .logic op => laneW (bitOp op aw bw)
  | .shift op => laneW (shiftVal op aw (wfld bw 4 0))
  | .minmax op => laneW (minmax op aw bw)
  | .absNeg neg =>
    if neg then laneInt m (-(numOf m aw)) else laneInt m (if numOf m aw < 0 then -(numOf m aw) else numOf m aw)
  | .fadd sub =>
    let f := if sub then fsub env else fadd env
    if m.cls = .X then laneX (f aw bw) (f (vhi a) (vhi b)) else laneF (f aw bw)
  | .fmul => if m.cls = .X then laneX (fmul env aw bw) (fmul env (vhi a) bw) else laneF (fmul env aw bw)
  | .fdiv => laneF (fdiv env aw bw)
  | .fma => laneF (ffma env aw bw (vlo c))
  | .fminmax isMax => laneF (fminmax env isMax aw bw)
  | .fabs => laneW (fabs aw)
  | .fneg => if m.cls = .X then .ok (vpair (fneg aw) (fneg (vhi a))) 0 false else laneW (fneg aw)
  | .fsqrt => laneF (fsqrt env aw)
  | .cmul conj =>
    let (re, im, fl) := cmulParts env conj aw (vhi a) bw (vhi b)
    .ok (vpair re im) fl false
  | .dadd sub => dec2 m.cls a b fun x y => decSum m.cls (if sub then x - y else x + y)
  | .cmp => laneW (ofBool (intCond opt aw bw))
  | .fcmp =>
    let (r, fl) := fcmp env opt aw bw
    .ok (lw (ofBool r)) fl false
  | .dcmp => dec2 m.cls a b fun x y =>
      laneW (ofBool (match opt with | 0 => x == y | 1 => x != y | 2 => decide (x < y) | _ => decide (x ≤ y)))
  | .sel => .ok (if vlo c ≠ 0 then a else b) 0 false
  | .cvt => laneCvt env m a
  | .rsum | .scan => .ok (if m.wide then wideOf m a else lw aw) 0 false
  | .rminmax _ => laneW aw
  | .rcnt => laneW (ofBool (aw != 0))
  | .frsum | .frminmax _ | .fscan => laneW aw
  | .frssq => laneF (fmul env aw aw)
  | .drsum =>
    (match decBad .DS a with
     | some k => .fault 14 k
     | none => .ok (decPut .DL (decVal .DS a)) 0 false)
  | .wmul =>
    let n := 2 ^ (m.ext.toNat % 32)
    let opt := m.ext.toNat / 32
    let w := if opt = 0 then bw else window opt (i % n) n
    if m.cls = .X then laneX (fmul env aw w) (fmul env (vhi a) w) else laneF (fmul env aw w)
  | .mag =>
    let p := power env aw (vhi a)
    if opt = 0 then laneF p
    else
      let r := fsqrt env p.val
      .ok (lw r.val) (p.fl ||| r.fl) false
  | .fft | .bpow | .env => .ok a 0 false

/-! ### Reductions (R108-R111, R161, R162) -/

/-- An entry of the tree: absent, or a value. -/
abbrev Entry := Option (BitVec 64)

/-- The combination of two present entries: flags and value; `none` when a decimal sum does not fit (R209). -/
def combine2 (env : FpEnv) (m : Member) (x y : BitVec 64) : Option (BitVec 5 × BitVec 64) :=
  match m.op with
  | .rsum | .scan =>
    if m.wide then
      let i := x.toInt + y.toInt
      some (0, if m.sat then BitVec.ofInt 64 (clampI (-(2 ^ 63)) (2 ^ 63 - 1) i) else BitVec.ofInt 64 i)
    else
      let i := numOf m (vlo x) + numOf m (vlo y)
      some (0, lw (if m.sat then (if m.uns then usat32 i else sat32 i) else ofInt i))
  | .rcnt => some (0, lw (vlo x + vlo y))
  | .rminmax op => some (0, lw (minmax op (vlo x) (vlo y)))
  | .frminmax isMax => let r := fminmax env isMax (vlo x) (vlo y); some (r.fl, lw r.val)
  | .drsum => let i := decVal .DL x + decVal .DL y; if decFits .DL i then some (0, decPut .DL i) else none
  | _ => let r := fadd env (vlo x) (vlo y); some (r.fl, lw r.val)

/-- combine of R108. -/
def combine (env : FpEnv) (m : Member) : Entry → Entry → Option (BitVec 5 × Entry)
  | none, y => some (0, y)
  | x, none => some (0, x)
  | some x, some y => (combine2 env m x y).map fun (f, v) => (f, some v)

/-- One level of the tree. -/
def treeLevel (env : FpEnv) (m : Member) : List Entry → Option (BitVec 5 × List Entry)
  | x :: y :: l =>
    (match combine env m x y, treeLevel env m l with
     | some (f, z), some (g, r) => some (f ||| g, z :: r)
     | _, _ => none)
  | l => some (0, l)

/-- The tree of R108. -/
def tree (env : FpEnv) (m : Member) : (fuel : Nat) → List Entry → Option (BitVec 5 × Entry)
  | _, [] => some (0, none)
  | _, [x] => some (0, x)
  | 0, _ => none
  | k + 1, l =>
    match treeLevel env m l with
    | some (f, l) => (tree env m k l).map fun (g, v) => (f ||| g, v)
    | none => none

/-- The total of a block. -/
def blockTotal (env : FpEnv) (m : Member) (l : List Entry) : Option (BitVec 5 × Entry) := tree env m 9 l

/-- Fold a block total into the carry stack, from level `i` up (R109). -/
def foldCarry (env : FpEnv) (m : Member) : (blocks : Nat) → List Entry → Entry → Option (BitVec 5 × List Entry)
  | blocks, c :: cs, v =>
    if blocks % 2 = 1 then
      match combine env m c v with
      | some (f, v) => (foldCarry env m (blocks / 2) cs v).map fun (g, r) => (f ||| g, none :: r)
      | none => none
    else some (0, v :: cs)
  | _, [], _ => some (0, [])

/-- The final loop of R109. -/
def carryResult (env : FpEnv) (m : Member) (carry : List Entry) : Option (BitVec 5 × Entry) :=
  carry.foldl (fun acc c =>
    match acc with
    | none => none
    | some (f, r) => (combine env m c r).map fun (g, v) => (f ||| g, v)) (some (0, none))

/-- The empty carry stack. -/
def noCarry : List Entry := List.replicate 25 none

/-- The result when every element is absent (R162). -/
def emptyResult (m : Member) : BitVec 64 :=
  match m.op with
  | .rminmax .min => 0x7FFFFFFF
  | .rminmax .max => 0x80000000
  | .rminmax .minu => 0xFFFFFFFF
  | .frminmax false => 0x7F800000
  | .frminmax true => 0xFF800000
  | .drsum => 0xC
  | _ => 0

end Sys2Proof.Machine
end

