-- ==== Sys2Proof/Machine/SDecode.lean ====
section
/-! DEFINITION. The decode of stream and register-form instructions: operand codes, classes, prefixes, descriptors,
chain groups, slots (03 R74-R91, R98, R104-R106; 04 R114-R117; 05 R142-R153, R158-R176; 06 R183). -/
namespace Sys2Proof.Machine

/-! ### Descriptors (R114-R117) -/

/-- Field [hi:lo] of a descriptor. -/
def dfld (d : BitVec 128) (hi lo : Nat) : Nat := fld d.toNat hi lo
/-- BASE. -/
def dBase (d : BitVec 128) : Nat := dfld d 31 0
/-- PARAM. -/
def dParam (d : BitVec 128) : Nat := dfld d 63 32
/-- TYPE. -/
def dType (d : BitVec 128) : Nat := dfld d 67 64
/-- MODE: 0 contiguous, 1 strided, 2 gather/scatter, 3 angle-resample. -/
def dMode (d : BitVec 128) : Nat := dfld d 69 68

/-- The checks of R117 on one descriptor. -/
def descOk (d : BitVec 128) (vec dest : Bool) : Bool :=
  let idx := dfld d 73 72 == 0 && dfld d 75 74 == 0 && dfld d 76 76 == 0 && dfld d 83 80 == 0
  let log := dfld d 88 84
  let aux := dfld d 127 96
  dType d ≤ 10 && dfld d 71 70 == 0 && dfld d 79 77 == 0 && dfld d 95 89 == 0 &&
  (match dMode d with
   | 0 => dParam d == 0 && idx && log == 0 && aux == 0
   | 1 => idx && log == 0 && aux == 0
   | 2 => log == 0 && dfld d 73 72 != 3 && (dfld d 76 76 == 0 || vec)
   | _ => idx && 2 ≤ log && log ≤ 16 && aux / 2 ^ 25 == 0 && !vec && !dest &&
          (dType d == 2 || dType d == 3 || dType d == 4 || dType d == 6))

/-- The class of a memory operand: an angle-resample operand is F (R149). -/
def dCls (d : BitVec 128) : Cls := if dMode d = 3 then .F else clsOf (dType d)

/-! ### Operands -/

/-- The fields of an encoded instruction, form S or T. -/
structure SFields where
  vec : Bool
  d   : BitVec 4
  a   : BitVec 4
  b   : BitVec 4
  c   : BitVec 4
  ext : Byte
  g   : Byte
  len : Nat
  deriving DecidableEq, Repr

/-- Form S: byte E names G(g) in [3:0]. -/
def SFields.ofS (o : SOps) : SFields := ⟨o.vec, o.d, o.a, o.b, o.c, o.e, o.e &&& 15, 5⟩
/-- Form T, which only the F8h map has. -/
def SFields.ofT (o : TOps) : SFields := ⟨false, o.d, o.a, o.b, o.c, o.n, o.g, 6⟩

/-- What is known of an operand's class: it is fixed, a scalar takes the class of its position, or it is left to the
other operands (a relay destination). -/
inductive OC where
  | known (k : Cls)
  | scalar
  | open
  deriving DecidableEq, Repr

/-- Operands that share one class of `allowed`, the first of which holds where nothing fixes it; a scalar is not
accepted in X, DL or L (R147). -/
def share (allowed : List Cls) (l : List OC) : Option Cls :=
  let known := l.filterMap fun x => match x with | .known k => some k | _ => none
  let k := (known.head?).getD (allowed.headD .I)
  if known.all (· == k) && allowed.contains k && !(l.contains .scalar && (k == .X || k == .DL || k == .L)) then some k
  else none

/-- Whether an instruction uses operand B, and C (R152, R164). -/
def usesB (op : SOp) (ext : Byte) : Bool :=
  match op with
  | .mlogic _ | .addSub _ | .mul | .mulh _ | .div _ | .logic _ | .shift _ | .minmax _ | .fadd _ | .fmul | .fdiv | .fma
  | .fminmax _ | .cmul _ | .dadd _ | .cmp | .fcmp | .dcmp | .sel | .bpow => true
  | .wmul => ext.toNat / 32 == 0
  | _ => false
/-- See `usesB`; a register-form scan names no record. -/
def usesC (op : SOp) (vec : Bool) : Bool :=
  match op with
  | .fma | .sel => true
  | .scan | .fscan => !vec
  | _ => false

/-- The TYPE that a relay of this class carries (R150). -/
def relayType : Cls → Nat
  | .I => 4 | .F => 6 | .X => 7 | .DS => 8 | .DL => 9 | .L => 10

/-- All classes. -/
def allCls : List Cls := [.I, .F, .X, .DS, .DL, .L]

/-- The class of operand A where the operands' classes are those of R152; `wide` for WIDE. For DCMP the table has "A, B DS
or DL": the model takes both sources to be of one class, as for DADD (log 53). -/
def classes (op : SOp) (wide : Bool) (d a b c : OC) : Option Cls :=
  let both := fun (x y : Option Cls) => match x, y with | some k, some _ => some k | _, _ => none
  match op with
  | .mlogic _ | .mnot | .vld | .vst => some .I
  | .addSub _ | .mul | .mulh _ | .div _ | .logic _ | .shift _ | .minmax _ => share [.I] [d, a, b]
  | .absNeg _ => share [.I] [d, a]
  | .mov => share allCls [d, a]
  | .fadd _ => share [.F, .X] [d, a, b]
  | .fmul =>
    if a = .known .X ∨ d = .known .X then both (share [.X] [d, a]) (share [.F] [b]) else share [.F] [d, a, b]
  | .fdiv | .fminmax _ => share [.F] [d, a, b]
  | .fma => share [.F] [d, a, b, c]
  | .fabs | .fsqrt => share [.F] [d, a]
  | .fneg => share [.F, .X] [d, a]
  | .cmul _ => share [.X] [d, a, b]
  | .dadd _ => share [.DS, .DL] [d, a, b]
  | .cmp => both (share [.I] [a, b]) (share [.I] [d])
  | .fcmp => both (share [.F] [a, b]) (share [.I] [d])
  | .dcmp => both (share [.DS, .DL] [a, b]) (share [.I] [d])
  | .sel => both (share allCls [d, a, b]) (share [.I] [c])
  | .cvt => (match a with | .known k => some k | _ => none)
  | .rsum | .rminmax _ | .rcnt => share [.I] [a]
  | .frsum | .frminmax _ | .frssq => share [.F] [a]
  | .drsum => share [.DS] [a]
  | .scan => both (share [.I] [a]) (if wide then share [.L] [d] else share [.I] [d])
  | .fscan => share [.F] [d, a]
  | .wmul => both (share [.F, .X] [d, a]) (share [.F] [b])
  | .mag => both (share [.X] [a]) (share [.F] [d])
  | .fft => both (share [.F, .X] [a]) (share [.X] [d])
  | .bpow => both (share [.F] [a]) (share [.F] [d])
  | .env => share [.F] [d, a]

/-- The CVT pairs of R158, from a class to a TYPE. -/
def cvtPair (a : Cls) (t : Nat) : Bool :=
  match a, clsOf t with
  | .I, .I | .I, .F | .F, .I | .F, .X | .X, .F | .I, .DS | .DS, .DL | .DL, .DS | .L, .DL | .DL, .L => true
  | .DS, .I => t == 4
  | _, _ => false

/-- Whether the positions that take a descriptor only hold one that fits (R145, R159, R170, R174, R176). -/
def positions (op : SOp) (wide : Bool) (d a b c : Opnd) : Bool :=
  let desc := fun (o : Opnd) (f : BitVec 128 → Bool) => match o with | .mem x => f x | _ => false
  let cont := fun (x : BitVec 128) => dMode x == 0
  if op.reduces then desc d fun x => cont x && (match op with
    | .rsum => if wide then dType x == 10 else dType x == 4 || dType x == 5
    | .rminmax _ | .rcnt => dType x == 4 || dType x == 5
    | .drsum => dType x == 9
    | _ => dType x == 6)
  else match op with
    | .scan | .fscan => desc d (fun _ => true) && desc c fun x => cont x && dType x == 5
    | .wmul => (match b with | .none => true | _ => desc b fun _ => true)
    | .fft => desc d cont && (match a with
        | .mem x => cont x && (dType x == 6 || dType x == 7)
        | .relay _ => true
        | _ => false)
    | .bpow => desc d (fun _ => true) && desc b (fun x => cont x && dType x == 5) &&
        (match a with | .scalar _ => false | _ => true)
    | .env => desc d (fun x => cont x && dType x == 6) && desc a fun x => cont x && dType x == 6
    | _ => true

/-- OPT, g, LOG2N and the reserved bits of the extension bytes (R142, R156, R158, R163-R176). TRUNC and PART are defined
bits of every CVT; the manual does not say that one is illegal where the pair has no use for it, and the model ignores it
there (log 53). -/
def extOk (op : SOp) (f : SFields) (dRelay : Bool) : Bool :=
  let e := f.ext.toNat
  let opt := e / 16 % 8
  let log := e % 32
  let low := f.vec || e < 128
  match op with
  | .cmp => low && opt ≤ 5
  | .fcmp => low && opt ≤ 5
  | .dcmp => low && opt ≤ 3
  | .mag => low && opt ≤ 1
  | .cvt =>
    if f.vec then e % 16 ≤ 5 && e < 32
    else e < 64 && (if dRelay then 4 ≤ e % 16 && e % 16 ≤ 10 else e % 16 == 0)
  | .wmul => 1 ≤ log && log ≤ 16 && e / 32 ≤ 3 && f.g.toNat < 16
  | .fft => 6 ≤ log && log ≤ 16 && e / 32 ≤ 1 && f.g.toNat < 16
  | .bpow => 2 ≤ log && log ≤ 16 && e / 32 == 0 && f.g.toNat < 16
  | .env => 6 ≤ log && log ≤ 11 && e / 32 == 0 && f.g.toNat < 16
  | _ => low && opt == 0

/-- What the value of G(g) must satisfy (R174, R176). -/
def gOk (op : SOp) (ext : Byte) (g : Word) : Bool :=
  match op with
  | .bpow => 1 ≤ g.toNat && g.toNat ≤ 256
  | .env => 1 ≤ wfld g 15 0 && wfld g 15 0 ≤ wfld g 31 16 && wfld g 31 16 + 1 ≤ 2 ^ (ext.toNat % 32) / 2
  | _ => true

/-- The class of an operand as it stands. -/
def ocOf : Opnd → OC
  | .mem d => .known (dCls d)
  | .relay t => .known (clsOf t)
  | .scalar _ => .scalar
  | _ => .open

/-- Operations that name their signedness (R183): `some true` unsigned. -/
def namedSign (op : SOp) (ext : Byte) : Option Bool :=
  match op with
  | .mulh uns => some uns
  | .div o => some (o == .divu || o == .remu)
  | .minmax o | .rminmax o => some (o == .minu || o == .maxu)
  | .shift .sar => some false
  | .cmp => let o := ext.toNat / 16 % 8; if o = 2 ∨ o = 3 then some false else if o ≥ 4 then some true else none
  | _ => none

/-- Whether an F8h operation is unsigned (R183). -/
def unsigned (op : SOp) (ext : Byte) (srcs : List Opnd) (rty : Nat) : Bool :=
  match namedSign op ext with
  | some u => u
  | none =>
    let ts := srcs.filterMap fun o => match o with
      | .mem d => if dCls d = .I then some (dType d) else none
      | .relay t => if clsOf t = .I then some t else none
      | _ => none
    if ts.isEmpty then clsOf rty == .I && typeUns rty else ts.all typeUns

/-- Whether SAT is accepted: every operand is of class I or L (R151). The manual does not say what holds of an operand that
is a mask register, which has no class: the model accepts it, on F9h CMP and SEL (log 53). -/
def satAccepted (op : SOp) (k : Cls) (rty : Nat) : Bool :=
  match op with
  | .addSub _ | .mul | .mulh _ | .div _ | .logic _ | .shift _ | .minmax _ | .absNeg _ | .cmp | .rsum | .rminmax _ | .rcnt
  | .scan => true
  | .mov | .sel | .vld | .vst => k == .I || k == .L
  | .cvt => k == .I && clsOf rty == .I
  | _ => false

/-- May an instruction carry CHAIN, and may it be a member at all (R105, R152). -/
def chainAny (op : SOp) : Bool := !(op.reduces || op.scans || op.isUnit)

/-- The prefixes of R49, R50, R104 and R151 on an F8h or F9h instruction. -/
def streamPrefixes (p : Prefixes) (f : SFields) (op : SOp) (members : Nat) : Bool :=
  let maskless := match op with | .mlogic _ | .mnot | .fft | .bpow | .env => true | _ => false
  let wideOk := match op with | .rsum | .scan => true | _ => false
  prefixSound p f.len && !p.atomic && (!p.wide || wideOk) && (!(p.mask.isSome || p.ord) || !maskless) &&
  (if f.vec then !p.chain && !p.key && !p.ord
   else (!p.chain || (chainAny op && p.mask.isNone && members < 3)) && (members = 0 || op != .env))

/-- An F8h source: `relay` is the TYPE that the preceding CHAIN member left (R143, R146). -/
def source (ch : Channel) (relay : Option Nat) (g : Word) (used : Bool) (code : BitVec 4) : Option Opnd :=
  if !used then (if code = 15 then some .none else none)
  else if code.toNat < 8 then some (.mem (ch.d.getD code.toNat 0))
  else if code = 8 then relay.map .relay
  else if code = 9 then some (.scalar g)
  else none

/-- Operations that the F8h map has (R152). -/
def inF8 (op : SOp) : Bool :=
  match op with
  | .mlogic _ | .mnot | .vld | .vst => false
  | _ => true

/-- Decode an F8h instruction; `none` where it is illegal. The result of CVT in a relay has the RTYPE of its EXT, as R150
lists it, so that of RTYPE 5h is an unsigned source of the next member though R183 calls a relay s32: DESIGN CHOICE of the
model (log 42). -/
def memberF8 (ch : Channel) (p : Prefixes) (op : SOp) (f : SFields) (relay : Option Nat) : Option Member :=
  let g := ch.g.getD (f.g.toNat % 16) 0
  let ub := usesB op f.ext
  let uc := usesC op false
  let dOp : Option Opnd :=
    if f.d.toNat < 8 then (if p.chain then none else some (.mem (ch.d.getD f.d.toNat 0)))
    else if f.d = 8 ∧ p.chain = true then some (.relay 0) else none
  match dOp, source ch relay g true f.a, source ch relay g ub f.b, source ch relay g uc f.c with
  | some d, some a, some b, some c =>
    let relays := [f.a, f.b, f.c].countP (· == 8)
    let mems := [d, a, b, c].filterMap fun o => match o with | .mem x => some x | _ => none
    let descs := mems.all (descOk · false false) && (match d with | .mem x => dMode x != 3 | _ => true) &&
      (match op, c with | .scan, .mem x | .fscan, .mem x => dMode x != 3 | _, _ => true)
    let dOC := match d with | .mem x => OC.known (dCls x) | _ => OC.open
    let bOC := if ub then ocOf b else .open
    match classes op p.wide dOC (ocOf a) bOC (ocOf c) with
    | none => none
    | some k =>
      let rty := match d with
        | .mem x => dType x
        | _ => match op with
          | .cmp | .fcmp | .dcmp => 4
          | .mag => 6
          | .cvt => f.ext.toNat % 16
          | _ => relayType k
      let fits := match op with | .cvt => cvtPair k rty | _ => true
      if inF8 op && relays = relay.isSome.toNat && descs && fits && extOk op f (p.chain) && gOk op f.ext g &&
         positions op p.wide d a b c && (!p.sat || satAccepted op k rty) then
        some { pc := ch.pc, op := op, d := (match d with | .relay _ => .relay rty | o => o), a := a, b := b, c := c
               codes := [f.d, f.a, f.b, f.c], ext := f.ext, gval := g
               key := if p.key then ch.akey else ch.key, sat := p.sat, wide := p.wide, cls := k
               uns := unsigned op f.ext ([a] ++ (if ub then [b] else []) ++ (if op = .sel then [c] else [])) rty
               rty := rty }
      else none
  | _, _, _, _ => none

/-- A V register of an F9h field. -/
def vField (code : BitVec 4) : Opnd := .vreg code.toFin
/-- An M register of an F9h field; bit 3 must be 0 (R144). -/
def mField (code : BitVec 4) : Option Opnd := if code.toNat < 8 then some (.mreg ⟨code.toNat % 8, by omega⟩) else none
/-- A descriptor of an F9h field. -/
def dField (ch : Channel) (code : BitVec 4) : Option Opnd :=
  if code.toNat < 8 then some (.mem (ch.d.getD code.toNat 0)) else none

/-- Operations that the F9h map has (R152). -/
def inF9 (op : SOp) : Bool :=
  match op with
  | .cmul _ | .drsum | .wmul | .mag | .fft | .bpow | .env => false
  | _ => true

/-- The class of A and the TYPE of the result in the F9h map. -/
def f9Types (op : SOp) (ext : Byte) (d a : Opnd) : Cls × Nat :=
  match op with
  | .fadd _ | .fmul | .fdiv | .fma | .fminmax _ | .fabs | .fneg | .fsqrt | .frsum | .frminmax _ | .frssq | .fscan =>
    (.F, 6)
  | .fcmp => (.F, 4)
  | .dadd _ => (.DS, 8)
  | .dcmp => (.DS, 4)
  | .vld => (match a with | .mem x => (dCls x, relayType (dCls x)) | _ => (.I, 4))
  | .vst => (match d with | .mem x => (dCls x, dType x) | _ => (.I, 4))
  | .cvt =>
    (match ext.toNat % 16 with
     | 0 => (.I, 6) | 1 => (.I, 6) | 2 => (.F, 4) | 3 => (.F, 5) | 4 => (.I, 8) | _ => (.DS, 4))
  | _ => (.I, 4)

/-- Decode an F9h instruction; `none` where it is illegal (R144, R145, R153). The manual does not say what GB = 1 means for
MAND, MOR and MXOR, whose operand B is a mask register and no V register: the model makes it illegal (log 53). -/
def memberF9 (ch : Channel) (p : Prefixes) (op : SOp) (f : SFields) : Option Member :=
  let g := ch.g.getD (f.g.toNat % 16) 0
  let gb := f.ext.toNat ≥ 128
  let ub := usesB op f.ext
  let uc := usesC op true
  let isM := match op with | .mlogic _ | .mnot => true | _ => false
  let cmp := match op with | .cmp | .fcmp | .dcmp => true | _ => false
  let d := if isM || cmp then mField f.d else if op = .vst then dField ch f.d else some (vField f.d)
  let a := if isM then mField f.a else if op = .vld then dField ch f.a else some (vField f.a)
  let b := if !ub then (if f.b = 0 && !gb then some .none else none)
    else if isM then (if gb then none else mField f.b)
    else if gb then (if f.b = 0 then some (.scalar g) else none)
    else some (vField f.b)
  let c := if !uc then (if f.c = 0 then some .none else none)
    else if op = .sel then mField f.c else some (vField f.c)
  match d, a, b, c with
  | some d, some a, some b, some c =>
    let (k, rty) := f9Types op f.ext d a
    let descs := [d, a].all fun o => match o with
      | .mem x => descOk x true false && (dCls x == .I || dCls x == .F || dCls x == .DS)
      | _ => true
    let uns := match op with
      | .cvt => f.ext.toNat % 16 == 1
      | _ => (namedSign op f.ext).getD false
    if inF9 op && descs && extOk op f false && (!p.sat || satAccepted op k rty) then
      some { pc := ch.pc, op := op, d := d, a := a, b := b, c := c, codes := [f.d, f.a, f.b, f.c], ext := f.ext
             gval := g, key := ch.key, sat := p.sat, wide := p.wide, cls := k, uns := uns, rty := rty }
    else none
  | _, _, _, _ => none

/-! ### Footprints and overlap (R76, R77, R98, R167) -/

/-- Elements of the unit of a unit instruction, or of a strip or segment (R17, R83, R166). -/
def Slot.strip (sl : Slot) : Nat :=
  if sl.vec then 16
  else match sl.members.getLast? with
    | some m => if m.op.isUnit then max 256 (2 ^ (m.ext.toNat % 32)) else 256
    | none => 256

/-- Whether it is a unit instruction. -/
def Slot.isUnit (sl : Slot) : Bool := sl.members.any (·.op.isUnit)

/-- The stride of a descriptor: that of a contiguous operand is its element size (R98). -/
def dStride (d : BitVec 128) : Int := if dMode d = 0 then typeBytes (dType d) else signed 32 (dParam d)

/-- The lines of effective space that `n` elements of a descriptor cover, lowest and highest; `none`: none at all. -/
def footprint (d : BitVec 128) (n : Nat) : Option (Nat × Nat) :=
  if n = 0 then none
  else if dMode d ≥ 2 then some (0, 2 ^ 26 - 1)
  else
    let last : Int := dBase d + (n - 1 : Nat) * dStride d
    let lo := min (dBase d : Int) last
    let hi := max (dBase d : Int) last + typeBytes (dType d) - 1
    some ((max 0 lo).toNat / 64, (min hi (2 ^ 32 - 1)).toNat / 64)

/-- The memory operands of a member with the elements each covers, and whether it is written: each reaches to element
SC - 1, whatever the operation reads or writes of it (R76). -/
def Member.areas (m : Member) (count : Nat) : List (Option (Nat × Nat) × Bool) :=
  let f := fun (o : Opnd) (n : Nat) (w : Bool) => match o with
    | .mem d => [(footprint d n, w)]
    | _ => []
  let rec256 := fun (o : Opnd) => match o with
    | .mem d => [((some (dBase d / 64, (dBase d + 255) / 64) : Option (Nat × Nat)), true)]
    | _ => []
  (if m.op.reduces then rec256 m.d else f m.d count true) ++ f m.a count false ++ f m.b count false ++
  (if m.op.scans then rec256 m.c else f m.c count false)

/-- All areas of a slot. -/
def Slot.areas (sl : Slot) : List (Option (Nat × Nat) × Bool) := sl.members.flatMap fun m => m.areas sl.count

/-- Two line ranges meet. -/
def meets : Option (Nat × Nat) → Option (Nat × Nat) → Bool
  | some (a, b), some (c, d) => a ≤ d && c ≤ b
  | _, _ => false

/-- The V and M registers of an instruction: read, and written; M registers follow the sixteen V registers. That of a MASK
prefix counts as read (R74, R77, R123). -/
def Slot.regs (sl : Slot) : List Nat × List Nat :=
  let r := fun (o : Opnd) => match o with
    | .vreg r => [r.val]
    | .mreg r => [16 + r.val]
    | .mem d => if dMode d = 2 ∧ dfld d 76 76 = 1 then [dfld d 83 80] else []
    | _ => []
  let w := fun (o : Opnd) => match o with | .vreg r => [r.val] | .mreg r => [16 + r.val] | _ => []
  let ix := fun (o : Opnd) => match o with | .mem _ => r o | _ => []
  ((sl.members.flatMap fun m => r m.a ++ r m.b ++ r m.c ++ ix m.d) ++ (sl.maskReg.map fun r => 16 + r.val).toList,
   sl.members.flatMap fun m => w m.d)

/-- Whether `y` must wait for the older `x` to retire (R76, R77). -/
def conflict (x y : Slot) : Bool :=
  (x.areas.any fun a => y.areas.any fun b => (a.2 || b.2) && meets a.1 b.1) ||
  (y.regs.1.any fun r => x.regs.2.contains r) ||
  (y.regs.2.any fun r => x.regs.1.contains r || x.regs.2.contains r)

/-- Exact overlap (R98). -/
def exact (a d : BitVec 128) : Bool :=
  dMode a < 2 && dMode d < 2 && dBase a == dBase d && typeBytes (dType a) == typeBytes (dType d) &&
  dStride a == dStride d

/-- Whether a source of the instruction or group overlaps its destination exactly (R98, R106). -/
def overlapsExactly (ms : List Member) : Bool :=
  match ms.getLast? with
  | some l =>
    (match l.d with
     | .mem d => ms.any fun m => ([m.a, m.b] ++ (if m.op.scans then [] else [m.c])).any fun o =>
         match o with | .mem x => exact x d | _ => false
     | _ => false)
  | none => false

/-- Whether a unit instruction's destination meets another operand (R167). -/
def unitOverlap (ms : List Member) (count : Nat) : Bool :=
  let as := ms.flatMap fun m => m.areas count
  as.any fun a => a.2 && as.any fun b => !b.2 && meets a.1 b.1

/-- At most one angle-resample operand in an instruction or group (R117). -/
def angles (ms : List Member) : Nat :=
  (ms.flatMap fun m => [m.a, m.b, m.c]).countP fun o => match o with | .mem d => dMode d == 3 | _ => false

/-- The checks that the last member of an instruction or group meets, on the whole of it (R166, R167). -/
def wholeOk (ms : List Member) (count : Nat) : Bool :=
  (match ms.getLast? with
   | some m => if m.op.isUnit then count % 2 ^ (m.ext.toNat % 32) == 0 && !unitOverlap ms count else true
   | none => true)

/-! ### Slots -/

/-- The element an instruction starts at (R89, R111, R168): a reduction or scan at the start of its block, a unit
instruction at the start of its unit, a register form of R91 at element 0. -/
def Slot.startAt (sl : Slot) : Nat :=
  let w := min sl.start sl.count
  if sl.r91 then 0
  else if sl.members.any fun m => m.op.reduces || m.op.scans then w / 256 * 256
  else if sl.isUnit then w / sl.strip * sl.strip
  else w

/-- A slot whose last member has been decoded. -/
def Slot.close (sl : Slot) : Slot :=
  let w := sl.startAt
  { sl with inPlace := overlapsExactly sl.members, wm := w, next := w / sl.strip, blocks := w / 256 }

/-- Put a decoded instruction into a slot: a new one, or the open group (R74, R104). Its decode clears CSW.SRP and
CSW.LRS, and WM becomes 0 when SRP was 1 (R89, R237). -/
def placeMember (s : State) (c : Chan) (r : SlotReq) : State :=
  let ch := s.chan c
  let s := if ch.lrs then freeContext s c else s
  let sl := match ch.group with
    | some g => { g with members := g.members ++ [r.mem], mask := r.mask, maskReg := r.maskReg, ord := g.ord || r.ord }
    | none =>
      { sid := ch.nextSid, members := [r.mem], vec := r.vec, count := r.count, mask := r.mask, maskReg := r.maskReg
        rm := ch.fsw.extractLsb' 8 2, ftz := bit ch.fsw 10, tdz := ch.tdz, sup := ch.sup, ord := r.ord, inPlace := false
        snap := ch.snap, younger := 0, start := r.start, next := 0, started := false, fault := none, bad := [], wm := 0
        elems := [], fl := 0, dz := false, carry := noCarry, blocks := 0, olds := [], ixs := [], hdr := none }
  s.modChan c fun ch =>
    let ch := { (ch.setCsw 19 false).setCsw 18 false with
      wm := if ch.srp then 0 else ch.wm
      nextSid := if ch.group.isSome then ch.nextSid else ch.nextSid + 1
      wait := .none }
    let ch := if r.chain then { ch with group := some sl }
      else { ch with group := none, slots := ch.slots ++ [sl.close] }
    ch.goTo (ch.pc + BitVec.ofNat 32 r.len)

/-- The mask a MASK prefix captures: the register, inverted under INV, and ZERO (R50, R74). -/
def Channel.maskOf (ch : Channel) (p : Prefixes) : Option (BitVec 256 × Bool) :=
  p.mask.map fun b =>
    let m := ch.m.getD (b.toNat % 8) 0
    (if b.getLsbD 3 then ~~~ m else m, b.getLsbD 4)

/-- Fail the decode of a stream instruction: at the first member of an open group (R104, R113). CHn_XADDR holds the address
of the instruction that failed, a register form that follows a CHAIN member included; where a scalar instruction, SYNC.S
or no instruction follows one it holds the first member's (`scalarOr`): R104 gives neither, the model's choice (log 22). -/
def failDecode (s : State) (c : Chan) (vec : Nat) : State :=
  let s := discardContext s c
  let pc := (s.chan c).pc
  if (s.chan c).group.isSome then failGroup s c { vec := vec, addr := pc } else raise s c { vec := vec, addr := pc } pc

/-- The no-pipe exception (R22, R113): at issue, with WM 0 and SRP 1 as R85 states. -/
def noPipe (s : State) (c : Chan) : State :=
  let was := (s.chan c).quiet
  let pc := (((s.chan c).group).map (·.pc)).getD (s.chan c).pc
  let s := (discardContext s c).modChan c fun ch => { ch.setCsw 19 true with wm := 0, group := none, pc := pc }
  noteQuiet was (raise s c { vec := 13, addr := pc } pc) c

/-- Whether operands that the instruction reads have still to be loaded (R56): its descriptors, and G(g). -/
def Channel.waitsOperands (ch : Channel) (op : SOp) (f : SFields) : Bool :=
  let desc := fun (k : BitVec 4) => k.toNat < 8 && ch.waitsD ⟨k.toNat % 8, by omega⟩
  let g := ch.waitsG ⟨f.g.toNat % 16, by omega⟩
  if f.vec then
    (op == .vld && desc f.a) || (op == .vst && desc f.d) || (usesB op f.ext && f.ext.toNat ≥ 128 && g)
  else
    let srcs := [f.a] ++ (if usesB op f.ext then [f.b] else []) ++ (if usesC op false then [f.c] else [])
    (f.d :: srcs).any desc || ((srcs.contains 9 || op == .bpow || op == .env) && g)

/-- Whether an instruction in flight has still to write the mask register that a MASK prefix reads (R77). -/
def Channel.waitsMask (ch : Channel) (p : Prefixes) : Bool :=
  match p.mask with
  | some b => ch.slots.any fun x => x.regs.2.contains (16 + b.toNat % 8)
  | none => false

/-- Decode a stream or register-form instruction. It waits for descriptors and a G register still to be loaded (R56), for
loads that have left the device (R57, log 50), for the mask register it captures (R77, log 52), and for a slot (R74). On
the Binnacle core the F8h and F9h maps are illegal (R370). -/
def streamInstr (s : State) (c : Chan) (p : Prefixes) (op : SOp) (f : SFields) : State :=
  if !(s.chan c).decodes || !(s.chan c).remotes.isEmpty then s
  else match takeImpr s c with
  | some s => s
  | none =>
    match fetch s c (prefixBytes p + f.len) with
    | (.wait, _) => s
    | (.fail x, s) => raise s c x (s.chan c).pc
    | (.ok, s) =>
      let ch := s.chan c
      let before := (ch.group.map (·.members)).getD []
      let relay := before.getLast?.map (·.rty)
      let mem := if f.vec then (if before.isEmpty then memberF9 ch p op f else none) else memberF8 ch p op f relay
      let count := (ch.group.map (·.count)).getD (if f.vec then ch.vl else ch.sc.toNat)
      if c = bnmCore || !streamPrefixes p f op before.length then failDecode s c 1
      else if ch.waitsOperands op f || ch.waitsMask p then s
      else match mem with
        | none => failDecode s c 1
        | some m =>
          if 1 < angles (before ++ [m]) || (!p.chain && !wholeOk (before ++ [m]) count) then failDecode s c 1
          else if p.key && !ch.sup then failDecode s c 2
          else if !p.chain && ch.pmask = 0 then noPipe s c
          else
            let r : SlotReq := ⟨m, f.vec, count, ch.maskOf p, p.mask.map fun b => ⟨b.toNat % 8, by omega⟩, p.ord, p.chain,
              prefixBytes p + f.len, if ch.srp then ch.wm.toNat else 0⟩
            if ch.infl < 24 then placeMember s c r else s.modChan c fun ch => { ch with wait := .slot r }

/-- STREAM_SLOT_GRANT: the decode that waits takes a slot that has become free (R74). A pipe mask that has been emptied
while it waited raises the no-pipe exception (R22). -/
def execStreamSlotGrant (c : Chan) (s : State) : Host.Outcome State Fault Refusal :=
  .next (match (s.chan c).wait with
    | .slot r =>
      if 24 ≤ (s.chan c).infl then s
      else if !r.chain && (s.chan c).pmask = 0 then noPipe (s.modChan c fun ch => { ch with wait := .none }) c
      else placeMember s c r
    | _ => s)

end Sys2Proof.Machine
end

