-- ==== Sys2Proof/Machine/SExec.lean ====
section
/-! DEFINITION. The elements of stream and register-form instructions: their addresses and accesses (04), what each
computes, and how complete elements move the watermark (03 R85-R111, 05 R148). -/
namespace Sys2Proof.Machine

/-- How a piece of work on an element ends: a result, an exception, or a wait (R294, R329). -/
inductive Res (α : Type) where
  | ok (a : α)
  | exc (x : Exc)
  | wait
  deriving Repr

/-- Go on with a result. -/
def andThen {α β : Type} (r : Res α × State) (f : α → State → Res β × State) : Res β × State :=
  match r with
  | (.ok a, s) => f a s
  | (.exc x, s) => (.exc x, s)
  | (.wait, s) => (.wait, s)

/-- Work on each of a list in order. -/
def forEach {α β : Type} (f : α → State → Res β × State) : List α → State → Res (List β) × State
  | [], s => (.ok [], s)
  | a :: as, s => andThen (f a s) fun b s => andThen (forEach f as s) fun bs s => (.ok (b :: bs), s)

/-! ### Accesses -/

/-- The exception of an operand access of element `i` (R269). -/
def elemExc (vec : Nat) (addr : Int) (code : BitVec 4) (i : Nat) (range : Bool) : Exc :=
  { vec := vec, addr := ofInt addr, opnd := code.toNat, elem := some (BitVec.ofNat 32 i), range := range }

/-- How the accesses of a member are made: with the key and mode captured at decode (R126, R281). -/
def Slot.how (sl : Slot) (m : Member) (wr : Bool) : How := ⟨m.key, !sl.sup, if wr then .wr else .rd, wr⟩

/-- The range and alignment checks of R119 and R121 on `n` bytes at the exact address `e`. -/
def addrExc (e : Int) (n align : Nat) (code : BitVec 4) (i : Nat) : Option Exc :=
  if e < 0 ∨ e + n > 2 ^ 32 then some (elemExc 4 e code i false)
  else if e % align ≠ 0 then some (elemExc 3 e code i false)
  else none

/-- Read `n` bytes at an exact address for element `i`. -/
def readAt (s : State) (c : Chan) (h : How) (code : BitVec 4) (i : Nat) (e : Int) (n align : Nat) : Res Nat × State :=
  match addrExc e n align code i with
  | some x => (.exc x, s)
  | none =>
    match readEff s c h e.toNat n with
    | (.ok l, s) => (.ok (leNat l), s)
    | (.fail v a, s) => (.exc (elemExc v a.toNat code i false), s)
    | (.wait, s) => (.wait, s)

/-! ### Parts of a slot -/

/-- FSW.RM and FSW.FTZ as captured. -/
def Slot.env (sl : Slot) : FpEnv := ⟨sl.rm, sl.ftz⟩

/-- Whether element `i` is masked off (R148). -/
def Slot.maskedOff (sl : Slot) (i : Nat) : Bool :=
  match sl.mask with
  | some (m, _) => !m.getLsbD (i % 256)
  | none => false

/-- The member whose result leaves the group. -/
def Slot.last (sl : Slot) : Option Member := sl.members.getLast?

/-- Whether the instruction ends in a reduction. -/
def Slot.reduces (sl : Slot) : Bool := sl.members.any (·.op.reduces)
/-- Whether the instruction ends in a scan. -/
def Slot.scans (sl : Slot) : Bool := sl.members.any (·.op.scans)

/-- The tree entries of elements `lo` to `hi - 1` (R108). -/
def Slot.entries (sl : Slot) (lo hi : Nat) : List Entry :=
  (List.range (hi - lo)).map fun k => (sl.elems.find? (·.1 == lo + k)).bind fun e =>
    if sl.maskedOff (lo + k) then none else some e.2.val

/-- Output of a scan for element `i` (R110): the total of the blocks before, then the tree of its own block up to it. The
flags of that total belong to the last element of the block before, the others to element `i` (R201). -/
def Slot.scanOut (sl : Slot) (m : Member) (i : Nat) : BitVec 5 × BitVec 5 × BitVec 64 :=
  match carryResult sl.env m sl.carry, blockTotal sl.env m (sl.entries (i / 256 * 256) (i + 1)) with
  | some (f, p), some (g, t) =>
    (match combine sl.env m p t with
     | some (k, v) => (f, g ||| k, v.getD 0)
     | none => (0, 0, 0))
  | _, _ => (0, 0, 0)

/-! ### Completion and the watermark -/

/-- The exception of an operation (R113, R204): no access failed, so the instruction's address stands in CHn_XADDR. -/
def laneExc (m : Member) (vec sub i : Nat) : Exc :=
  { vec := vec, addr := m.pc, sub := sub, opnd := 15, elem := some (BitVec.ofNat 32 i) }

/-- ZERO of the MASK prefix. -/
def Slot.zeroes (sl : Slot) : Bool :=
  match sl.mask with
  | some (_, z) => z
  | none => false

/-- Whether a masked-off element of this instruction is one that ZERO writes. -/
def Slot.writesZero (sl : Slot) (i : Nat) : Bool := sl.maskedOff i && sl.zeroes && !sl.reduces

/-- Whether element `i` is complete: done, or masked off with nothing to write (R148). -/
def Slot.complete (sl : Slot) (i : Nat) : Bool :=
  i < sl.wm || sl.elems.any (·.1 == i) || (sl.maskedOff i && !sl.writesZero i)

/-- One past the last element that has been dispatched. -/
def Slot.dispatched (sl : Slot) : Nat := min sl.count (sl.next * sl.strip)

/-- The lowest element from `i` on that is not complete, `n` elements looked at. -/
def Slot.firstOpen (sl : Slot) : (n : Nat) → Nat → Nat
  | 0, i => i
  | n + 1, i => if sl.complete i then sl.firstOpen n (i + 1) else i

/-- WM moves up to `w`: the elements it passes leave their flags; their values stay only where a register is written at
the end (R85, R92, R201). -/
def Slot.passTo (sl : Slot) (w : Nat) : Slot :=
  let passed := sl.elems.filter fun e => sl.wm ≤ e.1 && e.1 < w
  { sl with
      wm := w
      fl := passed.foldl (fun f e => f ||| e.2.fl) sl.fl
      dz := sl.dz || passed.any (·.2.dz)
      elems := if sl.vec then sl.elems else sl.elems.filter fun e => w ≤ e.1 }

/-- WM passes the complete elements below the lowest open one (R85). -/
def Slot.advance (sl : Slot) : Slot := sl.passTo (sl.firstOpen (sl.dispatched - sl.wm) sl.wm)

/-- The fault of a block that does not fit (R209). -/
def blockExc (m : Member) (lo : Nat) : Exc := laneExc m 14 2 lo

/-- How the fold of the block at WM ends: it is not complete, it is folded, or its sum does not fit (R209). -/
inductive FoldRes where
  | open
  | done (sl : Slot)
  | fault (x : Exc)

/-- Fold the block of elements `lo` to `hi - 1`, all complete: its total is that of the whole block, whatever segments or
strips its elements came in (R108, R109). -/
def Slot.foldBlock (sl : Slot) (m : Member) (lo hi : Nat) : FoldRes :=
  match blockTotal sl.env m (sl.entries lo hi) with
  | none => .fault (blockExc m lo)
  | some (f, t) =>
    match foldCarry sl.env m sl.blocks sl.carry t with
    | none => .fault (blockExc m lo)
    | some (g, carry) =>
      let u := sl.passTo hi
      .done { u with carry := carry, blocks := sl.blocks + 1, fl := u.fl ||| f ||| g }

/-- Whether the block at WM is folded only at retirement: a last block of fewer than 256 elements, so that WM is a multiple
of 256 at every exception (R111), and the last block of a DRSUM, which is processed again where its result does not fit
(R209). -/
def Slot.foldsLate (sl : Slot) (m : Member) : Bool :=
  decide (sl.count < sl.wm + 256) || (m.op == .drsum && sl.count == sl.wm + 256)

/-- Fold the block at WM once its 256 elements are complete. -/
def Slot.fold (sl : Slot) (m : Member) : FoldRes :=
  if sl.foldsLate m || sl.firstOpen 256 sl.wm < sl.wm + 256 then .open else sl.foldBlock m sl.wm (sl.wm + 256)

/-- At retirement: fold the last block, unless WM has passed it. -/
def Slot.foldLast (sl : Slot) (m : Member) : FoldRes :=
  if sl.count ≤ sl.wm then .done sl else sl.foldBlock m sl.wm sl.count

/-- Whether the results stay in the device until a whole strip is computed: an in-place instruction (R99), and a scan with
ORD, whose WM moves by blocks while no destination element at or above WM is ever written (R103, R111). -/
def Slot.commits (sl : Slot) : Bool :=
  sl.inPlace || (sl.ord && sl.scans && sl.members.getLast?.any fun m => match m.d with | .mem _ => true | _ => false)

/-- Whether the last strip is committed only at retirement: that of such a scan which ends within a block (R111). -/
def Slot.commitsLate (sl : Slot) : Bool := sl.commits && sl.scans && sl.count % 256 != 0

/-- Fold every block that is complete, in block order, as WM passes them; a block whose sum does not fit stops it (R107,
R109, R209). -/
def Slot.foldAll (m : Member) : (n : Nat) → Slot → Slot × Option Exc
  | 0, sl => (sl, none)
  | n + 1, sl =>
    match sl.fold m with
    | .done t => Slot.foldAll m n t
    | .open => (sl, none)
    | .fault x => (sl, some x)

/-- What complete elements bring about: WM moves over them one by one; a reduction or scan folds its blocks, and WM
moves a block at a time (R111); an instruction that commits by strips waits for that (R99, R103). -/
def Slot.progress (sl : Slot) : Slot × Option Exc :=
  match sl.last with
  | none => (sl, none)
  | some m =>
    if sl.reduces || (sl.scans && !sl.commits) then Slot.foldAll m ((sl.dispatched - sl.wm) / 256 + 1) sl
    else if sl.commits then (sl, none)
    else (sl.advance, none)

/-! ### Overlap of an instruction with itself (R99, R101, R103) -/

/-- The bytes of effective space from `e` on, with what they hold. -/
def addressed (e : Nat) (bs : List Byte) : List (Nat × Byte) := ((List.range bs.length).map (e + ·)).zip bs

/-- `n` bytes at effective address `e` as memory holds them, addressed. -/
def peekBytes (s : State) (c : Chan) (e n : Nat) : List (Nat × Byte) :=
  (List.range n).map fun k => (e + k, (((s.chan c).translate (e + k)).map s.byte).getD 0)

/-- Bytes at `e` with those that `l` lists replaced; a later entry of `l` wins. -/
def patchBytes (e : Nat) (bs : List Byte) (l : List (Nat × Byte)) : List Byte :=
  (addressed e bs).map fun x => ((l.reverse.find? (·.1 == x.1)).map (·.2)).getD x.2

/-- Whether `l` lists a byte among the `n` from `e` on. -/
def touches (l : List (Nat × Byte)) (e n : Nat) : Bool := l.any fun x => e ≤ x.1 && x.1 < e + n

/-- Remember the bytes an element has overwritten, as they stood, for the elements that read them (R101); under ORD
every read follows every lower element's write (R103). -/
def Slot.noteOld (sl : Slot) (old : List (Nat × Byte)) : Slot :=
  if sl.ord || !unitOverlap sl.members sl.count then sl
  else { sl with olds := sl.olds ++ old.filter fun x => !sl.olds.any (·.1 == x.1) }

/-- A read of a source: a byte that the instruction has itself written without ORD is read as it stood before or as it
stands, and which one is a free value (R101); one that an instruction with ORD has still to commit is
forwarded (`pend`, R103). -/
def readOver (s : State) (c : Chan) (sl : Slot) (pend : List (Nat × Byte)) (h : How) (code : BitVec 4) (i : Nat)
    (e : Int) (n align : Nat) : Res Nat × State :=
  andThen (readAt s c h code i e n align) fun v s =>
    let bs := leBytes n v
    if touches sl.olds e.toNat n then
      (.ok (leNat (if Config.readsBefore s.free then patchBytes e.toNat bs sl.olds else bs)), { s with free := s.free + 1 })
    else (.ok (leNat (patchBytes e.toNat bs pend)), s)

/-- Destination bytes that an instruction with ORD has computed and not yet committed, in element order. -/
def Slot.pendingBytes (sl : Slot) : List (Nat × Byte) :=
  match sl.ord && sl.commits, sl.last with
  | true, some m =>
    (match m.d with
     | .mem d => sl.elems.flatMap fun x =>
        addressed (dBase d + x.1 * dStride d : Int).toNat (leBytes (typeBytes (dType d))
          (storeVal (dType d) m.sat m.uns (if sl.scans then (sl.scanOut m x.1).2.2 else x.2.val)))
     | _ => [])
  | _, _ => []

/-- A read of a source operand for element `i`. -/
def readSrc (s : State) (c : Chan) (sl : Slot) (h : How) (code : BitVec 4) (i : Nat) (e : Int) (n align : Nat) :
    Res Nat × State := readOver s c sl sl.pendingBytes h code i e n align

/-- Bytes of an index (R122). -/
def indexBytes (d : BitVec 128) : Nat := if dfld d 73 72 = 0 then 2 else 4

/-- Word `i` of a V register. -/
def vword (v : BitVec 8192) (i : Nat) : Word := v.extractLsb' (32 * i) 32

/-- Where index `i` of a descriptor lies in memory, with its width and the key that reads it: what the index read ahead is
filed under. A member that reads it with another key makes its own read, and its own checks (R106, R126). -/
def indexKey (d : BitVec 128) (i : Nat) (key : BitVec 4) : Nat :=
  ((dParam d + i * indexBytes d) * 8 + indexBytes d) * 16 + key.toNat

/-- The index of element `i`, as a 32-bit number after extension (R122, R123): that which the load slice has read ahead,
if it has (R125). -/
def indexOf (s : State) (c : Chan) (sl : Slot) (h : How) (d : BitVec 128) (code : BitVec 4) (i : Nat) :
    Res Nat × State :=
  if dfld d 76 76 = 1 then
    let w := vword ((s.chan c).v.getD (dfld d 83 80) 0) i
    (.ok (if dfld d 73 72 = 0 then w.toNat % 2 ^ 16 else w.toNat), s)
  else match sl.ixs.find? (·.1 == indexKey d i h.key) with
    | some x => (.ok x.2, s)
    | none => readSrc s c sl { h with acc := .rd, wr := false } code i (dParam d + i * indexBytes d : Nat) (indexBytes d) 1

/-- The exact address of element `i` of a descriptor (R118), with the index limit of R124. -/
def addrOf (s : State) (c : Chan) (sl : Slot) (h : How) (d : BitVec 128) (code : BitVec 4) (i : Nat) :
    Res Int × State :=
  if dMode d < 2 then (.ok (dBase d + i * dStride d), s)
  else andThen (indexOf s c sl h d code i) fun ix s =>
    let off : Int := if dfld d 73 72 = 2 then signed 32 ix else ix
    let e : Int := dBase d + off * 2 ^ dfld d 75 74
    let ilim := dfld d 127 96
    if ilim ≠ 0 ∧ ix ≥ ilim then (.exc (elemExc 4 e code i true), s) else (.ok e, s)

/-! ### Angle resampling (R130-R138) -/

/-- The missing-pulse marker (R131). -/
def pulseMarker : Nat := 0xFFFFFFFFFFFFFFFF

/-- The lowest element of the strip of `i` that needs entry `r` of the table and is not complete (R138). -/
def Slot.needsEntry (sl : Slot) (d : BitVec 128) (i r : Nat) : Nat :=
  let lo := max sl.wm (i / sl.strip * sl.strip)
  let rev := fun j => dfld d 119 96 + j / 2 ^ dfld d 88 84
  ((List.range (i - lo)).map (lo + ·)).find? (fun j =>
    (rev j == r || rev j + 1 == r) && !sl.maskedOff j && !sl.elems.any (·.1 == j)) |>.getD i

/-- Read entry `r` as memory holds it when the element's command runs: of an entry that has changed in flight, the order
of the elements' commands decides which of them use the old value (R133, log 41). A fault belongs to the lowest element
that needs the entry. -/
def tableEntry (s : State) (c : Chan) (sl : Slot) (h : How) (d : BitVec 128) (code : BitVec 4) (i r : Nat) :
    Res Nat × State :=
  readSrc s c sl h code (sl.needsEntry d i r) (dParam d + 32 + 8 * r : Nat) 8 1

/-- A waveform sample, converted to binary32 (R135). -/
def sampleOf (env : FpEnv) (t v : Nat) : Fp :=
  if t = 6 then ⟨BitVec.ofNat 32 v, 0⟩ else fOfInt env (vlo (laneOf t v)).toInt

/-- The value of element `j` of an angle-resample operand, with its flags (R134, R137). R138 does not say which exception an
element gives when the reads of entry r and of entry r + 1 both fail: DESIGN CHOICE of the model (log 42), entry r is read
first. -/
def angleElem (s : State) (c : Chan) (sl : Slot) (h : How) (d : BitVec 128) (code : BitVec 4) (j : Nat) :
    Res (BitVec 64 × BitVec 5) × State :=
  let (count, nsamp, dmin, dmax) := sl.hdr.getD (0, 0, 0, 0)
  let m := dfld d 88 84
  let r := dfld d 119 96 + j / 2 ^ m
  let exh := dfld d 120 120 == 1
  let bytes := typeBytes (dType d)
  let mark := fun (k : Word) => (BitVec.zeroExtend 64 (0x7FC00000#32 ||| k), (0 : BitVec 5))
  if r + 1 ≥ count then
    (if exh then .ok (mark 4) else .exc (elemExc 4 (dParam d + 32 + 8 * (r + 1) : Nat) code j true), s)
  else andThen (tableEntry s c sl h d code j r) fun p0 s => andThen (tableEntry s c sl h d code j (r + 1)) fun p1 s =>
    let df := signed 64 ((p1 + 2 ^ 64 - p0) % 2 ^ 64)
    if p0 = pulseMarker ∨ p1 = pulseMarker then (.ok (mark 1), s)
    else if df ≤ 2 ^ 32 * dmin - 1 ∨ df ≤ 0 then (.ok (mark 3), s)
    else if df > 2 ^ 32 * dmax then (.ok (mark 2), s)
    else
      let x := p0 + df.toNat * (j % 2 ^ m) / 2 ^ m
      let n := x / 2 ^ 32 % 2 ^ 32
      if n + 1 ≥ nsamp then
        (if exh then .ok (mark 5) else .exc (elemExc 4 (dBase d + (n + 1) * bytes : Nat) code j true), s)
      else
        andThen (readSrc s c sl h code j (dBase d + n * bytes : Nat) bytes 1) fun av s =>
        andThen (readSrc s c sl h code j (dBase d + (n + 1) * bytes : Nat) bytes 1) fun bv s =>
          let env := sl.env
          let a := sampleOf env (dType d) av
          let b := sampleOf env (dType d) bv
          let f := nearest false (x / 2 ^ 8 % 2 ^ 24) (-24)
          let dd := fsub env b.val a.val
          let y := ffma env f dd.val a.val
          (.ok (lw y.val, a.fl ||| b.fl ||| dd.fl ||| y.fl), s)

/-! ### One element -/

/-- The value of an operand for element `i`. -/
def operandVal (s : State) (c : Chan) (sl : Slot) (m : Member) (o : Opnd) (code : BitVec 4) (i : Nat)
    (relay : BitVec 64) : Res (BitVec 64 × BitVec 5) × State :=
  match o with
  | .none => (.ok (0, 0), s)
  | .relay _ => (.ok (relay, 0), s)
  | .scalar w => (.ok (lw w, 0), s)
  | .vreg r => (.ok (lw (vword (s.chan c).v[r] i), 0), s)
  | .mreg r => (.ok (lw (ofBool ((s.chan c).m[r].getLsbD i)), 0), s)
  | .mem d =>
    let h := sl.how m false
    if dMode d = 3 then angleElem s c sl h d code i
    else andThen (addrOf s c sl h d code i) fun e s =>
      andThen (readSrc s c sl h code i e (typeBytes (dType d)) (typeAlign (dType d))) fun v s =>
        (.ok (laneOf (dType d) v, 0), s)

/-- The operand code in position `k` (D, A, B, C). -/
def Member.code (m : Member) (k : Nat) : BitVec 4 := m.codes.getD k 0

/-- The element index that operand B has for element `i`: a window table repeats (R163). -/
def Member.bIndex (m : Member) (i : Nat) : Nat :=
  match m.op with
  | .wmul => i % 2 ^ (m.ext.toNat % 32)
  | _ => i

/-- A fault that has come up for operand element `j` belongs to element `i` of the instruction: a window table repeats
(R163, R269). -/
def ofElem {α : Type} (j i : Nat) (r : Res α × State) : Res α × State :=
  match r with
  | (.exc x, s) => (.exc (if x.elem = some (BitVec.ofNat 32 j) then { x with elem := some (BitVec.ofNat 32 i) } else x), s)
  | r => r

/-- The pipe that runs the strip of element `i` (R17). -/
def State.pipeOf (s : State) (c : Chan) (sl : Slot) (i : Nat) : Option Pipe :=
  (List.finRange 32).find? fun p => s.pipes[p].work == some (c, sl.sid, i / sl.strip)

/-- A memory operand passes through the staging buffer of the pipe: the load slice puts its value in, as operand `k` of the
group at position `pos` of the strip, and the lanes take it from there (R16, log 61). Every other operand reaches the lanes
as it is. -/
def staged (s : State) (p : Option Pipe) (o : Opnd) (k pos : Nat) (v : BitVec 64) : BitVec 64 × State :=
  match o, p with
  | .mem _, some p =>
    let x := s.pipes[p]
    let t := store (fun _ => 0) x.stage (k * 256 + pos % 256) v
    (look (fun _ => 0) t (k * 256 + pos % 256), { s with pipes := s.pipes.set p { x with stage := t } })
  | _, _ => (v, s)

/-- Member `k` of a chain group writes relay buffer `k` mod 2 (R17, R105). -/
def relayIn (s : State) (p : Option Pipe) (k i : Nat) (v : BitVec 64) : State :=
  match p with
  | some p =>
    let x := s.pipes[p]
    let k' : Fin 2 := ⟨k % 2, by omega⟩
    { s with pipes := s.pipes.set p { x with relay := x.relay.set k' (store (fun _ => 0) x.relay[k'] (i % 256) v) } }
  | none => s

/-- What the next member reads there; outside a pipe, the value itself. -/
def relayOut (s : State) (p : Option Pipe) (k i : Nat) (v : BitVec 64) : BitVec 64 :=
  match p with
  | some p => look (fun _ => 0) (s.pipes[p].relay[(⟨k % 2, by omega⟩ : Fin 2)]) (i % 256)
  | none => v

/-- The result of member `k` for element `i`, given what the relay brings: operands A, B and C are read and checked in
this order (log 42), put into the staging buffer, and the lanes take them from there. -/
def memberElem (s : State) (c : Chan) (sl : Slot) (k : Nat) (m : Member) (i : Nat) (relay : BitVec 64) :
    Res Elem × State :=
  andThen (operandVal s c sl m m.a (m.code 1) i relay) fun a s =>
  andThen (ofElem (m.bIndex i) i (operandVal s c sl m m.b (m.code 2) (m.bIndex i) relay)) fun b s =>
  andThen (if m.op.scans then (.ok (0, 0), s) else operandVal s c sl m m.c (m.code 3) i relay) fun x s =>
    let p := s.pipeOf c sl i
    let (av, s) := staged s p m.a (3 * k) i a.1
    let (bv, s) := staged s p m.b (3 * k + 1) i b.1
    let (xv, s) := staged s p (if m.op.scans then .none else m.c) (3 * k + 2) i x.1
    match laneOp sl.env sl.tdz m i av bv xv with
    | .ok v fl dz => (.ok ⟨v, fl ||| a.2 ||| b.2 ||| x.2, dz⟩, s)
    | .fault vec sub => (.exc (laneExc m vec sub i), s)

/-- The members in order from number `k` on; flags of all are collected, and a result that is relayed passes through the
pipe's relay buffer (R105, R106, R200). -/
def groupElem (c : Chan) (sl : Slot) (i : Nat) : (k : Nat) → List Member → Elem → State → Res Elem × State
  | _, [], e, s => (.ok e, s)
  | k, m :: ms, e, s =>
    andThen (memberElem s c sl k m i e.val) fun r s =>
      let p := s.pipeOf c sl i
      let relays := match m.d with | .relay _ => true | _ => false
      let s := if relays then relayIn s p k i r.val else s
      let v := if relays then relayOut s p k i r.val else r.val
      groupElem c sl i (k + 1) ms ⟨v, e.fl ||| r.fl, e.dz || r.dz⟩ s

/-- Element `i` of a group that writes elements: the last member's value. -/
def elemOf (s : State) (c : Chan) (sl : Slot) (i : Nat) : Res Elem × State := groupElem c sl i 0 sl.members ⟨0, 0, false⟩ s

/-- The memory operands of a slot with their members and codes. -/
def Slot.memOperands (sl : Slot) : List (Member × BitVec 128 × Nat) :=
  sl.members.flatMap fun m => (List.zip [m.a, m.b, m.c, m.d] [1, 2, 3, 0]).filterMap fun (o, k) =>
    match o with
    | .mem d => some (m, d, k)
    | _ => none

/-- Whether element `j` reads the index of the operand in position `k`: a masked-off one reads that of a scatter, to write
zero (R148, log 43). -/
def Slot.readsIndex (sl : Slot) (j k : Nat) : Bool :=
  !sl.complete j && !sl.bad.contains j && (!sl.maskedOff j || (k == 0 && sl.writesZero j))

/-- The load slice reads the indices of one gather or scatter operand up to element `i`, in ascending order within the
strip (R125), and keeps those that have arrived whatever becomes of the element. That of a lower element which fails is
left to the element's own command, whose fault it is. -/
def readIndices (c : Chan) (i : Nat) (m : Member) (d : BitVec 128) (k : Nat) :
    List Nat → Slot → State → Res Unit × Slot × State
  | [], sl, s => (.ok (), sl, s)
  | j :: js, sl, s =>
    let jx := if k = 2 then m.bIndex j else j
    let h := sl.how m false
    if !sl.readsIndex j k || sl.ixs.any (·.1 == indexKey d jx h.key) then readIndices c i m d k js sl s
    else match ofElem jx j (indexOf s c sl h d (m.code k) jx) with
      | (.ok v, s) => readIndices c i m d k js { sl with ixs := sl.ixs ++ [(indexKey d jx h.key, v)] } s
      | (.exc x, s) => if j = i then (.exc x, sl, s) else readIndices c i m d k js sl s
      | (.wait, s) => (.wait, sl, s)

/-- The indices of every gather and scatter operand of a list whose index stream lies in memory, up to element `i`. All
the index streams of an element are read before its data accesses, so that of two failures an index read is the one
reported: the model's choice (log 42). -/
def prepareIndices (c : Chan) (i : Nat) : List (Member × BitVec 128 × Nat) → Slot → State → Res Unit × Slot × State
  | [], sl, s => (.ok (), sl, s)
  | (m, d, k) :: l, sl, s =>
    if dMode d = 2 ∧ dfld d 76 76 = 0 then
      let lo := i / sl.strip * sl.strip
      match readIndices c i m d k ((List.range (i + 1 - lo)).map (lo + ·)) sl s with
      | (.ok _, sl, s) => prepareIndices c i l sl s
      | r => r
    else prepareIndices c i l sl s

/-- The operands whose indices element `i` reads: all of them, or of a masked-off element the destination alone. -/
def Slot.indexOperands (sl : Slot) (i : Nat) : List (Member × BitVec 128 × Nat) :=
  if sl.maskedOff i then sl.memOperands.filter (·.2.2 == 0) else sl.memOperands

/-- The slot with the indices that the load slice has read up to element `i`. -/
def indicesRead (s : State) (c : Chan) (sl : Slot) (i : Nat) : Slot := (prepareIndices c i (sl.indexOperands i) sl s).2.1

/-- The address of destination element `i` and its bytes, checked as far as R119 and R121 go. -/
def destAddr (s : State) (c : Chan) (sl : Slot) (m : Member) (d : BitVec 128) (i : Nat) : Res Nat × State :=
  andThen (addrOf s c sl (sl.how m true) d (m.code 0) i) fun e s =>
    match addrExc e (typeBytes (dType d)) (typeAlign (dType d)) (m.code 0) i with
    | some x => (.exc x, s)
    | none => (.ok e.toNat, s)

/-- Write destination element `i` of a descriptor: both halves are checked before either is written (R87, R116). The
result is the bytes it has overwritten, as they stood. -/
def writeElem (s : State) (c : Chan) (sl : Slot) (m : Member) (d : BitVec 128) (i : Nat) (v : BitVec 64) :
    Res (List (Nat × Byte)) × State :=
  andThen (destAddr s c sl m d i) fun e s =>
    let t := dType d
    let old := peekBytes s c e (typeBytes t)
    match writeEff s c (sl.how m true) e (leBytes (typeBytes t) (storeVal t m.sat m.uns v)) with
    | (.ok, s) => (.ok old, s)
    | (.fail k a, s) => (.exc (elemExc k a.toNat (m.code 0) i false), s)
    | (.wait, s) => (.wait, s)

/-- Only the checks of `writeElem`, for an in-place element that is written when its strip commits (R99). -/
def checkElem (s : State) (c : Chan) (sl : Slot) (m : Member) (d : BitVec 128) (i : Nat) : Res Unit × State :=
  andThen (destAddr s c sl m d i) fun e s =>
    match checkAccess s c (sl.how m true) e (typeBytes (dType d)) with
    | (.ok _, s) => (.ok (), s)
    | (.fail k a, s) => (.exc (elemExc k a.toNat (m.code 0) i false), s)
    | (.wait, s) => (.wait, s)

/-- Add a complete element. -/
def Slot.put (sl : Slot) (i : Nat) (e : Elem) : Slot := { sl with elems := sl.elems ++ [(i, e)] }

/-- Write zero to a masked-off element; a refusal leaves it unchanged, for it raises nothing (R148). A scatter reads the
element's index to do so (log 43). -/
def writeZero (s : State) (c : Chan) (sl : Slot) (m : Member) (i : Nat) : Res (List (Nat × Byte)) × State :=
  match m.d with
  | .mem d =>
    (match writeElem s c sl m d i 0 with
     | (.exc _, s) => (.ok [], s)
     | r => r)
  | _ => (.ok [], s)

/-- Whether the destination is written only later: a register, or by strips. -/
def Slot.buffers (sl : Slot) (m : Member) : Bool :=
  sl.commits || (match m.d with | .mem _ => false | _ => true)

/-- Element `i` is computed, and written where its destination is written at once. -/
def runElem (s : State) (c : Chan) (sl : Slot) (i : Nat) : Res Slot × State :=
  match sl.last with
  | none => (.wait, s)
  | some m =>
    if sl.writesZero i then
      if sl.buffers m then (.ok (sl.put i ⟨0, 0, false⟩), s)
      else match prepareIndices c i (sl.indexOperands i) sl s with
        | (.wait, _, s) => (.wait, s)
        | (.exc _, sl, s) => (.ok (sl.put i ⟨0, 0, false⟩), s)
        | (.ok _, sl, s) =>
          andThen (writeZero s c sl m i) fun old s => (.ok ((sl.put i ⟨0, 0, false⟩).noteOld old), s)
    else match prepareIndices c i (sl.indexOperands i) sl s with
    | (.wait, _, s) => (.wait, s)
    | (.exc x, _, s) => (.exc x, s)
    | (.ok _, sl, s) =>
      andThen (elemOf s c sl i) fun e s =>
        let t := sl.put i e
        if sl.reduces then (.ok t, s)
        else
          let o := if sl.scans then t.scanOut m i else (0, 0, e.val)
          let t := { sl.put i { e with fl := e.fl ||| o.2.1 } with fl := sl.fl ||| o.1 }
          match m.d, sl.commits with
          | .mem d, false => andThen (writeElem s c sl m d i o.2.2) fun old s => (.ok (t.noteOld old), s)
          | .mem d, true => andThen (checkElem s c sl m d i) fun _ s => (.ok (sl.put i e), s)
          | _, _ => (.ok t, s)

/-- Whether element `i` can run: dispatched, not complete, and in order where the order counts (R103, R110). -/
def Slot.canRun (sl : Slot) (i : Nat) : Bool :=
  sl.started && !sl.isUnit && sl.wm ≤ i && i < sl.dispatched && !sl.complete i && !sl.bad.contains i &&
  (!(sl.ord || sl.scans) || sl.firstOpen (i - sl.wm) sl.wm == i)

end Sys2Proof.Machine
end

