-- ==== Sys2Proof/Machine/SUnit.lean ====
section
/-! DEFINITION. The unit instructions FFT, BPOW and ENV (05 R166-R176). -/
namespace Sys2Proof.Machine

/-- A complex number in two binary32 words, with the flags gathered on the way. -/
structure Cx where
  re : Word
  im : Word
  deriving DecidableEq, Repr

/-- Componentwise sum with its flags. -/
def cAdd (env : FpEnv) (x y : Cx) : Cx × BitVec 5 :=
  let a := fadd env x.re y.re
  let b := fadd env x.im y.im
  (⟨a.val, b.val⟩, a.fl ||| b.fl)

/-- Componentwise difference. -/
def cSub (env : FpEnv) (x y : Cx) : Cx × BitVec 5 :=
  let a := fsub env x.re y.re
  let b := fsub env x.im y.im
  (⟨a.val, b.val⟩, a.fl ||| b.fl)

/-- Multiplication by -i (forward) or +i (inverse), exact. -/
def cRot (inv : Bool) (x : Cx) : Cx := if inv then ⟨fneg x.im, x.re⟩ else ⟨x.im, fneg x.re⟩

/-- tw(x, t) of R172 for a transform of `n` points. -/
def cTwiddle (env : FpEnv) (inv : Bool) (n t : Nat) (x : Cx) : Cx × BitVec 5 :=
  if t = 0 then (x, 0)
  else
    let c := fixFloat (cosTurn t n)
    let sn := fixFloat (sinTurn t n)
    let st := if inv then sn else fneg sn
    let p := fmul env x.im st
    let re := ffma env x.re c (fneg p.val)
    let q := fmul env x.im c
    let im := ffma env x.re st q.val
    (⟨re.val, im.val⟩, p.fl ||| re.fl ||| q.fl ||| im.fl)

/-- A radix-4 butterfly (R171) with stage factor `sj`: the four outputs in position order. -/
def butterfly (env : FpEnv) (inv : Bool) (n sj : Nat) (a0 a1 a2 a3 : Cx) : (Cx × Cx × Cx × Cx) × BitVec 5 :=
  let (t0, f0) := cAdd env a0 a2
  let (t1, f1) := cSub env a0 a2
  let (t2, f2) := cAdd env a1 a3
  let (d, f3) := cSub env a1 a3
  let t3 := cRot inv d
  let (y0, f4) := cAdd env t0 t2
  let (u1, f5) := cAdd env t1 t3
  let (u2, f6) := cSub env t0 t2
  let (u3, f7) := cSub env t1 t3
  let (y1, f8) := cTwiddle env inv n sj u1
  let (y2, f9) := cTwiddle env inv n (2 * sj) u2
  let (y3, f10) := cTwiddle env inv n (3 * sj) u3
  ((y0, y1, y2, y3), f0 ||| f1 ||| f2 ||| f3 ||| f4 ||| f5 ||| f6 ||| f7 ||| f8 ||| f9 ||| f10)

/-- The butterflies of one stage: from the four quarters, the four next sub-transforms. -/
def stage (env : FpEnv) (inv : Bool) (n s : Nat) : (j : Nat) → List Cx → List Cx → List Cx → List Cx →
    (List Cx × List Cx × List Cx × List Cx) × BitVec 5
  | j, a :: as, b :: bs, c :: cs, d :: ds =>
    let ((w, x, y, z), f) := butterfly env inv n (s * j) a b c d
    let ((ws, xs, ys, zs), g) := stage env inv n s (j + 1) as bs cs ds
    ((w :: ws, x :: xs, y :: ys, z :: zs), f ||| g)
  | _, _, _, _, _ => (([], [], [], []), 0)

/-- Interleave four lists: the digit of a stage is the lowest digit of k (R171). -/
def weave4 : List Cx → List Cx → List Cx → List Cx → List Cx
  | a :: as, b :: bs, c :: cs, d :: ds => a :: b :: c :: d :: weave4 as bs cs ds
  | _, _, _, _ => []

/-- The transform of R171 in natural order of k: `y` are the inputs of one sub-transform, `s` its stage factor. -/
def fftList (env : FpEnv) (inv : Bool) (n : Nat) : (fuel s : Nat) → List Cx → List Cx × BitVec 5
  | 0, _, y => (y, 0)
  | k + 1, s, y =>
    let q := y.length / 4
    if y.length = 2 then
      (match y with
       | [a, b] =>
         let (x, f) := cAdd env a b
         let (z, g) := cSub env a b
         ([x, z], f ||| g)
       | l => (l, 0))
    else if y.length < 4 then (y, 0)
    else
      let ((w, x, y', z), f) := stage env inv n s 0 (y.take q) ((y.drop q).take q) ((y.drop (2 * q)).take q) (y.drop (3 * q))
      let (w, g0) := fftList env inv n k (4 * s) w
      let (x, g1) := fftList env inv n k (4 * s) x
      let (y', g2) := fftList env inv n k (4 * s) y'
      let (z, g3) := fftList env inv n k (4 * s) z
      (weave4 w x y' z, f ||| g0 ||| g1 ||| g2 ||| g3)

/-- One transform of 2^h points. -/
def transform (env : FpEnv) (inv : Bool) (y : List Cx) : List Cx × BitVec 5 := fftList env inv y.length 9 1 y

/-- The envelope of one frame (R176). -/
def envelope (env : FpEnv) (h lo hi : Nat) (x : List Word) : List Word × BitVec 5 :=
  let (xf, f) := transform env false (x.map fun w => ⟨w, 0⟩)
  let zf := (List.range xf.length).zip xf |>.map fun (k, c) =>
    if lo ≤ k ∧ k ≤ hi then
      let a := fmul env c.re 0x40000000
      let b := fmul env c.im 0x40000000
      ((⟨a.val, b.val⟩ : Cx), a.fl ||| b.fl)
    else (⟨0, 0⟩, 0)
  let (z, g) := transform env true (zf.map (·.1))
  let y := z.map fun c =>
    let p := power env c.re c.im
    let r := fsqrt env p.val
    let o := fmul env r.val (nearest false 1 (-(h : Int)))
    (o.val, p.fl ||| r.fl ||| o.fl)
  (y.map (·.1), (zf.map (·.2) ++ y.map (·.2)).foldl (· ||| ·) (f ||| g))

/-! ### Units -/

/-- LOG2N of form T. -/
def Member.logN (m : Member) : Nat := m.ext.toNat % 32

/-- Whether an access of the FFT member may be made: it must reach chart memory (R170). -/
def fftReach (s : State) (c : Chan) (sl : Slot) (m : Member) (code : BitVec 4) (i e n : Nat) (wr : Bool) :
    Res Unit × State :=
  match m.op with
  | .fft =>
    (match checkAccess s c (sl.how m wr) e n with
     | (.fail k a, s) => (.exc (elemExc k a.toNat code i false), s)
     | (.wait, s) => (.wait, s)
     | (.ok ps, s) =>
       if ps.all fun p => (match s.target p.1 with | .chart b => b.val < 32 | _ => false) then (.ok (), s)
       else (.exc (elemExc 6 e code i false), s))
  | _ => (.ok (), s)

/-- The input of the unit member for element `i`: through the members before it, then its own operand A. -/
def unitInput (c : Chan) (sl : Slot) (m : Member) (i : Nat) (s : State) : Res Elem × State :=
  andThen (groupElem c sl i 0 sl.members.dropLast ⟨0, 0, false⟩ s) fun e s =>
    match m.a with
    | .mem d =>
      andThen (if dMode d < 2 ∧ addrExc (dBase d + i * dStride d) (typeBytes (dType d)) (typeAlign (dType d)) (m.code 1) i = none then
          fftReach s c sl m (m.code 1) i (dBase d + i * dStride d : Int).toNat (typeBytes (dType d)) false
        else (.ok (), s)) fun _ s =>
      andThen (operandVal s c sl m m.a (m.code 1) i e.val) fun v s =>
        let (x, s) := staged s (s.pipeOf c sl i) m.a (3 * (sl.members.length - 1)) i v.1
        (.ok ⟨x, e.fl ||| v.2, e.dz⟩, s)
    | _ => (.ok e, s)

/-- Write element `i` of the unit member's destination. -/
def unitOut (c : Chan) (sl : Slot) (m : Member) (d : BitVec 128) (iv : Nat × BitVec 64) (s : State) :
    Res Unit × State :=
  andThen (destAddr s c sl m d iv.1) fun e s =>
  andThen (fftReach s c sl m (m.code 0) iv.1 e (typeBytes (dType d)) true) fun _ s =>
  andThen (writeElem s c sl m d iv.1 iv.2) fun _ s => (.ok (), s)

/-- Read element `i` of the unit member's destination back, as working store (R173). -/
def unitBack (c : Chan) (sl : Slot) (m : Member) (d : BitVec 128) (i : Nat) (s : State) : Res (BitVec 64) × State :=
  andThen (destAddr s c sl m d i) fun e s =>
  andThen (fftReach s c sl m (m.code 0) i e (typeBytes (dType d)) false) fun _ s =>
  andThen (readAt s c (sl.how m false) (m.code 0) i e (typeBytes (dType d)) (typeAlign (dType d))) fun v s =>
    (.ok (BitVec.ofNat 64 v), s)

/-- What the first pass of a large transform writes for element `i` is not stated: a free value (log 54). -/
def unitPass (c : Chan) (sl : Slot) (m : Member) (d : BitVec 128) (i : Nat) (s : State) : Res Unit × State :=
  unitOut c sl m d (i, Config.freeBits 64 s.free) { s with free := s.free + 1 }

/-- From 4,096 points on the destination of an FFT serves as working store: inputs from a relay are written into it first
and taken from it, and the first of two passes goes through it. The result is the inputs the transform takes (R173). -/
def workStore (c : Chan) (sl : Slot) (m : Member) (idx : List Nat) (xs : List (BitVec 64)) (s : State) :
    Res (List (BitVec 64)) × State :=
  match m.op, m.d with
  | .fft, .mem d =>
    if m.logN < 12 then (.ok xs, s)
    else
      let relayed := match m.a with | .mem _ => false | _ => true
      let ins := xs.map fun v => if m.cls = .X then v else lw (vlo v)
      andThen (if relayed then andThen (forEach (unitOut c sl m d) (idx.zip ins) s) fun _ s => forEach (unitBack c sl m d) idx s
        else (.ok xs, s)) fun ys s =>
      andThen (forEach (unitPass c sl m d) idx s) fun _ s =>
      andThen (forEach (unitBack c sl m d) idx s) fun _ s => (.ok ys, s)
  | _, _ => (.ok xs, s)

/-- Consecutive frames of `n` values. -/
def frames (n : Nat) : (k : Nat) → List (BitVec 64) → List (List (BitVec 64))
  | 0, _ => []
  | k + 1, l => l.take n :: frames n k (l.drop n)

/-- The total of a band: blocks of 256 folded in order (R175). -/
def bandFold (env : FpEnv) (m : Member) : (k : Nat) → (blocks : Nat) → List Entry → List (BitVec 64) →
    BitVec 5 × List Entry
  | 0, _, carry, _ => (0, carry)
  | k + 1, blocks, carry, l =>
    match l with
    | [] => (0, carry)
    | _ =>
      match blockTotal env m ((l.take 256).map some) with
      | some (f, t) =>
        (match foldCarry env m blocks carry t with
         | some (g, carry) =>
           let (x, r) := bandFold env m k (blocks + 1) carry (l.drop 256)
           (f ||| g ||| x, r)
         | none => (0, carry))
      | none => (0, carry)

/-- The value of a band of a frame; a band of no elements gives zero. -/
def bandSum (env : FpEnv) (m : Member) (l : List (BitVec 64)) : BitVec 5 × BitVec 64 :=
  let (f, carry) := bandFold env m (l.length / 256 + 1) 0 noCarry l
  match carryResult env m carry with
  | some (g, v) => (f ||| g, v.getD 0)
  | none => (f, 0)

/-- The words of the band table, read for the unit whose first element is `first` (R174). -/
def bandTable (c : Chan) (sl : Slot) (m : Member) (first : Nat) (s : State) : Res (List Nat) × State :=
  match m.b with
  | .mem d => forEach (fun k s => andThen (operandVal s c sl m (.mem d) (m.code 2) k 0) fun v s =>
        let (x, s) := staged s (s.pipeOf c sl first) (.mem d) (3 * (sl.members.length - 1) + 1) k v.1
        (.ok (vlo x).toNat, s))
      (List.range (2 * m.gval.toNat)) s
  | _ => (.ok [], s)

/-- What a unit member writes for the inputs of one unit whose first element is `first`: destination elements with
their values, and the flags. -/
def unitResult (sl : Slot) (m : Member) (first : Nat) (x : List (BitVec 64)) (table : List Nat) :
    Res (List (Nat × BitVec 64) × BitVec 5) :=
  let n := 2 ^ m.logN
  let fs := frames n (x.length / n) x
  match m.op with
  | .fft =>
    let rs := fs.map fun f => transform sl.env (m.ext.getLsbD 5) (f.map fun v =>
      if m.cls = .X then ⟨vlo v, vhi v⟩ else ⟨vlo v, 0⟩)
    let out := rs.flatMap fun r => r.1.map fun c => vpair c.re c.im
    .ok (((List.range out.length).map (first + ·)).zip out, rs.foldl (fun f r => f ||| r.2) 0)
  | .env =>
    let rs := fs.map fun f => envelope sl.env m.logN (wfld m.gval 15 0) (wfld m.gval 31 16) (f.map vlo)
    let out := rs.flatMap fun r => r.1.map lw
    .ok (((List.range out.length).map (first + ·)).zip out, rs.foldl (fun f r => f ||| r.2) 0)
  | _ =>
    let nb := m.gval.toNat
    let bands := (List.range nb).map fun b => (table.getD (2 * b) 0, table.getD (2 * b + 1) 0)
    match bands.findIdx? fun b => b.1 + b.2 > n with
    | some _ => .exc (laneExc m 6 0 first)
    | none =>
      let rs := fs.flatMap fun f => bands.map fun b => bandSum sl.env m ((f.drop b.1).take b.2)
      .ok (((List.range rs.length).map (first / n * nb + ·)).zip (rs.map (·.2)), rs.foldl (fun f r => f ||| r.1) 0)

/-- A fault in any access of a unit belongs to its first element (R168). -/
def firstOfUnit {α : Type} (first : Nat) (r : Res α × State) : Res α × State :=
  match r with
  | (.exc x, s) => (.exc { x with elem := some (BitVec.ofNat 32 first) }, s)
  | r => r

/-- Process unit `u`: read and compute everything, then write the destination, which may have served as working store
(R166-R168, R173). R174 does not say which access's exception a unit of BPOW reports when several fail: DESIGN CHOICE of the
model (log 42), the band table B is read whole, then the spectrum A, and start + count > N is tested last. -/
def runUnit (s : State) (c : Chan) (sl : Slot) (u : Nat) : Res Slot × State :=
  match sl.last with
  | none => (.wait, s)
  | some m =>
    let first := u * sl.strip
    let n := min sl.count (first + sl.strip) - first
    firstOfUnit first (
      andThen (bandTable c sl m first s) fun table s =>
      andThen (forEach (unitInput c sl m) ((List.range n).map (first + ·)) s) fun xs s =>
      andThen (workStore c sl m ((List.range n).map (first + ·)) (xs.map (·.val)) s) fun ins s =>
        match unitResult sl m first ins table, m.d with
        | .ok (out, fl), .mem d =>
          andThen (forEach (unitOut c sl m d) out s) fun _ s =>
            let e : Elem := ⟨0, xs.foldl (fun f x => f ||| x.fl) fl, xs.any (·.dz)⟩
            (.ok (sl.put first e), s)
        | .exc x, _ => (.exc x, s)
        | _, _ => (.wait, s))

/-- Whether unit `u` is done. -/
def Slot.unitDone (sl : Slot) (u : Nat) : Bool := u * sl.strip < sl.wm || sl.elems.any (·.1 == u * sl.strip)

/-- Move WM over complete units; their flags count (R168). -/
def Slot.advanceUnits (sl : Slot) : (n : Nat) → Slot
  | 0 => sl
  | n + 1 =>
    match sl.elems.find? (·.1 == sl.wm) with
    | some e =>
      Slot.advanceUnits { sl with
        wm := min sl.count (sl.wm + sl.strip), fl := sl.fl ||| e.2.fl, dz := sl.dz || e.2.dz
        elems := sl.elems.filter (·.1 != sl.wm) } n
    | none => sl

/-- Whether unit `u` can run. -/
def Slot.canUnit (sl : Slot) (u : Nat) : Bool :=
  sl.started && sl.isUnit && u < sl.next && u * sl.strip < sl.count && !sl.unitDone u && !sl.bad.contains (u * sl.strip)

end Sys2Proof.Machine
end

