-- ==== Sys2Proof/Machine/SProg.lean ====
section
/-! DEFINITION. How stream instructions progress: dispatch to pipes, completion of elements, strips and units, faults,
retirement, and the end of a drain (01 R17-R23, 03 R75-R113). -/
namespace Sys2Proof.Machine

/-! ### Pipes (R18, R21, R75) -/

/-- Whether the slot has a strip or unit to dispatch: an instruction that carries ORD keeps one pipe (R103). -/
def Slot.ready (sl : Slot) (busy : Bool) : Bool :=
  sl.started && sl.fault.isNone && sl.next * sl.strip < sl.count && !(sl.ord && busy)

/-- Whether a pipe is at work on a slot. -/
def State.working (s : State) (c : Chan) (sid : Nat) : Bool :=
  s.pipes.toList.any fun p => match p.work with | some (d, i, _) => d == c && i == sid | none => false

/-- The oldest instruction of a channel that pipe `p` may take a strip of. -/
def State.offer (s : State) (p : Pipe) (c : Chan) : Option Slot :=
  let ch := s.chan c
  if bit ch.pmask p.val && !ch.mute then ch.slots.find? fun sl => sl.ready (s.working c sl.sid) else none

/-- The channels in the order in which the round robin asks them: the one being served while its weight lasts, then
those after it, itself last. -/
def PipeSt.askOrder (p : PipeSt) (weight : Nat) : List Chan :=
  let rest := (List.range 16).map fun k => (⟨(p.turn.val + 1 + k) % 16, by omega⟩ : Chan)
  if p.served < weight then p.turn :: rest else rest

/-- Pipe `p` takes strip `k` of a slot: it loads the microprogram unless it still holds it, its slices run it, and the
buffers are those of the new strip (R16, R21, R31). -/
def loadStrip (s : State) (p : Pipe) (c : Chan) (sl : Slot) (served : Nat) : State :=
  let x := s.pipes[p]
  let s : State := { s with pipes := s.pipes.set p { x with
    work := some (c, sl.sid, sl.next), turn := c, served := served, prog := some (c, sl.sid)
    relay := .replicate 2 [], stage := [] } }
  runPipeGroup s p sl.members

/-- The slot once one more of its strips is dispatched: WM passes the masked-off elements that it meets there, for they count
as complete (R85, R148). -/
def Slot.dispatch (sl : Slot) : Slot :=
  let t := { sl with next := sl.next + 1 }
  if sl.isUnit then t else t.progress.1

/-- A free pipe takes the next strip (R18, R21). -/
def takeStrip (s : State) (p : Pipe) : State :=
  let ps := s.pipes[p]
  if ps.work.isSome then s
  else match (ps.askOrder (s.chan ps.turn).weight).find? fun c => (s.offer p c).isSome with
    | none => s
    | some c =>
      match s.offer p c with
      | none => s
      | some sl =>
        let served := if c = ps.turn ∧ ps.served < (s.chan c).weight then ps.served + 1 else 1
        (loadStrip s p c sl served).modChan c fun ch => { ch with slots := ch.slots.map fun x =>
          if x.sid = sl.sid then x.dispatch else x }

/-- Every free pipe takes a strip if there is one. -/
def assignPipes (s : State) : State := (List.finRange 32).foldl takeStrip s

/-! ### Slots -/

/-- Put a changed slot back where it is: in flight, or in a drain. -/
def Channel.putSlot (ch : Channel) (sl : Slot) : Channel :=
  let f := fun (l : List Slot) => l.map fun x => if x.sid = sl.sid then sl else x
  { ch with slots := f ch.slots, drains := ch.drains.map fun d => { d with slots := f d.slots } }

/-- The slot of this number, and whether it is draining. -/
def Channel.findSlot (ch : Channel) (sid : Nat) : Option (Slot × Bool) :=
  match ch.slots.find? (·.sid == sid) with
  | some sl => some (sl, false)
  | none => ((ch.drains.flatMap (·.slots)).find? (·.sid == sid)).map (·, true)

/-- The head faults: the exception is taken at it (R85). -/
def headFault (s : State) (c : Chan) (x : Exc) : State := takeExc s c x (s.chan c).pc

/-- The elements a fault spoils: the one to which it belongs, and the one whose command met it (R138, R209). -/
def spoiled (i : Nat) (x : Exc) : List Nat :=
  match x.elem with
  | some e => if e.toNat = i then [i] else [e.toNat, i]
  | none => [i]

/-- Hold the fault of an instruction: its dispatch stops; at the head it is raised (R85, R88). -/
def faultSlot (s : State) (c : Chan) (sl : Slot) (i : Nat) (x : Exc) : State :=
  let first := sl.fault.isNone
  let s := s.modChan c fun ch => ch.putSlot
    { sl with bad := sl.bad ++ spoiled i x, fault := if first then some (i, x) else sl.fault }
  match (s.chan c).slots with
  | h :: _ => if h.sid = sl.sid then headFault s c x else s
  | [] => s

/-- A fault during a drain: that of the drained head is recorded in the Logbook under the element it belongs to, a
younger instruction's is discarded (R92). -/
def drainFault (s : State) (c : Chan) (sl : Slot) (i : Nat) (x : Exc) : State :=
  let s := s.modChan c fun ch => ch.putSlot { sl with bad := sl.bad ++ spoiled i x }
  if (s.chan c).drains.any fun d => (d.slots.head?.map (·.sid)) == some sl.sid then
    formRecord s 1 2 (0x200 + c.val) [sl.pc, (x.elem.getD (BitVec.ofNat 32 i)), x.addr, BitVec.ofNat 32 x.vec]
  else s

/-- A fault of an element, in flight or in a drain. -/
def slotFault (s : State) (c : Chan) (sl : Slot) (drained : Bool) (i : Nat) (x : Exc) : State :=
  if drained then drainFault s c sl i x else faultSlot s c sl i x

/-- Put a slot back with what its complete elements bring about; a block whose sum does not fit is a fault of the block's
first element (R209), met once. -/
def putProgress (s : State) (c : Chan) (sl : Slot) (drained : Bool) : State :=
  match sl.progress with
  | (t, none) => s.modChan c fun ch => ch.putSlot t
  | (t, some x) => if t.bad.contains t.wm then s.modChan c fun ch => ch.putSlot t else slotFault s c t drained t.wm x

/-! ### Start (R75, R89, R111, R122, R130, R132, R159) -/

/-- The carry record of a stream reduction or scan: its member, base and operand position. -/
def Slot.record (sl : Slot) : Option (Member × Nat × Nat) :=
  match sl.last with
  | some m =>
    (match m.op.reduces, m.op.scans, m.d, m.c with
     | true, _, .mem d, _ => some (m, dBase d, 0)
     | _, true, _, .mem d => some (m, dBase d, 3)
     | _, _, _, _ => none)
  | none => none

/-- The checks of R126 that stand before translation on an access at the start: its range, then the alignment of the
address it is reckoned from. -/
def startExc (sl : Slot) (code : BitVec 4) (e n base align : Nat) : Option Exc :=
  if e + n > 2 ^ 32 then some (elemExc 4 e code sl.wm false)
  else if base % align ≠ 0 then some (elemExc 3 e code sl.wm false)
  else none

/-- The checks that fault element WM at the start: the index stream, the revolution table and the carry record (R122,
R126, R130, R159). R126 orders the checks of one access and not those of several: DESIGN CHOICE of the model (log 42), the
range and the alignment of A, B, C, D and then of the carry record are tested before any of them is translated. -/
def Slot.startAlign (sl : Slot) : Option Exc :=
  let rec3 := sl.record.bind fun (m, b, k) => startExc sl (m.code k) b 1 b 256
  let ops := sl.memOperands.findSome? fun (m, d, k) =>
    if dMode d = 2 ∧ dfld d 76 76 = 0 then
      startExc sl (m.code k) (dParam d + (if k = 2 then m.bIndex sl.wm else sl.wm) * indexBytes d) (indexBytes d)
        (dParam d) (indexBytes d)
    else if dMode d = 3 then startExc sl (m.code k) (dParam d) 32 (dParam d) 64
    else none
  match ops with
  | some x => some x
  | none => rec3

/-- Read and check the header of the revolution table (R130, R132). -/
def readHeader (s : State) (c : Chan) (sl : Slot) : Res Slot × State :=
  match sl.memOperands.find? fun (_, d, _) => dMode d == 3 with
  | none => (.ok sl, s)
  | some (m, d, k) =>
    match readEff s c (sl.how m false) (dParam d) 32 with
    | (.fail v a, s) => (.exc (elemExc v a.toNat (m.code k) sl.wm false), s)
    | (.wait, s) => (.wait, s)
    | (.ok l, s) =>
      let count := leAt l 4 4
      let dmin := leAt l 12 4
      let dmax := leAt l 16 4
      if leAt l 0 2 = 1 ∧ leAt l 2 2 = 0 ∧ leAt l 20 12 = 0 ∧ 2 ≤ count ∧ count ≤ 2 ^ 24 ∧ 2 ≤ dmin ∧ dmin ≤ dmax ∧
          dmax ≤ 65535 then
        (.ok { sl with hdr := some (count, leAt l 8 4, dmin, dmax) }, s)
      else (.exc (laneExc m 6 0 sl.wm), s)

/-- Read the carry entries of the blocks already folded (R111); a level whose blocks were all absent is absent (log 44). -/
def readCarry (s : State) (c : Chan) (sl : Slot) : Res Slot × State :=
  match sl.record with
  | none => (.ok sl, s)
  | some (m, b, k) =>
    andThen (forEach (fun i s =>
        if sl.blocks / 2 ^ i % 2 = 1 then
          andThen (readAt s c (sl.how m false) (m.code k) sl.wm (b + 16 + 8 * i : Nat) 8 1) fun v s =>
            (.ok (if BitVec.ofNat 64 v = Config.absentEntry then none else some (BitVec.ofNat 64 v)), s)
        else (.ok none, s)) (List.range 25) s) fun carry s => (.ok { sl with carry := carry }, s)

/-- What a start reads and checks before the first element is dispatched. -/
def beginSlot (s : State) (c : Chan) (sl : Slot) : Res Slot × State :=
  match sl.startAlign with
  | some x => (.exc x, s)
  | none => andThen (readHeader s c sl) fun sl s => readCarry s c sl

/-- A stream reduction or scan that is resumed past its last element has still to read its carry (R111). -/
def Slot.mustRead (sl : Slot) : Bool := sl.record.isSome && 0 < sl.blocks && !sl.started

/-- Whether the slot may begin to dispatch (R63, R75, R76, R77). -/
def canStart (s : State) (c : Chan) (sl : Slot) : Bool :=
  let ch := s.chan c
  let older := ch.slots.takeWhile (·.sid != sl.sid)
  ch.stq.all (fun e => decide (sl.sid ≤ e.after)) && older.all (fun x => !conflict x sl) &&
  (!(sl.ord || sl.inPlace) || older.isEmpty) && (sl.wm < sl.count || sl.mustRead) &&
  (List.finRange 32).any fun p => bit ch.pmask p.val && s.pipes[p].work.isNone

/-- STREAM_DISPATCH_START: an instruction begins to dispatch. -/
def startSlot (s : State) (c : Chan) (sl : Slot) : State :=
  if sl.started then assignPipes s
  else if (s.chan c).mute || !canStart s c sl then s
  else match beginSlot s c sl with
    | (.wait, _) => s
    | (.exc x, s) => faultSlot s c { sl with started := true } sl.wm x
    | (.ok sl, s) =>
      let s := runSmsGroup s sl.members
      assignPipes (s.modChan c fun ch => ch.putSlot { sl with started := true })

/-- STREAM_DISPATCH_START. -/
def execStreamDispatchStart (c : Chan) (sid : Nat) (s : State) : Host.Outcome State Fault Refusal :=
  .next (match (s.chan c).slots.find? (·.sid == sid) with
    | some sl => startSlot s c sl
    | none => s)

/-! ### Completion -/

/-- ELEMENT_COMPLETE: an element is complete, and WM follows. -/
def execElementComplete (c : Chan) (sid i : Nat) (s : State) : Host.Outcome State Fault Refusal :=
  .next (match (s.chan c).findSlot sid with
    | none => s
    | some (sl, drained) =>
      if !sl.canRun i || (s.chan c).mute then s
      else match runElem s c sl i with
        | (.ok sl, s) => putProgress s c sl drained
        | _ => s)

/-- ELEMENT_FAULT: an element, or the unit it lies in, faults. -/
def execElementFault (c : Chan) (sid i : Nat) (s : State) : Host.Outcome State Fault Refusal :=
  .next (match (s.chan c).findSlot sid with
    | none => s
    | some (sl, drained) =>
      let unit := i / sl.strip
      if (s.chan c).mute then s
      else if sl.isUnit then
        (if drained || !sl.canUnit unit then s
         else match runUnit s c sl unit with
           | (.exc x, s) => faultSlot s c sl (unit * sl.strip) x
           | _ => s)
      else if !sl.canRun i then s
      else match runElem s c sl i with
        | (.exc x, t) => slotFault t c (indicesRead s c sl i) drained i x
        | _ => s)

/-- UNIT_COMPLETE: a unit's last destination write has been performed (R168). -/
def execUnitComplete (c : Chan) (sid u : Nat) (s : State) : Host.Outcome State Fault Refusal :=
  .next (match (s.chan c).slots.find? (·.sid == sid) with
    | none => s
    | some sl =>
      if !sl.canUnit u || (s.chan c).mute then s
      else match runUnit s c sl u with
        | (.ok sl, s) => s.modChan c fun ch => ch.putSlot (sl.advanceUnits (sl.count / sl.strip + 1))
        | _ => s)

/-- What an instruction that commits by strips writes for element `i`: flags that belong to lower elements, its own, and the value. -/
def Slot.commitVal (sl : Slot) (m : Member) (i : Nat) (e : Elem) : BitVec 5 × BitVec 5 × BitVec 64 :=
  if sl.scans then sl.scanOut m i else (0, 0, e.val)

/-- Commit elements of such an instruction, in order (R99, R100): the slot gathers their flags (R201) and what they
have overwritten. -/
def commitElems (c : Chan) (m : Member) (d : BitVec 128) : List Nat → Slot → State → Res Slot × State
  | [], sl, s => (.ok sl, s)
  | i :: is, sl, s =>
    if sl.writesZero i then
      andThen (writeZero s c sl m i) fun old s => commitElems c m d is (sl.noteOld old) s
    else match sl.elems.find? (·.1 == i) with
      | some e =>
        let o := sl.commitVal m i e.2
        andThen (writeElem s c sl m d i o.2.2) fun old s =>
          commitElems c m d is { sl.noteOld old with fl := sl.fl ||| o.1 ||| o.2.1 } s
      | none => commitElems c m d is sl s

/-- Commit the strip of elements `lo` to `hi - 1` of an instruction that commits by strips: WM passes it and no further (R99);
a scan folds its block (R110). -/
def commitStrip (s : State) (c : Chan) (sl : Slot) (m : Member) (d : BitVec 128) (lo hi : Nat) : Res Slot × State :=
  andThen (commitElems c m d ((List.range (hi - lo)).map (lo + ·)) sl s) fun sl s =>
    (.ok (if !sl.scans then sl.passTo hi
          else match sl.fold m with
            | .done t => t
            | _ => sl.passTo hi), s)

/-- The strip that a pipe runs is done, and what its completion leaves; `none` while it is not. A scan that commits by strips
keeps a last strip of fewer than 256 elements for its retirement, since WM stays a multiple of 256 until then (R111). -/
def endStrip (s : State) (c : Chan) (sl : Slot) (k : Nat) : Option State :=
  let lo := max (k * sl.strip) sl.startAt
  let hi := min sl.count ((k + 1) * sl.strip)
  if sl.isUnit then (if sl.unitDone k then some s else none)
  else if sl.firstOpen (hi - lo) lo < hi then none
  else match sl.commits && !sl.reduces, sl.last with
    | true, some m =>
      if sl.wm < lo then none
      else if sl.commitsLate && hi == sl.count then some s
      else (match m.d with
        | .mem d =>
          (match commitStrip s c sl m d lo hi with
           | (.ok t, s) => some (s.modChan c fun ch => ch.putSlot t)
           | (.exc x, s) => some (faultSlot s c sl lo x)
           | (.wait, _) => none)
        | _ => some s)
    | _, _ => some (putProgress s c sl false)

/-- Pipe `p` has no strip any more; it keeps its microprogram (R21). -/
def freePipe (s : State) (p : Pipe) : State := { s with pipes := s.pipes.set p { s.pipes[p] with work := none } }

/-- STRIP_COMPLETE: a pipe finishes its strip and takes the next one. A strip that drains holds its pipe until the drain
ends, and is not committed (R92, R99). -/
def execStripComplete (p : Pipe) (s : State) : Host.Outcome State Fault Refusal :=
  .next (match s.pipes[p].work with
    | none => s
    | some (c, sid, k) =>
      if (s.chan c).mute then s else
      match (s.chan c).findSlot sid with
      | none => assignPipes (freePipe s p)
      | some (_, true) => s
      | some (sl, false) =>
        match endStrip s c sl k with
        | none => s
        | some s => assignPipes (freePipe s p))

/-! ### Retirement (R79, R109, R111, R160) -/

/-- Elements `lo..` of a V register, or bits of an M register, as buffered values leave them. -/
def Channel.writeRegs (ch : Channel) (d : Opnd) (vals : List (Nat × BitVec 64)) : Channel :=
  match d with
  | .vreg r => { ch with v := ch.v.set r (vals.foldl (fun (x : BitVec 8192) (i, w) =>
      (x &&& ~~~ ((BitVec.zeroExtend 8192 0xFFFFFFFF#32) <<< (32 * i))) ||| ((vlo w).zeroExtend 8192 <<< (32 * i))) ch.v[r]) }
  | .mreg r => { ch with m := ch.m.set r (vals.foldl (fun (x : BitVec 256) (i, w) =>
      if w.getLsbD 0 then x ||| (1#256 <<< i) else x &&& ~~~ (1#256 <<< i)) ch.m[r]) }
  | _ => ch

/-- The values that a register destination receives from the complete elements. Of a scan with WIDE a V register takes
the low words (log 45). -/
def Slot.regVals (sl : Slot) (m : Member) : List (Nat × BitVec 64) :=
  sl.elems.map fun (i, e) =>
    (i, if sl.scans && !sl.maskedOff i then ({ sl with carry := noCarry }.scanOut m i).2.2 else e.val)

/-- The result of a reduction or scan (R109, R162); `none` when it does not fit. -/
def Slot.result (sl : Slot) (m : Member) : Option (BitVec 5 × BitVec 64) :=
  (carryResult sl.env m sl.carry).map fun (f, v) => (f, v.getD (emptyResult m))

/-- Entries of the carry record from level `i` on: a level that BLOCKS does not show has no stated value (log 1), one
whose blocks were all absent shows that (log 44). -/
def carryEntries (blocks : Nat) : (i : Nat) → List Entry → State → List Byte × State
  | _, [], s => ([], s)
  | i, e :: es, s =>
    let (l, s) := if blocks / 2 ^ i % 2 = 1 then (leBytes 8 (e.getD Config.absentEntry).toNat, s) else s.freeBytes 8
    let (ls, s) := carryEntries blocks (i + 1) es s
    (l ++ ls, s)

/-- Bytes 8 to 255 of the carry record (R111). -/
def carryBytes (s : State) (sl : Slot) : List Byte × State :=
  let (l, s) := carryEntries sl.blocks 0 sl.carry s
  (leBytes 4 sl.blocks ++ leBytes 4 0 ++ l ++ leBytes 40 0, s)

/-- Write bytes of the carry record from offset `off` on. -/
def writeRecord (s : State) (c : Chan) (sl : Slot) (m : Member) (base off : Nat) (bs : List Byte) : Stored × State :=
  writeLongSure 6 s c (sl.how m true) (base + off) bs

/-- The head has retired: its flags are merged, its slots are free, and what waited for it goes on: the held fault of
the new head, a scalar instruction's held exception, a stop or quiesce (R79, R82, R88). -/
def retired (s : State) (c : Chan) (sl : Slot) : State :=
  let was := (s.chan c).quiet
  let dz := fun (w : Word) => if sl.dz then wbit w 6 true else w
  let snap := fun (x : Slot) => { x with snap := { x.snap with csw := dz x.snap.csw } }
  let s := s.modChan c fun ch =>
    { ch with
        fsw := ch.fsw ||| sl.fl.zeroExtend 32
        csw := dz ch.csw
        slots := (ch.slots.drop 1).map snap
        group := ch.group.map snap }
  let s := assignPipes (noteQuiet was s c)
  match (s.chan c).slots with
  | h :: _ =>
    (match h.fault with
     | some (_, x) => headFault s c x
     | none => settle s c)
  | [] =>
    match (s.chan c).heldX with
    | some (x, pc) => takeHeld s c x pc
    | none => settle s c

/-- The first element of the last block. -/
def Slot.lastBlock (sl : Slot) : Nat := (sl.count - 1) / 256 * 256

/-- Retirement of a reduction or scan is refused: a fault of the first element of the last block (R209). WM stays where it
is: at that element, or past a last block that has been folded and is not processed again (R111). -/
def refuseHead (s : State) (c : Chan) (sl : Slot) (x : Exc) : State :=
  faultSlot s c sl sl.lastBlock { x with elem := some (BitVec.ofNat 32 sl.lastBlock) }

/-- The last strip of a scan that commits by strips and ends within a block: committed once its result is written. -/
def commitLast (s : State) (c : Chan) (sl : Slot) (m : Member) : Res Slot × State :=
  match sl.commitsLate, m.d with
  | true, .mem d => commitElems c m d ((List.range (sl.count - sl.wm)).map (sl.wm + ·)) sl s
  | _, _ => (.ok sl, s)

/-- RESULT as it stands in a carry record (R111). -/
def resultBytes (m : Member) (v : BitVec 64) : List Byte :=
  if m.wide || m.op == .drsum then leBytes 8 v.toNat else leBytes 4 v.toNat ++ leBytes 4 0

/-- Write the result of a reduction or scan, and retire it (R109, R111, R160); `sl` is the slot before its last block was
folded, `t` after. -/
def retireResult (s : State) (c : Chan) (sl t : Slot) (m : Member) (v : BitVec 64) : State :=
  match sl.record with
  | none =>
    let vals := if m.op.scans then t.regVals m else (0, lw (vlo v)) :: (if m.wide then [(1, lw (vhi v))] else [])
    retired (s.modChan c fun ch => ch.writeRegs m.d vals) c t
  | some (_, base, k) =>
    let (bs, s') := carryBytes s t
    match writeRecord s' c t m base 0 (resultBytes m v ++ bs) with
    | (.ok, s') =>
      (match commitLast s' c sl m with
       | (.ok u, s) => retired s c { t with fl := t.fl ||| u.fl }
       | (.exc x, s) => faultSlot s c sl sl.wm x
       | (.wait, _) => s)
    | (.fail vec a, s) => refuseHead s c sl (elemExc vec a.toNat (m.code k) 0 false)
    | (.wait, _) => s

/-- Retire the head, all of whose elements are complete. -/
def retireHead (s : State) (c : Chan) (sl : Slot) (m : Member) : State :=
  if m.op.reduces || m.op.scans then
    match sl.foldLast m with
    | .open => s
    | .fault x => refuseHead s c sl x
    | .done t =>
      match t.result m with
      | none => refuseHead s c sl (laneExc m 14 2 0)
      | some (f, v) => retireResult s c sl { t with fl := t.fl ||| f } m v
  else
    match m.d with
    | .mem _ => retired s c sl
    | d => retired (s.modChan c fun ch => ch.writeRegs d (sl.regVals m)) c sl

/-- Whether every element is complete: those of a reduction or scan await only the fold, and where it commits by strips the
commit, of a last block; those of any other instruction that commits by strips are committed (R79, R99, R106). -/
def Slot.finished (sl : Slot) : Bool :=
  if sl.reduces || (sl.scans && !sl.commits) || (sl.commitsLate && sl.count < sl.wm + 256) then
    sl.dispatched ≥ sl.count && sl.firstOpen (sl.count - sl.wm) sl.wm ≥ sl.count
  else sl.wm ≥ sl.count

/-- STREAM_RETIRE: the head, complete, retires (R79, R84). -/
def execStreamRetire (c : Chan) (s : State) : Host.Outcome State Fault Refusal :=
  .next (match (s.chan c).slots with
    | sl :: _ =>
      if sl.finished && !sl.mustRead && !(s.chan c).mute && sl.fault.isNone && !s.working c sl.sid then
        (match sl.last with
         | some m => retireHead s c sl m
         | none => s)
      else s
    | [] => s)

/-! ### The end of a drain (R92-R96, R111) -/

/-- Write one word of the frame with the key of the entry's stack (R96). -/
def frameWrite (s : State) (c : Chan) (skey : BitVec 4) (a : Word) (w : Word) : Stored × State :=
  writeEffSure s c (supervisorHow skey .wr true) a.toNat (wordBytes w)

/-- Write the final WM, and the divide-by-zero flag, into the frame; a failure locks the channel up with cause 7h, that of
the CSW word included (R92, R96, log 46). `none`: the write has to wait. -/
def endFrame (s : State) (c : Chan) (addr : Word) (skey : BitVec 4) (wm : Word) (dz : Bool) : Option State :=
  match frameWrite s c skey (addr + 8) wm with
  | (.fail _ a, s) => some (lockUp s c 7 a)
  | (.wait, _) => none
  | (.ok, s) =>
    if !dz then some s
    else match readEff s c (supervisorHow skey .rd false) (addr.toNat + 4) 4 with
      | (.ok l, s) =>
        (match frameWrite s c skey (addr + 4) (wbit (bytesWord l) 6 true) with
         | (.fail _ a, s) => some (lockUp s c 7 a)
         | (.wait, _) => none
         | (.ok, s) => some s)
      | (.fail _ a, s) => some (lockUp s c 7 a)
      | (.wait, _) => none

/-- Write parts of the carry record; a failure locks the channel up with cause 9h (R96). `none`: a write has to wait. -/
def drainRecord (c : Chan) (sl : Slot) (m : Member) (base : Nat) : List (Nat × List Byte) → State → Option State
  | [], s => some s
  | (off, bs) :: l, s =>
    match writeRecord s c sl m base off bs with
    | (.fail _ a, s) => some (lockUp s c 9 a)
    | (.wait, _) => none
    | (.ok, s) => drainRecord c sl m base l s

/-- The carry record at the end of a drain, for the blocks below the final WM (R96, R111). While nothing has been dispatched
since a resumption the entries are those that the record holds, and stay. A record that has failed its own check at the
start is none to write (log 21), and an instruction of no elements has none (R84). -/
def endRecord (s : State) (c : Chan) (sl : Slot) : Option State :=
  match sl.record with
  | some (m, base, k) =>
    if sl.count = 0 || (startExc sl (m.code k) base 1 base 256).isSome then some s
    else if sl.blocks = 0 || sl.startAt / 256 < sl.next then
      let (bs, s) := carryBytes s sl
      drainRecord c sl m base [(8, bs)] s
    else drainRecord c sl m base [(8, leBytes 4 sl.blocks ++ leBytes 4 0), (216, leBytes 40 0)] s
  | none => some s

/-- The registers of a drained head that is written as its elements complete (R91). -/
def endRegs (ch : Channel) (sl : Slot) : Channel :=
  match sl.last with
  | some m => (match m.d with | .mem _ => ch | d => if sl.r91 then ch else ch.writeRegs d (sl.regVals m))
  | none => ch

/-- The pipes of a drained slot are free, and what stood in their relay buffers is discarded (R106). -/
def freePipes (s : State) (c : Chan) (d : Drain) : State :=
  { s with pipes := s.pipes.map fun p => match p.work with
      | some (e, sid, _) =>
        if e = c ∧ d.slots.any (·.sid == sid) = true then { p with work := none, relay := .replicate 2 [] } else p
      | none => p }

/-- A drain ends; a write that has to wait leaves it as it is, to end later. -/
def endDrain (s : State) (c : Chan) (d : Drain) (sl : Slot) : State :=
  let sl := sl.progress.1
  let wm := BitVec.ofNat 32 sl.w0
  let dz := sl.dz && !sl.r91
  let t := freePipes (s.modChan c fun ch =>
    { endRegs ch sl with
        drains := ch.drains.filter (·.id != d.id)
        fsw := if sl.r91 then ch.fsw else ch.fsw ||| sl.fl.zeroExtend 32 }) c d
  match endRecord t c sl with
  | none => s
  | some t =>
    match (match d.dest with
      | .frame addr skey => if (t.chan c).st = .lockedUp then some t else endFrame t c addr skey wm dz
      | .stop => some (t.modChan c fun ch => { ch with wm := wm, csw := if dz then wbit ch.csw 6 true else ch.csw })
      | .nowhere => some t) with
    | none => s
    | some t => assignPipes (finishHalts (finishStops (noteQuiet (s.chan c).quiet t c) c))

/-- DRAIN_END: drain number `k` of the channel ends. -/
def execDrainEnd (c : Chan) (k : Nat) (s : State) : Host.Outcome State Fault Refusal :=
  .next (if (s.chan c).mute then s else match (s.chan c).drains[k]? with
    | some d => (match d.slots with | sl :: _ => endDrain s c d sl | [] => s)
    | none => s)

end Sys2Proof.Machine
end

