-- ==== Sys2Proof/Machine/Events.lean ====
section
/-! DEFINITION. Events at a channel: recognition, windows, counters, and the event controller's registers
(08 R255-R274, 02 R47, R58). -/
namespace Sys2Proof.Machine

/-- EVENT_ASSERT: a source of the device asserts; a reserved number is never asserted (R255, R259). -/
def execEventAssert (n : Ev) (s : State) : Host.Outcome State Fault Refusal :=
  .next (if eventReserved n then s else assertEvent s n)

/-- MSIX_UNMASK: the vector is unmasked, and a message held for it is sent (R257). -/
def execMsixUnmask (n : Ev) (s : State) : Host.Outcome State Fault Refusal :=
  .next (unmask (s.setBit (R.msixTable n 3) 0 false) n)

/-- An exception that waits to be taken: a held fault of the head, one that became the head's turn, or a store error
(R82, R88, R523). -/
def dueException (s : State) (c : Chan) : Option State :=
  let ch := s.chan c
  let free := (stopLedger (leaveWait s c) c).modChan c fun ch => { ch with wait := .none }
  let impr := if ch.impr.isEmpty then none else some ((tryImpr free c).getD s)
  match ch.slots with
  | h :: _ =>
    (match h.fault with
     | some (_, x) => some (headFault s c x)
     | none => impr)
  | [] =>
    match ch.heldX with
    | some (x, pc) => some (takeHeld s c x pc)
    | none => impr

/-- The event taken first: the lowest level, and among those the lowest number (R260). -/
def firstEvent (s : State) : List Nat → Option Nat
  | [] => none
  | n :: ns =>
    match firstEvent s ns with
    | some m => if evLevel s m < evLevel s n then some m else some n
    | none => some n

/-- Whether any event routed to the channel is pending. -/
def anyRouted (s : State) (c : Chan) : Bool :=
  (List.range 512).any fun n => s.rbit (R.evcPend (n / 32)) (n % 32) && routed s c n

/-- Enter the handler of event `n` at the boundary where the channel stands: a WAIT is left, an instruction that waits
at its decode or in the Ledger Engine is given up, and streams drain behind the handler (R58, R85, R92, R235, R263). -/
def takeEvent (s : State) (c : Chan) (n : Nat) : State :=
  let s' := stopLedger (leaveWait s c) c
  let drain := !(s'.chan c).slots.isEmpty
  let s' := (stopStreams s' c .nowhere).modChan c fun ch => { ch with wait := .none }
  match enterVector (s'.setBit (R.evcPend (n / 32)) (n % 32) false) c (512 + n) (some (evLevel s n)) drain with
  | some t => t
  | none => s

/-- EVENT_RECOGNITION: what stands first in the order of R260 at this boundary. A pending stop or quiesce comes before
events, and a halt request holds them off. -/
def eventRecognition (c : Chan) (s : State) : State :=
  let ch := s.chan c
  if (ch.st != .running && ch.st != .waiting) || ch.mute then s
  else if !ch.interruptible then afterRemotes s c
  else match dueException s c with
  | some t => t
  | none =>
    if ch.window.isSome then s
    else match ch.req with
    | some .stop => settle s c
    | some .quiesce => settle s c
    | _ =>
      if haltAsked s c then s
      else match firstEvent s (eligibleEvents s c) with
        | some n => takeEvent s c n
        | none => if ch.st = .waiting ∧ anyRouted s c then leaveWait s c else s

/-- EVENT_RECOGNITION. -/
def execEventRecognition (c : Chan) (s : State) : Host.Outcome State Fault Refusal := .next (eventRecognition c s)

/-- ATOM_WINDOW_EXPIRY: ATOM steps have elapsed; what waited is applied at the boundary (R270). -/
def execAtomWindowExpiry (c : Chan) (s : State) : Host.Outcome State Fault Refusal :=
  .next (if (s.chan c).window.isSome then settle (closeWindow s c) c else s)

/-- A count of wraps saturates at FFFFh (R490). -/
def countWrap (wrap : Bool) (n : BitVec 16) : BitVec 16 := if wrap ∧ n ≠ 0xFFFF then n + 1 else n

/-- The step counter of a running or waiting channel advances by `k` steps; where it passes from FFFF_FFFF_FFFFh to 0 the
wrap is counted and raises its event (R47, R490). -/
def chanSteps (c : Chan) (k : Nat) (s : State) : State :=
  if (s.chan c).st = .running ∨ (s.chan c).st = .waiting then
    let wrap := 2 ^ 48 ≤ (s.chan c).steps.toNat + k
    let t := s.modChan c fun ch =>
      { ch with
          steps := ch.steps + BitVec.ofNat 48 k
          wraps := countWrap wrap ch.wraps }
    if wrap then chanEvent t c 3 else t
  else s

/-- The step that takes a counter past FFFF_FFFF_FFFFh (R47). -/
def chanWrap (c : Chan) (s : State) : State := if (s.chan c).steps = BitVec.allOnes 48 then chanSteps c 1 s else s

/-- STEP_COUNTER_WRAP. -/
def execStepCounterWrap (c : Chan) (s : State) : Host.Outcome State Fault Refusal := .next (chanWrap c s)

/-- A pipe's step counter advances by `k` steps (R494). -/
def pipeSteps (p : Pipe) (k : Nat) (s : State) : State :=
  let x := s.pipes[p]
  let wrap := 2 ^ 48 ≤ x.steps.toNat + k
  let y : PipeSt :=
    { x with
        steps := x.steps + BitVec.ofNat 48 k
        wraps := countWrap wrap x.wraps }
  let t : State := { s with pipes := s.pipes.set p y }
  if wrap then assertEvent t (128 + 4 * p.val + 3) else t

/-- The step that takes a pipe's counter past FFFF_FFFF_FFFFh (R494). -/
def pipeWrap (p : Pipe) (s : State) : State :=
  if (s.pipes[p]).steps = BitVec.allOnes 48 then pipeSteps p 1 s else s

/-- PIPE_STEP_COUNTER_WRAP: only while the compute domain is out of reset. -/
def execPipeStepCounterWrap (p : Pipe) (s : State) : Host.Outcome State Fault Refusal :=
  .next (if s.rst.hold.isNone && 8 ≤ s.rst.stage then pipeWrap p s else s)

/-- EVCFG_WRITE (R256, R258). -/
def execEvcfgWrite (m : Master) (n : Ev) (v : Word) (s : State) : Host.Outcome State Fault Refusal :=
  .next (ctlWrite s m (R.evcfg n) 15 v)

/-- EVC_PEND_WRITE (R256, R258). -/
def execEvcPendWrite (m : Master) (k : Fin 16) (v : Word) (s : State) : Host.Outcome State Fault Refusal :=
  .next (ctlWrite s m (R.evcPend k) 15 v)

/-- EVC_SET_WRITE (R258, R259). -/
def execEvcSetWrite (m : Master) (v : Word) (s : State) : Host.Outcome State Fault Refusal :=
  .next (ctlWrite s m R.evcSet 15 v)

/-- STEPCNTL_READ: an ordinary read latches the high half, a Sextant read does not (R47, R494). -/
def execStepcntlRead (m : Master) (k : StepCtr) (s : State) : Host.Outcome State Fault Refusal :=
  let (w, s) := masterRead s m (match k with
    | .chan c => 0x100000 + 0x1000 * c.val + 0x40
    | .pipe p => 0x300000 + 0x1000 * p.val + 0x40)
  .next (s.answers (.word w))

end Sys2Proof.Machine
end

