-- ==== Sys2Proof/Machine/Memory.lean ====
section
/-! DEFINITION. The scalar instructions that access memory, and what completes them: data that return, stores that
are performed (R53-R67, R80, R81, R523). -/
namespace Sys2Proof.Machine

/-! ### Loads -/

/-- How the access of a load ends: data with the bridges that its requests cross, an exception, a wait, or a request that
has left the device. -/
inductive LoadRes where
  | ok (l : List Byte) (via : List (Fin 9))
  | exc (x : Exc)
  | wait
  | remote (tag : Nat)
  deriving DecidableEq, Repr

/-- Whether no further read can leave through PCI Express: 256 are outstanding (R402). -/
def State.tagsOut (s : State) : Bool := 256 ≤ (s.ifc.remote.filter (!·.kenrid)).length

/-- A read request of `n` bytes leaves through PCI Express or Kenrid; its completion is a command of its own (R407,
R435). -/
def sendRead (s : State) (c : Chan) (pa n : Nat) : LoadRes × State :=
  let t := s.ifc.nextTag
  let out := fun (s : State) (kenrid : Bool) =>
    { s with ifc := { s.ifc with nextTag := t + 1, remote := s.ifc.remote ++ [⟨t, c, kenrid, pa⟩] } }
  match s.target pa with
  | .kenrid d x => (match s.kenridRoute d with
    | some q => (.remote t, out (sendFlit s q d.val (.read (s.windowAddr d x) n)) true)
    | none => (.remote t, out s true))
  | _ => if s.tagsOut then (.wait, s) else (.remote t, out s false)

/-- The bridge that a channel's request for an address crosses: that of its controller's SMS port for DRAM, that of M6 for
what lies outside the compute domain (R306). -/
def State.bridgeOf (s : State) (pa : Nat) : Option (Fin 9) :=
  match s.target pa with
  | .dram => some (mcOf pa).castSucc
  | .chart _ | .sram _ | .rom _ => none
  | _ => some 8

/-- The bridges of an access. The Binnacle core stands on the fabric side of them. -/
def State.bridges (s : State) (c : Chan) (ps : List (Nat × Nat)) : List (Fin 9) :=
  if c = bnmCore then [] else ps.filterMap fun p => s.bridgeOf p.1

/-- Whether the request FIFOs of the bridges have room: 16 entries each (R29). -/
def State.room (s : State) (via : List (Fin 9)) : Bool := via.all fun b => s.inFlight false b + via.count b ≤ 16

/-- Read the bytes of a scalar load: the latest earlier stores of the channel to them count (R62); outside DRAM and
chart memory the load waits for older stream instructions, for the channel's earlier stores and for its loads that have
left the device (R57, R62, R81), and a request waits for room in its bridge (R29). `leaves` lets the request leave the
device. -/
def loadBytes (s : State) (c : Chan) (how : How) (base : Reg) (e : Word) (n : Nat) (leaves : Bool) :
    LoadRes × State :=
  match checkAccess s c how e.toNat n with
  | (.fail v a, s) => (.exc (dataExc base v a), s)
  | (.wait, s) => (.wait, s)
  | (.ok ps, s) =>
    let via := s.bridges c ps
    if !s.room via then (.wait, s)
    else if ps.all fun p => s.inMemory p.1 then
      match readOwn s c e.toNat n ps with
      | (.ok l, s) => (.ok l via, s)
      | (.fail v a, s) => (.exc (dataExc base v a), s)
      | (.wait, s) => (.wait, s)
    else if !(s.chan c).alone || !(s.chan c).stq.isEmpty then (.wait, s)
    else
      let pa := (ps.head?.map (·.1)).getD 0
      let go := match s.target pa with
        | .pcie _ => s.rbit R.pxLink 0
        | .kenrid d _ => (s.kenridRoute d).isSome
        | _ => false
      if leaves && go && ps.length = 1 && !(s.chan c).fed then
        sendRead s c pa n
      else if !(s.chan c).remotes.isEmpty then (.wait, s)
      else match readParts s c ((split e.toNat n).zip ps) with
        | (.ok l, s) => (.ok l via, s)
        | (.fail v a, s) => (.exc (dataExc base v a), s)
        | (.wait, s) => (.wait, s)

/-- The destination of a load. -/
def LDst.same : LDst → LDst → Bool
  | .g a _, .g b _ => a == b
  | .d a _, .d b _ => a == b
  | _, _ => false

/-- Issue a load: its data reach the destinations when they return; an earlier load no longer reaches them (R56). Its
requests stand in the bridges they cross until a tick or their return takes them on. -/
def Channel.issue (ch : Channel) (via : List (Fin 9)) (dsts : List LDst) : Channel :=
  { ch with
      nextId := ch.nextId + 1
      loads := (ch.loads.map fun l => { l with dsts := l.dsts.filter fun x => !(dsts.any fun y => x.same y) }) ++
        [⟨ch.nextId, dsts, via, false⟩] }

/-- Issue a load whose request leaves the device: what stands at its decode is kept for the exception it may raise (R56,
R57). -/
def Channel.issueOut (ch : Channel) (tag : Nat) (k : LdKind) (d base : Reg) (ea : Word) : Channel :=
  { ch.issue [8] [.g d 0] with
      remotes := ch.remotes ++ [⟨ch.nextId, tag, k, base, ea, ch.pc, ch.snap, none⟩] }

/-- A scalar instruction that accesses memory. -/
def memScalar (p : Prefixes) (len : Nat) (reads : List Reg) : Scalar :=
  { p := p, len := len, keyOk := true, reads := reads }

/-- LD (R53, R59, R62). -/
def execLd (c : Chan) (p : Prefixes) (k : LdKind) (d base : Reg) (disp : Disp) (s : State) :
    Host.Outcome State Fault Refusal :=
  .next (scalarOr s c { memScalar p (dispLen disp) [base] with load := true } fun s next =>
    let ch := s.chan c
    match loadBytes s c (dataHow ch p .rd false) base (effAddr ch base (dispVal disp)) (loadLen k) true with
    | (.ok l via, s) => some (finish s c next fun ch => ch.issue via [.g d (loadVal k (leNat l))])
    | (.exc x, s) => some (raise s c x ch.pc)
    | (.wait, _) => none
    | (.remote tag, s) =>
      some (finish s c next fun ch => ch.issueOut tag k d base (effAddr ch base (dispVal disp))))

/-- LDD: 16 bytes, 16-byte aligned, into a descriptor register (R61). -/
def execLdd (c : Chan) (p : Prefixes) (d base : Reg) (disp : BitVec 16) (s : State) :
    Host.Outcome State Fault Refusal :=
  .next (scalarOr s c { memScalar p 4 [base] with load := true } fun s next =>
    let ch := s.chan c
    let e := effAddr ch base (disp.signExtend 32)
    if e.toNat % 16 ≠ 0 then some (raise s c { vec := 3, addr := e } ch.pc)
    else match loadBytes s c (dataHow ch p .rd false) base e 16 false with
      | (.ok l via, s) => some (finish s c next fun ch =>
          ch.issue via [.d ⟨d.val % 8, by omega⟩ (BitVec.ofNat 128 (leNat l))])
      | (.exc x, s) => some (raise s c x ch.pc)
      | _ => none)

/-- POP: Gd and Ga from the stack, G15 + 8 (R53, R55, R61). -/
def execPop (c : Chan) (p : Prefixes) (d a : Reg) (s : State) : Host.Outcome State Fault Refusal :=
  .next (scalarOr s c { memScalar p 2 [15] with load := true, legal := d != 15 && a != 15 && d != a } fun s next =>
    let ch := s.chan c
    let e := ch.rg 15
    if e.toNat % 8 ≠ 0 then some (raise s c { vec := 3, addr := e } ch.pc)
    else match loadBytes s c (dataHow ch p .rd false) 15 e 8 false with
      | (.ok l via, s) => some (finish s c next fun ch =>
          (ch.issue via [.g d (BitVec.ofNat 32 (leAt l 0 4)), .g a (BitVec.ofNat 32 (leAt l 4 4))]).setG 15 (e + 8))
      | (.exc x, s) => some (raise s c x ch.pc)
      | _ => none)

/-! ### Stores -/

/-- The number of the youngest unretired stream instruction (0: none). -/
def Channel.youngest (ch : Channel) : Nat :=
  match ch.group with
  | some g => g.sid
  | none => (ch.slots.getLast?.map (·.sid)).getD 0

/-- One more than the number of the channel's youngest load that has left the device (0: none). -/
def Channel.youngestOut (ch : Channel) : Nat := (ch.remotes.getLast?.map (·.id + 1)).getD 0

/-- The store-queue entry of a store that the channel makes now. -/
def Channel.entry (ch : Channel) (e : Word) (ps : List Piece) : StEntry := ⟨e, ps, ch.youngest, ch.youngestOut, ch.sup, 0, []⟩

/-- Whether an address lies in the channel's own region map (R283). -/
def ownMap (s : State) (c : Chan) (pa : Nat) : Bool :=
  match s.target pa with
  | .control o => c != bnmCore && 0x100000 + 0x1000 * c.val + 0x400 ≤ o && o < 0x100000 + 0x1000 * c.val + 0x500
  | _ => false

/-- A store of `bs` at `e`: checked, and then posted into the store queue, where a full queue makes it wait (R56,
R59, R523). One any piece of which lies in the channel's own region map is performed at once, whole (R283); an error
response to it is reported at the next boundary as that of any store is. `sp` is the new G15 of PUSH. -/
def postStore (s : State) (c : Chan) (how : How) (base : Reg) (e : Word) (bs : List Byte) (sp : Option Word)
    (next : Word) : Option State :=
  let pc := (s.chan c).pc
  let push := fun (ch : Channel) => match sp with | some w => ch.setG 15 w | none => ch
  match checkAccess s c how e.toNat bs.length with
  | (.fail v a, s) => some (raise s c (dataExc base v a) pc)
  | (.wait, _) => none
  | (.ok ps, s) =>
    let ch := s.chan c
    if !(ps.all fun p => s.inMemory p.1) && !ch.alone then none
    else if ps.any fun p => ownMap s c p.1 then
      if !ch.remotes.isEmpty then none
      else match writeParts s c (split e.toNat bs.length) (cutPieces ps bs) with
        | (.ok, s) => some (finish s c next push)
        | (.fail _ _, s) => some (finish s c next fun ch => { push ch with impr := ch.impr ++ [e] })
        | (.wait, _) => none
    else
      let en := ch.entry e (cutPieces ps bs)
      if ch.stq.length < 8 then some (finish s c next fun ch => { push ch with stq := ch.stq ++ [en] })
      else some (s.modChan c fun ch => { ch with wait := .storeRoom en sp (next - ch.pc).toNat })

/-- ST (R53, R59). -/
def execSt (c : Chan) (p : Prefixes) (k : StKind) (d base : Reg) (disp : Disp) (s : State) :
    Host.Outcome State Fault Refusal :=
  .next (scalarOr s c (memScalar p (dispLen disp) [base, d]) fun s next =>
    let ch := s.chan c
    postStore s c (dataHow ch p .wr true) base (effAddr ch base (dispVal disp))
      (leBytes (storeLen k) (ch.rg d).toNat) none next)

/-- STD: the 16 bytes of a descriptor register, 16-byte aligned (R61). -/
def execStd (c : Chan) (p : Prefixes) (d base : Reg) (disp : BitVec 16) (s : State) :
    Host.Outcome State Fault Refusal :=
  .next (scalarOr s c { memScalar p 4 [base] with readsD := [⟨d.val % 8, by omega⟩] } fun s next =>
    let ch := s.chan c
    let e := effAddr ch base (disp.signExtend 32)
    if e.toNat % 16 ≠ 0 then some (raise s c { vec := 3, addr := e } ch.pc)
    else postStore s c (dataHow ch p .wr true) base e
      (leBytes 16 (ch.d.getD (d.val % 8) 0).toNat) none next)

/-- PUSH: the alignment check, then the stack-limit check, then the store (R64). With G15 below 8 the manual does not say
whether G15 - 8 wraps: the model takes it as it is, below 0 and so below SLIM (log 51). -/
def execPush (c : Chan) (p : Prefixes) (d a : Reg) (s : State) : Host.Outcome State Fault Refusal :=
  .next (scalarOr s c { memScalar p 2 [15, d, a] with legal := d != 15 && a != 15 && d != a } fun s next =>
    let ch := s.chan c
    let sp := ch.rg 15
    if sp.toNat % 8 ≠ 0 then some (raise s c { vec := 3, addr := sp - 8 } ch.pc)
    else if sp.toNat < 8 ∨ sp.toNat - 8 < ch.slim.toNat then some (raise s c { vec := 8, addr := ch.pc } ch.pc)
    else postStore s c (dataHow ch p .wr true) 15 (sp - 8) (wordBytes (ch.rg d) ++ wordBytes (ch.rg a))
      (some (sp - 8)) next)

/-! ### Reservations and atomics -/

/-- Whether a store of the channel to this line is still queued. -/
def Channel.lineQueued (ch : Channel) (line : Nat) : Bool :=
  ch.stq.any fun e => e.pieces.any fun p => p.pa / 64 == line

/-- An ATOMIC operation or a reservation at a target that performs none (R67, R310, R311); a Kenrid window that leads
nowhere reaches the default target (R435). -/
def noAtomics (s : State) (c : Chan) (pa : Nat) (wr : Bool) : State :=
  match s.target pa with
  | .dflt => defaultAnswer s (.chan c) pa wr
  | .kenrid d _ => if (s.kenridRoute d).isSome then s else defaultAnswer s (.chan c) pa wr
  | _ => s

/-- LDR: a load that reserves its line (R65). -/
def execLdr (c : Chan) (p : Prefixes) (d base : Reg) (disp : BitVec 16) (s : State) :
    Host.Outcome State Fault Refusal :=
  .next (scalarOr s c { memScalar p 4 [base] with load := true, alone := true } fun s next =>
    let ch := s.chan c
    let e := effAddr ch base (disp.signExtend 32)
    if e.toNat % 4 ≠ 0 then some (raise s c { vec := 3, addr := e } ch.pc)
    else match checkPiece s c (dataHow ch p .rw false) e.toNat with
      | (.fail v a, s) => some (raise s c (dataExc base v a) ch.pc)
      | (.wait, _) => none
      | (.ok pa, s) =>
        if !(s.target pa).atomics then some (raise (noAtomics s c pa false) c { vec := 6, addr := e } ch.pc)
        else if ch.lineQueued (pa / 64) || !s.room (s.bridges c [(pa, 4)]) then none
        else match readTarget s (.chan c) pa 4 with
          | (.ok l, s) => some (finish (markKey s pa false) c next fun ch =>
              { ch.issue (s.bridges c [(pa, 4)]) [.g d (BitVec.ofNat 32 (leNat l))] with resv := some (pa / 64) })
          | (.wait, _) => none
          | (_, s) => some (raise (markKey s pa false) c (dataExc base 7 e) ch.pc))

/-- STC: stores if the channel holds a reservation for the line of its own address; Gd is 0 on success and 1 on
failure, and the reservation ends (R65, R66). -/
def execStc (c : Chan) (p : Prefixes) (d base sr : Reg) (disp : BitVec 16) (s : State) :
    Host.Outcome State Fault Refusal :=
  .next (scalarOr s c { memScalar p 5 [base, sr] with alone := true } fun s next =>
    let ch := s.chan c
    let e := effAddr ch base (disp.signExtend 32)
    let drop := fun (s : State) => s.modChan c fun ch => { ch with resv := none }
    if e.toNat % 4 ≠ 0 then some (raise (drop s) c { vec := 3, addr := e } ch.pc)
    else match checkPiece s c (dataHow ch p .rw true) e.toNat with
      | (.fail v a, s) => some (raise (drop s) c (dataExc base v a) ch.pc)
      | (.wait, _) => none
      | (.ok pa, s) =>
        if !(s.target pa).atomics then some (raise (noAtomics (drop s) c pa true) c { vec := 6, addr := e } ch.pc)
        else if ch.lineQueued (pa / 64) then none
        else if ch.resv = some (pa / 64) then
          some (finish (writeLine (markKey s pa true) pa (wordBytes (ch.rg sr))) c next fun ch =>
            { ch.setG d 0 with resv := none })
        else some (finish (markKey s pa true) c next fun ch => { ch.setG d 1 with resv := none }))

/-- LDADD, SWP, CAS: one operation at the target under ATOMIC (R67, R327); without it a load, and a store that is posted
as any other, so that other masters may write between the two (R55). The old word returns to Gd. -/
def atomInstr (s : State) (c : Chan) (p : Prefixes) (reads : List Reg) (d base : Reg) (disp : BitVec 16)
    (f : (old : Word) → Channel → Option Word) (g : (old : Word) → Channel → Channel) : State :=
  scalarOr s c { memScalar p 5 (base :: reads) with load := true, alone := true, atomOk := true } fun s next =>
    let ch := s.chan c
    let e := effAddr ch base (disp.signExtend 32)
    if e.toNat % 4 ≠ 0 then some (raise s c { vec := 3, addr := e } ch.pc)
    else match checkPiece s c (dataHow ch p .rw true) e.toNat with
      | (.fail v a, s) => some (raise s c (dataExc base v a) ch.pc)
      | (.wait, _) => none
      | (.ok pa, s) =>
        if p.atomic && !(s.target pa).atomics then
          some (raise (noAtomics s c pa true) c { vec := 6, addr := e } ch.pc)
        else if ch.lineQueued (pa / 64) || (!s.inMemory pa && !ch.stq.isEmpty) || !s.room (s.bridges c [(pa, 4)]) then none
        else match readTarget s (.chan c) pa 4 with
          | (.wait, _) => none
          | (.error, s) => some (raise s c { vec := 6, addr := e } ch.pc)
          | (.uncorrectable, s) => some (raise (markKey s pa false) c (dataExc base 7 e) ch.pc)
          | (.ok l, s) =>
            let old := BitVec.ofNat 32 (leNat l)
            let done := fun (s : State) (q : List StEntry) => some (finish s c next fun ch =>
              { (g old ch).issue (s.bridges c [(pa, 4)]) [.g d old] with stq := ch.stq ++ q })
            match f old ch with
            | none => done (markKey s pa p.atomic) []
            | some w =>
              if !p.atomic && !ownMap s c pa then
                if ch.stq.length < 8 then done (markKey s pa false) [ch.entry e [⟨pa, wordBytes w⟩]] else none
              else match writeTarget (markKey s pa true) (.chan c) pa (wordBytes w) with
              | (.ok, s) => done s []
              | (.wait, _) => none
              | (.error, s) => some (raise s c { vec := 6, addr := e } ch.pc)

/-- LDADD: [m] := d + s, where d has taken the old word. -/
def execLdadd (c : Chan) (p : Prefixes) (d base sr : Reg) (disp : BitVec 16) (s : State) :
    Host.Outcome State Fault Refusal :=
  .next (atomInstr s c p [sr] d base disp (fun old ch => some (old + ch.rg sr)) fun _ ch => ch)

/-- SWP. -/
def execSwp (c : Chan) (p : Prefixes) (d base sr : Reg) (disp : BitVec 16) (s : State) :
    Host.Outcome State Fault Refusal :=
  .next (atomInstr s c p [sr] d base disp (fun _ ch => some (ch.rg sr)) fun _ ch => ch)

/-- CAS: Z tells whether the old word equalled Gd. -/
def execCas (c : Chan) (p : Prefixes) (d base sr : Reg) (disp : BitVec 16) (s : State) :
    Host.Outcome State Fault Refusal :=
  .next (atomInstr s c p [d, sr] d base disp (fun old ch => if old = ch.rg d then some (ch.rg sr) else none)
    fun old ch => ch.setCsw 2 (old == ch.rg d))

/-! ### Completions -/

/-- Deliver one load and drop it from the outstanding ones. -/
def deliverOne (g : Vector Word 16) (d : Vector (BitVec 128) 8) (ls : List Load) (id : Nat) :
    Vector Word 16 × Vector (BitVec 128) 8 × List Load :=
  let (g, d) := deliver g d (ls.filter (·.id == id))
  (g, d, ls.filter (·.id != id))

/-- A load's data arrive also at what an exception of the head would restore (R80). -/
def Snap.deliver (sn : Snap) (id : Nat) : Snap :=
  let (g, d, ls) := deliverOne sn.g sn.d sn.loads id
  { sn with g := g, d := d, loads := ls }

/-- A returned value, in place of what was not known when the load was issued. -/
def LDst.fill (w : Word) : LDst → LDst
  | .g r _ => .g r w
  | x => x

/-- The data `w` of load `id` in a list of loads. -/
def fillLoads (ls : List Load) (id : Nat) (w : Word) : List Load :=
  ls.map fun l => if l.id = id then { l with dsts := l.dsts.map (·.fill w) } else l

/-- Load `id` delivers: to the registers, and to what an exception of the head, of an open group or of a load that is
still out would restore (R56, R57, R80). -/
def Channel.arrive (ch : Channel) (id : Nat) : Channel :=
  let (g, d, ls) := deliverOne ch.g ch.d ch.loads id
  { ch with g := g, d := d, loads := ls, slots := ch.slots.map fun sl => { sl with snap := sl.snap.deliver id },
            group := ch.group.map fun sl => { sl with snap := sl.snap.deliver id },
            remotes := ch.remotes.map fun r => { r with snap := r.snap.deliver id } }

/-- Whether a load is still in the bridges it crosses on its way out (R29). -/
def Channel.inBridge (ch : Channel) (id : Nat) : Bool := ch.loads.any fun l => l.id == id && !l.sent && !l.via.isEmpty

/-- LOAD_DATA_RETURN (R56): the data of a load whose request has passed its bridges. A load that has left the device returns
with its completion. -/
def execLoadDataReturn (c : Chan) (id : Nat) (s : State) : Host.Outcome State Fault Refusal :=
  .next (s.modChan c fun ch => if ch.remotes.any (·.id == id) || ch.inBridge id then ch else ch.arrive id)

/-- STORE_ENQUEUE: the store that waits for room enters the queue (R56). -/
def execStoreEnqueue (c : Chan) (s : State) : Host.Outcome State Fault Refusal :=
  .next (let ch := s.chan c
    match ch.wait with
    | .storeRoom e sp len =>
      if ch.stq.length < 8 then
        finish s c (ch.pc + BitVec.ofNat 32 len) fun ch =>
          { (match sp with | some w => ch.setG 15 w | none => ch) with stq := ch.stq ++ [e], wait := .none }
      else s
    | _ => s)

/-- Whether the first piece of the entry at `idx` can be performed: the entry is not provisional, no load that it follows
is still out, and no older entry has a piece in a line of its own (R57, R62, R80). -/
def Channel.ready (ch : Channel) (idx : Nat) : Option (StEntry × Piece) :=
  match ch.stq[idx]? with
  | some e =>
    (match e.pieces with
     | p :: _ =>
       if ch.slots.all (fun sl => e.after < sl.sid) && ch.group.all (fun sl => e.after < sl.sid) &&
          ch.remotes.all (fun r => e.behind ≤ r.id) && (ch.stq.take idx).all (fun o => o.pieces.all fun q => e.pieces.all fun p => q.pa / 64 != p.pa / 64)
       then some (e, p) else none
     | [] => none)
  | none => none

/-- The entry at `idx` loses its first `n` pieces, and leaves the queue with its last. -/
def dropPieces (q : List StEntry) (idx n : Nat) : List StEntry :=
  (modAt q idx fun e => { e with pieces := e.pieces.drop n, stage := 0, via := [] }).filter fun e => !e.pieces.isEmpty

/-- The entry at `idx` has met an error response: it has written nothing more, and is reported (R523). -/
def storeFailed (s : State) (c : Chan) (idx : Nat) (e : StEntry) : State :=
  s.modChan c fun ch => { ch with stq := ch.stq.eraseIdx idx, impr := ch.impr ++ [e.ea] }

/-- The pieces that are performed together: all those of an entry some target of which may answer with an error, so that a
store which meets one has written nothing; the others one by one (R60, R523). -/
def StEntry.together (s : State) (e : StEntry) : List Piece :=
  if e.pieces.all fun p => (match s.target p.pa with | .dram | .sram _ => true | _ => false) then e.pieces.take 1
  else e.pieces

/-- The bridges that the request of the entry's next pieces crosses. -/
def StEntry.crosses (s : State) (c : Chan) (e : StEntry) : List (Fin 9) :=
  s.bridges c ((e.together s).map fun p => (p.pa, p.bytes.length))

/-- Whether the request has passed its bridges, so that it can be performed (R29, R312). -/
def StEntry.arrived (s : State) (c : Chan) (e : StEntry) : Bool := e.stage == 2 || (e.crosses s c).isEmpty

/-- STORE_PERFORMED: the next piece of a posted store, whose request has passed its bridges, reaches its target (R62), its
key byte marked before (R288); a write to a DRAM line that is not initialised, or to a bank that is being wiped, waits (R294, R329). -/
def execStorePerformed (c : Chan) (idx : Nat) (s : State) : Host.Outcome State Fault Refusal :=
  .next (match (s.chan c).ready idx with
    | none => s
    | some (e, _) =>
      let ps := e.together s
      if !e.arrived s c then s else
      match ps.find? fun p => s.putState (.chan c) p.pa = .error with
      | some p => storeFailed (writeTarget s (.chan c) p.pa p.bytes).2 c idx e
      | none =>
        if ps.any fun p => s.putState (.chan c) p.pa = .wait then s
        else (inMode s c e.sup fun s => putParts s c ps).modChan c fun ch =>
          { ch with stq := dropPieces ch.stq idx ps.length })

/-- STORE_ERROR_RESPONSE: the target of a posted store answers with an error; the imprecise exception is taken at the
next boundary (R523). -/
def execStoreErrorResponse (c : Chan) (idx : Nat) (s : State) : Host.Outcome State Fault Refusal :=
  .next (match (s.chan c).ready idx with
    | none => s
    | some (e, _) =>
      if !e.arrived s c then s else
      match (e.together s).find? fun p => s.putState (.chan c) p.pa = .error with
      | some p => storeFailed (writeTarget s (.chan c) p.pa p.bytes).2 c idx e
      | none => storeFailed s c idx e)

end Sys2Proof.Machine
end

