-- ==== Sys2Proof/Machine/HostRows.lean ====
section
/-! DEFINITION. The PCI Express endpoint: BARs, outbound reads, resets, link and configuration (13 R401-R408, R480). -/
namespace Sys2Proof.Machine

/-- Whether host accesses reach the device: the link is up and no reset is held (R407, R489). -/
def State.hostReaches (s : State) : Bool := s.rst.hold.isNone && s.rbit R.pxLink 0

/-- Physical base of the control space (R304). -/
def ctlBase : Nat := 0x900000000000

/-- An access to BAR0 or BAR2 that does not lie within one naturally aligned word: Completer Abort for a read, and a write is
discarded; either is logged as an AER non-fatal error, whose event is EV393 (R259, R404). -/
def badAccess (s : State) (read : Bool) : State :=
  let s := assertEvent (aerLog s aerAbort) 393
  if read then s.answers .abort else s

/-- BAR0_ACCESS: a hidden block reads 0 and discards writes; an offset in no block is answered by the default target, a
read with Completer Abort (R311, R403, R404). -/
def bar0Access (a : WordAccess) (s : State) : State :=
  let o := a.offset.toNat / 4 * 4
  if !s.hostReaches then s
  else if a.beyond then badAccess s a.wdata.isNone
  else if !inBlock o then
    let s := defaultAnswer s .host (ctlBase + o) a.wdata.isSome
    if a.wdata.isNone then s.answers .abort else s
  else if barHidden o then (if a.wdata.isNone then s.answers (.word 0) else s)
  else match a.wdata with
    | some w => ctlWrite s .host o a.be w
    | none => let (w, s) := ctlRead s .host o; s.answers (.word w)

/-- BAR0_ACCESS. -/
def execBar0Access (a : WordAccess) (s : State) : Host.Outcome State Fault Refusal := .next (bar0Access a s)

/-- The runs of enabled bytes of a word: a whole word at once, or byte by byte. -/
def wordRuns (a : Nat) (be : BitVec 4) (w : Word) : List (Nat × List Byte) :=
  if be = 15 then [(a, wordBytes w)]
  else (List.range 4).filterMap fun i => if be.getLsbD i then some (a + i, [(wordBytes w).getD i 0]) else none

/-- Write runs of bytes through a crossbar port; the first that waits or is refused ends the writing. -/
def writeRuns (m : Master) : List (Nat × List Byte) → State → MemWrite × State
  | [], s => (.ok, s)
  | r :: rs, s => match writeXbar s m r.1 r.2 with
    | (.ok, s) => writeRuns m rs s
    | x => x

/-- BAR4_ACCESS: a bank is reached only while its owner is 11h; a refused read completes with Completer Abort and a refused
write is discarded (R405). An access to a bank that is being wiped waits (R294). -/
def bar4Access (offset : Nat) (wdata : Option Word) (be : BitVec 4) (s : State) : State :=
  let pa := 0x800000000000 + offset / 4 * 4
  if !s.hostReaches then s
  else match wdata with
    | none => (match readXbar s .host pa 4 with
      | (.ok l, s) => s.answers (.word (bytesWord l))
      | (.wait, _) => s
      | (_, s) => s.answers .abort)
    | some w => (match writeRuns .host (wordRuns pa be w) s with
      | (.wait, _) => s
      | (_, s) => s)

/-- BAR4_ACCESS. -/
def execBar4Access (offset : BitVec 26) (wdata : Option Word) (be : BitVec 4) (s : State) :
    Host.Outcome State Fault Refusal := .next (bar4Access offset.toNat wdata be s)

/-! ### Outbound reads (R407) -/

/-- What comes back for a read that left the device. -/
inductive Came where
  | data (w : Word)
  | error
  | uncorrectable
  deriving DecidableEq, Repr

/-- The load `r` has its data: they reach the registers, and the load is out no more. -/
def Channel.came (ch : Channel) (r : RLoad) (w : Word) : Channel :=
  let v := loadVal r.kind (w.toNat % 2 ^ (8 * loadLen r.kind))
  let fill := fun (sn : Snap) => { sn with loads := fillLoads sn.loads r.id v }
  ({ ch with
      loads := fillLoads ch.loads r.id v
      remotes := (ch.remotes.filter (·.id != r.id)).map fun x => { x with snap := fill x.snap } } : Channel).arrive r.id

/-- A load of the channel that has left the device has its data, or has failed. -/
def endRemote (s : State) (c : Chan) (tag : Nat) (got : Came) : State :=
  match (s.chan c).remotes.find? (·.tag == tag) with
  | some r =>
    let fail := fun (v : Nat) => s.modChan c fun ch =>
      { ch with remotes := ch.remotes.map fun x => if x.id = r.id then { x with failed := some v } else x }
    afterRemotes (match got with
      | .data w => s.modChan c fun ch => ch.came r w
      | .error => fail 6
      | .uncorrectable => fail 7) c
  | none => s

/-- The read of tag `tag` ends, if it is on its way through PCI Express (`kenrid = false`) or Kenrid. -/
def finishRemote (s : State) (kenrid : Bool) (tag : Nat) (got : Came) (f : State → State) : State :=
  match s.ifc.remote.find? (fun e => e.tag == tag && e.kenrid == kenrid) with
  | some e =>
    let s := { s with ifc := { s.ifc with remote := s.ifc.remote.filter (fun x => x.tag != tag) } }
    endRemote (f s) e.chan tag got
  | none => s

/-- OUTBOUND_COMPLETION: an unsuccessful one raises EV396, a poisoned one EV397 (R407). -/
def execOutboundCompletion (tag : Nat) (r : Completion) (s : State) : Host.Outcome State Fault Refusal :=
  .next (match r with
    | .success w => finishRemote s false tag (.data w) id
    | .poisoned => finishRemote s false tag .uncorrectable fun s => assertEvent (aerLog s aerPoisoned) 397
    | .unsuccessful => finishRemote s false tag .error fun s => assertEvent s 396)

/-- Device Control 2 as it stands: timeout disable is its bit 4 (R402, log 59). -/
def timeoutDisabled (s : State) : Bool := bit (look (fun _ => 0) s.ifc.cfg (Config.pcieCap + 0x28)) 4

/-- OUTBOUND_COMPLETION_TIMEOUT: nothing times out while the host has disabled the timeout (R402, R407). -/
def execOutboundCompletionTimeout (tag : Nat) (s : State) : Host.Outcome State Fault Refusal :=
  .next (if timeoutDisabled s then s
    else finishRemote s false tag .error fun s => assertEvent (aerLog s aerTimeout) 396)

/-! ### Resets and the link (R402, R408) -/

/-- PERST: EV385, then the reset that PX_CFG.RSTLVL selects. -/
def execPerst (s : State) : Host.Outcome State Fault Refusal :=
  .next (requestReset (assertEvent s 385) (pcieLevel s) 4)

/-- HOT_RESET. -/
def execHotReset (s : State) : Host.Outcome State Fault Refusal :=
  .next (requestReset (assertEvent s 385) (pcieLevel s) 5)

/-- FUNCTION_LEVEL_RESET: the rings are disabled, the MSI-X table and the standard configuration registers are cleared,
and EV386 is raised. -/
def functionLevelReset (s : State) : State :=
  let s := (List.finRange 4).foldl (fun s n => if s.rbit (R.ringCfg n) 16 then disableRing s n else s) s
  assertEvent { s with
    regs := s.regs.filter fun e => !(R.msixTable 0 0 ≤ e.1 && e.1 < R.msixTable 512 0)
    ifc := { s.ifc with cfg := [], aer := 0, msixEn := false, fmask := false } } 386

/-- FUNCTION_LEVEL_RESET. -/
def execFunctionLevelReset (s : State) : Host.Outcome State Fault Refusal :=
  .next (if s.hostReaches then functionLevelReset s else s)

/-- The speeds and widths at which the link can come up (R402). -/
def pcieLinkOk (speed width : Nat) : Bool := 1 ≤ speed && speed ≤ 5 && [1, 2, 4, 8, 16].contains width

/-- PCIE_LINK_STATE_CHANGE: EV384 for the state, EV398 for speed or width; in recovery mode 2.5 GT/s ×1 only. The link
trains from step 2 on (R480), and at no speed or width but those of R402. -/
def pcieLinkStateChange (up : Bool) (speed width : Nat) (s : State) : State :=
  if s.rst.hold.isSome || s.ifc.cfgMode = 0 || (up && !pcieLinkOk speed width) then s
  else
    let recov := s.rbit R.bnmLcs 4
    let sp := if recov then 1 else speed
    let wd := if recov then 1 else width
    let old := s.reg R.pxLink
    let new : Word := if up then BitVec.ofNat 32 (1 + sp * 2 + wd * 16) else 0
    let s := s.setReg R.pxLink new
    let s := if bit old 0 != up then assertEvent s 384 else s
    if bit old 0 && up && wfld old 8 1 != wfld new 8 1 then assertEvent s 398 else s

/-- PCIE_LINK_STATE_CHANGE. -/
def execPcieLinkStateChange (up : Bool) (speed : BitVec 3) (width : BitVec 5) (s : State) :
    Host.Outcome State Fault Refusal := .next (pcieLinkStateChange up speed.toNat width.toNat s)

/-! ### Configuration requests (R2, R401, R480) -/

/-- What is known of a configuration word: bits whose value is fixed, that value, the bits a write changes, and what these
hold at reset. -/
structure CfgDesc where
  fixed : Word := 0
  val   : Word := 0
  rw    : Word := 0
  init  : Word := 0

/-- The standard header (R2, R401, R403; log 59): Command with memory, bus master, parity and SERR enables; the capabilities
list; one function of type 0; the types and sizes of the BARs; no expansion ROM and no interrupt pin (R402). -/
def headerDesc (k : Nat) : CfgDesc :=
  if k = 0x04 then ⟨0x02FFFEB9, 0x00100000, 0x00000146, 0⟩
  else if k = 0x0C then ⟨0xFFFFFF00, 0, 0x000000FF, 0⟩
  else if k = 0x10 then ⟨0x0FFFFFFF, 0x4, 0xF0000000, 0⟩
  else if k = 0x18 then ⟨0x0000FFFF, 0x4, 0xFFFF0000, 0⟩
  else if k = 0x20 then ⟨0x03FFFFFF, 0xC, 0xFC000000, 0⟩
  else if k = 0x14 ∨ k = 0x1C ∨ k = 0x24 then ⟨0, 0, 0xFFFFFFFF, 0⟩
  else if k = 0x34 then ⟨0xFFFFFFFF, BitVec.ofNat 32 (Config.pmCap % 256), 0, 0⟩
  else if k = 0x3C then ⟨0xFFFFFF00, 0, 0x000000FF, 0⟩
  else if k = 0x28 ∨ k = 0x30 ∨ k = 0x38 then ⟨0xFFFFFFFF, 0, 0, 0⟩
  else {}

/-- A capability header of PCI Express Base 5.0: the ID, and where the next one stands. -/
def capHead (id next : Nat) : CfgDesc := ⟨0x0000FFFF, BitVec.ofNat 32 (id + next % 256 * 256), 0, 0⟩

/-- An extended capability header: ID, version and next. -/
def extHead (id ver next : Nat) : CfgDesc :=
  ⟨0xFFFFFFFF, BitVec.ofNat 32 (id + ver * 2 ^ 16 + next % 4096 * 2 ^ 20), 0, 0⟩

/-- The words of the PCI Express capability, by offset (R402; log 59): payload up to 512 B, function level reset; 32.0 GT/s,
×16, ASPM L1; timeout ranges A and B with disable, 10-bit tags. -/
def expressDesc (k : Nat) : CfgDesc :=
  if k = 0x00 then ⟨0x00FFFFFF, BitVec.ofNat 32 (0x20010 + Config.msixCap % 256 * 256), 0, 0⟩
  else if k = 0x04 then ⟨0x1000003F, 0x10000022, 0, 0⟩
  else if k = 0x08 then ⟨0x00008600, 0, 0x000079FF, 0x00002810⟩
  else if k = 0x0C then ⟨0x00000FFF, 0x00000905, 0, 0⟩
  else if k = 0x10 then ⟨0x00000001, 0, 0x000000CA, 0⟩
  else if k = 0x24 then ⟨0x0003001F, 0x00030013, 0, 0⟩
  else if k = 0x28 then ⟨0x0000EFE0, 0, 0x0000101F, 0⟩
  else if k = 0x2C then ⟨0x000000FE, 0x0000003E, 0, 0⟩
  else if k = 0x30 then ⟨0, 0, 0x0000000F, 5⟩
  else {}

/-- The configuration words: the header; the list of capabilities, which are power management, PCI Express and MSI-X, and
in extended space AER and DOE, so that none of what R402 does not support is in it; MSI-X with 512 vectors, its table and
its pending bits in BAR0 (R406); AER with its masks and severities (log 59). -/
def cfgDesc (k : Nat) : CfgDesc :=
  if k < 0x40 then headerDesc k
  else if k = Config.pmCap then capHead 1 Config.pcieCap
  else if k = Config.pmCap + 4 then ⟨0, 0, 0x00000003, 0⟩
  else if k = Config.msixCap then ⟨0x07FFFFFF, 0x01FF0011, 0xC0000000, 0⟩
  else if k = Config.msixCap + 4 then ⟨0xFFFFFFFF, 0x00A01000, 0, 0⟩
  else if k = Config.msixCap + 8 then ⟨0xFFFFFFFF, 0x00A03000, 0, 0⟩
  else if Config.pcieCap ≤ k ∧ k < Config.pcieCap + 0x3C then expressDesc (k - Config.pcieCap)
  else if k = Config.aerCap then extHead 1 2 (if Config.doeFirst then 0 else Config.extCap)
  else if k = Config.doeCap then extHead 0x2E 1 (if Config.doeFirst then Config.extCap else 0)
  else if k = Config.aerCap + 8 then ⟨0, 0, 0x07FFF030, 0⟩
  else if k = Config.aerCap + 0xC then ⟨0, 0, 0x07FFF030, 0x00462030⟩
  else if k = Config.aerCap + 0x14 then ⟨0, 0, 0x0000F1C1, 0x0000E000⟩
  else {}

/-- What a configuration word holds before it is written: the bits that a write changes are those of the standard's reset,
and the others have a value that the manual does not state (log 59). -/
def cfgInit (k : Nat) : Word := merge (cfgDesc k).rw (Config.cfgWord k) (cfgDesc k).init

/-- What a write leaves in a configuration word: a payload above 512 B, a read request above 4,096 B, and a timeout value
of no range of A and B are not stored, and the bit that starts a function level reset reads 0 (R402, log 59). -/
def cfgStored (k : Nat) (old v : Word) : Word :=
  let n := merge (cfgDesc k).rw old v
  let keep := fun (b : Bool) (m n : Word) => if b then n else merge m n old
  if k = Config.pcieCap + 0x08 then
    keep (wfld n 14 12 ≤ 5) 0x7000 (keep (wfld n 7 5 ≤ 2) 0xE0 n)
  else if k = Config.pcieCap + 0x28 then keep ([0, 1, 2, 5, 6].contains (wfld n 3 0)) 0xF n
  else n

/-- What a standard configuration word reads; Link Status shows PX_LINK's speed and width (log 59). -/
def configWord (s : State) (k : Nat) : Word :=
  if k = 0 then 0x74201E9D
  else if k = 0x08 then 0x12000011
  else if k = 0x2C then s.bnm.subsys
  else if k = Config.aerCap + 4 then s.ifc.aer
  else if k = Config.pcieCap + 0x10 then
    let l := s.reg R.pxLink
    merge 0x03FF0000 (merge (cfgDesc k).fixed (look cfgInit s.ifc.cfg k) (cfgDesc k).val)
      (BitVec.ofNat 32 (wfld l 3 1 * 2 ^ 16 + wfld l 8 4 * 2 ^ 20))
  else merge (cfgDesc k).fixed (look cfgInit s.ifc.cfg k) (cfgDesc k).val

/-- A message held while MSI-X was disabled or the function masked is sent once neither is so (R257, R406). -/
def sendHeld (s : State) : State :=
  if s.ifc.msixEn && !s.ifc.fmask then (List.range 512).foldl unmask s else s

/-- A write of a standard configuration word; MSI-X Message Control enables the vectors and masks the function, and an AER
status bit is cleared by writing 1 to it. Bit 15 of Device Control starts a function level reset (R402, R408, log 59). -/
def configWrite (s : State) (k : Nat) (v : Word) : State :=
  if k = 0 ∨ k = 0x08 ∨ k = 0x2C then s
  else if k = Config.aerCap + 4 then { s with ifc := { s.ifc with aer := s.ifc.aer &&& ~~~v } }
  else
    let s := { s with ifc := { s.ifc with
      cfg := store cfgInit s.ifc.cfg k (cfgStored k (look cfgInit s.ifc.cfg k) v) } }
    if k = Config.msixCap then
      sendHeld { s with ifc := { s.ifc with msixEn := bit v 31, fmask := bit v 30 } }
    else if k = Config.pcieCap + 0x08 && bit v 15 then functionLevelReset s
    else s

/-- CONFIGURATION_REQUEST: Configuration Request Retry Status before step 4, and normal completion from then on; none is
answered while the link is in electrical idle. -/
def configurationRequest (k : Nat) (wdata : Option Word) (s : State) : State :=
  let k := k / 4 * 4
  if s.rst.hold.isSome || s.ifc.cfgMode = 0 then s
  else if s.ifc.cfgMode = 1 && !s.rbit R.bnmLcs 4 then s.answers .retry
  else match wdata with
    | none => s.answers (.word (configWord s k))
    | some v => configWrite s k v

/-- CONFIGURATION_REQUEST. -/
def execConfigurationRequest (register : BitVec 12) (wdata : Option Word) (s : State) : Host.Outcome State Fault Refusal :=
  .next (configurationRequest register.toNat wdata s)

end Sys2Proof.Machine
end

