-- ==== Sys2Proof/Machine/Scalar.lean ====
section
/-! DEFINITION. The scalar instructions that work on registers alone: arithmetic, moves, control registers (R53, R54,
R181-R188). -/
namespace Sys2Proof.Machine

/-- An instruction whose result and flags are `f` of the channel, written to Gd. -/
def aluInstr (s : State) (c : Chan) (i : Scalar) (d : Reg) (f : Channel → Alu) : State :=
  scalar s c i fun s next => finish s c next fun ch =>
    let r := f ch
    { ch.setG d r.val with csw := r.flags ch.csw }

/-- A comparison: the flags only. -/
def flagInstr (s : State) (c : Chan) (i : Scalar) (f : Channel → Alu) : State :=
  scalar s c i fun s next => finish s c next fun ch => { ch with csw := (f ch).flags ch.csw }

/-- A three-operand form. -/
def rrr (p : Prefixes) (a : Reg) (b : Src) : Scalar := { p := p, len := srcLen b, reads := a :: srcReads b }

/-- ADD, SUB (R181, R182, R184). -/
def execAddSub (c : Chan) (p : Prefixes) (sub : Bool) (d a : Reg) (b : Src) (s : State) :
    Host.Outcome State Fault Refusal :=
  .next (aluInstr s c { rrr p a b with satOk := true } d fun ch =>
    if sub then aluSub p.sat (ch.rg a) (srcVal ch b) else aluAdd p.sat (ch.rg a) (srcVal ch b))

/-- AND, OR, XOR. -/
def execAndOrXor (c : Chan) (p : Prefixes) (op : BitOp) (d a : Reg) (b : Src) (s : State) :
    Host.Outcome State Fault Refusal :=
  .next (aluInstr s c (rrr p a b) d fun ch => aluZN (bitOp op (ch.rg a) (srcVal ch b)))

/-- SHL, SHR, SAR. -/
def execShlShrSar (c : Chan) (p : Prefixes) (op : ShiftOp) (d a : Reg) (b : Src) (s : State) :
    Host.Outcome State Fault Refusal :=
  .next (aluInstr s c (rrr p a b) d fun ch => aluShift op (ch.rg a) (srcVal ch b))

/-- ROL: rotate left by b[4:0]. -/
def execRol (c : Chan) (p : Prefixes) (d a : Reg) (b : Src) (s : State) : Host.Outcome State Fault Refusal :=
  .next (aluInstr s c (rrr p a b) d fun ch => aluZN ((ch.rg a).rotateLeft (wfld (srcVal ch b) 4 0)))

/-- MUL. -/
def execMul (c : Chan) (p : Prefixes) (d a : Reg) (b : Src) (s : State) : Host.Outcome State Fault Refusal :=
  .next (aluInstr s c { rrr p a b with satOk := true } d fun ch => aluMul p.sat (ch.rg a) (srcVal ch b))

/-- MULH, MULHU. -/
def execMulhMulhu (c : Chan) (p : Prefixes) (uns : Bool) (d a : Reg) (b : Src) (s : State) :
    Host.Outcome State Fault Refusal :=
  .next (aluInstr s c (rrr p a b) d fun ch => aluZN (mulHigh uns (ch.rg a) (srcVal ch b)))

/-- DIV, DIVU, REM, REMU: a divisor of 0 with CSW.TDZ = 1 sets DZ and raises the divide-by-zero exception (R188). -/
def execDivDivuRemRemu (c : Chan) (p : Prefixes) (op : DivOp) (d a : Reg) (b : Src) (s : State) :
    Host.Outcome State Fault Refusal :=
  .next (scalar s c (rrr p a b) fun s next =>
    let ch := s.chan c
    if srcVal ch b = 0 ∧ ch.tdz = true then
      raise (s.modChan c (·.setCsw 6 true)) c { vec := 9, addr := ch.pc } ch.pc
    else finish s c next fun ch =>
      let r := aluDiv op (ch.rg a) (srcVal ch b)
      { ch.setG d r.val with csw := r.flags ch.csw })

/-- MOV. -/
def execMov (c : Chan) (p : Prefixes) (d a : Reg) (s : State) : Host.Outcome State Fault Refusal :=
  .next (aluInstr s c { p := p, len := 2, reads := [a] } d fun ch => ⟨ch.rg a, none, none, none, none, false⟩)

/-- NEG, NOT. -/
def execNegNot (c : Chan) (p : Prefixes) (isNot : Bool) (d a : Reg) (s : State) : Host.Outcome State Fault Refusal :=
  .next (aluInstr s c { p := p, len := 2, reads := [a] } d fun ch =>
    if isNot then aluZN (~~~ ch.rg a) else aluNeg (ch.rg a))

/-- CMP. -/
def execCmp (c : Chan) (p : Prefixes) (d a : Reg) (s : State) : Host.Outcome State Fault Refusal :=
  .next (flagInstr s c { p := p, len := 2, reads := [d, a] } fun ch => aluSub false (ch.rg d) (ch.rg a))

/-- CMPI. -/
def execCmpi (c : Chan) (p : Prefixes) (d : Reg) (imm : Word) (s : State) : Host.Outcome State Fault Refusal :=
  .next (flagInstr s c { p := p, len := 6, reads := [d] } fun ch => aluSub false (ch.rg d) imm)

/-- TST. -/
def execTst (c : Chan) (p : Prefixes) (d a : Reg) (s : State) : Host.Outcome State Fault Refusal :=
  .next (flagInstr s c { p := p, len := 2, reads := [d, a] } fun ch => aluZN (ch.rg d &&& ch.rg a))

/-- MOVI. -/
def execMovi (c : Chan) (p : Prefixes) (d : Reg) (imm : Disp) (s : State) : Host.Outcome State Fault Refusal :=
  .next (aluInstr s c { p := p, len := dispLen imm } d fun _ => ⟨dispVal imm, none, none, none, none, false⟩)

/-- SEXT, ZEXT. -/
def execSextZext (c : Chan) (p : Prefixes) (op : ExtOp) (d a : Reg) (s : State) : Host.Outcome State Fault Refusal :=
  .next (aluInstr s c { p := p, len := 2, reads := [a] } d fun ch =>
    ⟨extend op (ch.rg a), none, none, none, none, false⟩)

/-- CLZ, POPC. -/
def execClzPopc (c : Chan) (p : Prefixes) (isPopc : Bool) (d a : Reg) (s : State) :
    Host.Outcome State Fault Refusal :=
  .next (aluInstr s c { p := p, len := 2, reads := [a] } d fun ch => aluCount isPopc (ch.rg a))

/-- NOP. -/
def execNop (c : Chan) (p : Prefixes) (s : State) : Host.Outcome State Fault Refusal :=
  .next (scalar s c { p := p, len := 1 } fun s next => finish s c next id)

/-- MFC: reading the low half of the step counter latches its high half (R47, R53). -/
def execMfc (c : Chan) (p : Prefixes) (d : Reg) (cr : Byte) (s : State) : Host.Outcome State Fault Refusal :=
  .next (scalar s c { p := p, len := 4, legal := crDefined cr } fun s next => finish s c next fun ch =>
    let w := crRead ch cr.toNat
    let ch := if cr == 0x15 then { ch with stepsH := (ch.steps >>> 32).truncate 16 } else ch
    ch.setG d w)

/-- MTC (R42, R48, R54). What a window holds off is noted before a write that may make it ineligible (R271). -/
def execMtc (c : Chan) (p : Prefixes) (a : Reg) (cr : Byte) (s : State) : Host.Outcome State Fault Refusal :=
  .next (scalar s c { p := p, len := 4, legal := crWritable cr, priv := crPrivileged cr, alone := true, reads := [a] }
    fun s next => finish (noteHeld s c) c next fun ch => crWrite ch cr.toNat (ch.rg a))

/-- SETVL: VL and Gd become min(Ga, 256). -/
def execSetvl (c : Chan) (p : Prefixes) (d a : Reg) (s : State) : Host.Outcome State Fault Refusal :=
  .next (scalar s c { p := p, len := 4, reads := [a] } fun s next => finish s c next fun ch =>
    let n := min (ch.rg a).toNat 256
    { ch.setG d (BitVec.ofNat 32 n) with vl := n })

/-- An illegal byte sequence of R49: the exception is raised without any effect. -/
def execIllegalInstructionDecode (c : Chan) (s : State) : Host.Outcome State Fault Refusal :=
  .next (scalar s c { p := .none, len := 1, legal := false } fun s _ => s)

end Sys2Proof.Machine
end

