-- ==== Sys2Proof/Machine/Sextant.lean ====
section
/-! DEFINITION. The Sextant: the TAP's instructions, halts and releases, the memory window and the terminals
(14 R456-R468). -/
namespace Sys2Proof.Machine

/-! ### TAP (R456) -/

/-- Select a TAP instruction; `held` and `z` are what it does to the pins of the boundary register. -/
def tap (s : State) (code : BitVec 6) (held z : Bool) : State :=
  { s with sx := { s.sx with ir := code, pinsHeld := held, highz := z } }

/-- IDCODE: version 1h, part 7420h. -/
def execIdcode (s : State) : Host.Outcome State Fault Refusal :=
  .next ((tap s 0b000001 false false).answers (.word 0x174201EF))

/-- The levels of the pins, captured into the boundary register and scanned out: free values, since the register's order of
the pins is not given (log 60). -/
def capturePins (s : State) (n : Nat) : State :=
  let (l, t) := s.freeBytes n
  t.answers (.bits (l.map (·.getLsbD 0)))

/-- SAMPLE/PRELOAD: the boundary register takes the bits shifted in while the pins' levels are shifted out. -/
def execSamplePreload (bits : List Bool) (s : State) : Host.Outcome State Fault Refusal :=
  let s := tap s 0b000010 false false
  .next (capturePins { s with sx := { s.sx with bsr := bits } } bits.length)

/-- EXTEST: the pins follow the boundary register, their levels are shifted out, and the register takes the bits shifted in
meanwhile, which the command does not carry: free values (log 60). -/
def execExtest (s : State) : Host.Outcome State Fault Refusal :=
  let n := s.sx.bsr.length
  let (l, t) := (capturePins (tap s 0b000011 true false) n).freeBytes n
  .next { t with sx := { t.sx with bsr := l.map (·.getLsbD 0) } }

/-- CLAMP: the pins are held by the boundary register, and the bypass bit is scanned. -/
def execClamp (s : State) : Host.Outcome State Fault Refusal := .next ((tap s 0b000100 true false).answers (.bits [false]))

/-- HIGHZ: the pins are not driven. -/
def execHighz (s : State) : Host.Outcome State Fault Refusal := .next ((tap s 0b000101 false true).answers (.bits [false]))

/-- BYPASS, which every unlisted code selects. -/
def execBypass (s : State) : Host.Outcome State Fault Refusal := .next ((tap s 0b111111 false false).answers (.bits [false]))

/-- Test-Logic-Reset selects IDCODE. -/
def execTestLogicReset (s : State) : Host.Outcome State Fault Refusal := .next (tap s 0b000001 false false)

/-! ### Debug enable and the Sextant's accesses -/

/-- BNM_LCS.DBGEN. -/
def State.dbgen (s : State) : Bool := s.rbit R.bnmLcs 8

/-! ### Halt and release (R460-R464) -/

/-- The record of a halt. -/
def haltRecord (s : State) (who : Nat) (mask : Word) (all bnm : Bool) : State :=
  formRecord s 10 1 who [mask, ofBool all, ofBool bnm]

/-- A live channel halts at its boundary: as CH_STOP stops it, but its Ledger context and pin stay and a WAIT keeps its
pc (R460); its reservation is cleared (R464). -/
def haltNow (s : State) (c : Chan) : State :=
  let all := s.rbit R.sxHaltReq 16
  let s := (stopStreams (stopLedger s c) c .stop).modChan c fun ch =>
    { ch with st := .halted, wait := .none, resv := none }
  haltRecord (s.setBit R.sxHaltReq c.val false) (s.sx.asker[c]) (BitVec.ofNat 32 (2 ^ c.val)) all false

/-- HALT: a request is taken under R260 and R270, or dropped for a channel that is stopped or locked up. -/
def halt (c : Chan) (s : State) : State :=
  if !haltAsked s c then s
  else
    let ch := s.chan c
    match ch.st with
    | .running | .waiting =>
      if ch.window.isSome || !ch.interruptible then s
      else (match dueException s c with
        | some t => t
        | none => finishHalts (haltNow s c))
    | _ => finishHalts (s.setBit R.sxHaltReq c.val false)

/-- HALT. -/
def execHalt (c : Fin 16) (s : State) : Host.Outcome State Fault Refusal := .next (halt c.castSucc s)

/-- The Binnacle core halts, and with it the command packets (R461). -/
def bnmHaltNow (s : State) : State :=
  let s := (stopStreams s bnmCore .stop).modChan bnmCore fun ch =>
    if ch.st = .running ∨ ch.st = .waiting then { ch with st := .halted, wait := .none, resv := none } else ch
  haltRecord { (s.setBit R.sxHaltReq 17 false) with bnm := { s.bnm with halted := true } } s.sx.bnmAsker 0 false true

/-- BINNACLE_HALT: at the Binnacle core's next instruction boundary (R461), after an exception that is due (R264). -/
def execBinnacleHalt (s : State) : Host.Outcome State Fault Refusal :=
  let ch := s.chan bnmCore
  .next (
    if !s.rbit R.sxHaltReq 17 then s
    else if ch.st ≠ .running ∧ ch.st ≠ .waiting then bnmHaltNow s
    else if ch.window.isSome || !ch.interruptible then s
    else match dueException s bnmCore with
      | some t => t
      | none => bnmHaltNow s)

/-- SX_HALTREQ_WRITE (R460, R468). -/
def execSxHaltreqWrite (m : Master) (v : Word) (s : State) : Host.Outcome State Fault Refusal :=
  .next (finishHalts (ctlWrite s m R.sxHaltReq 15 v))

/-- SX_RELEASE_WRITE (R462, R463). -/
def execSxReleaseWrite (m : Master) (v : Word) (s : State) : Host.Outcome State Fault Refusal :=
  .next (ctlWrite s m R.sxRelease 15 v)

/-! ### Terminals (R467) -/

/-- SX_DTX_CHANNEL_WRITE. -/
def execSxDtxChannelWrite (c : Fin 16) (v : Word) (s : State) : Host.Outcome State Fault Refusal :=
  .next (ctlWrite s (.chan c.castSucc) (R.sxDtx c) 15 v)

/-- SX_DTX_SEXTANT_READ. -/
def execSxDtxSextantRead (c : Fin 16) (s : State) : Host.Outcome State Fault Refusal :=
  let (w, s) := ctlRead s .sextant (R.sxDtx c)
  .next (s.answers (.word w))

/-- SX_DRX_SEXTANT_WRITE. -/
def execSxDrxSextantWrite (c : Fin 16) (v : Word) (s : State) : Host.Outcome State Fault Refusal :=
  .next (ctlWrite s .sextant (R.sxDrx c) 15 v)

/-- SX_DRX_CHANNEL_READ. -/
def execSxDrxChannelRead (c : Fin 16) (s : State) : Host.Outcome State Fault Refusal :=
  let (w, s) := ctlRead s (.chan c.castSucc) (R.sxDrx c)
  .next (s.answers (.word w))

end Sys2Proof.Machine
end

