-- ==== Sys2Proof/Machine/Feed.lean ====
section
/-! DEFINITION. Fed instructions, SXACC, the memory window and plain register accesses (14 R457-R459, R465, R466, 01 R9). -/
namespace Sys2Proof.Machine

/-! ### The bytes of a fed instruction (R49-R53, R465) -/

/-- A fed instruction: its bytes from the opcode on, the G register whose value SX_FEEDRES takes, and what it does. -/
structure Fed where
  len : Nat
  dst : Option Reg
  run : State → Host.Outcome State Fault Refusal

/-- Prefix bytes, and what follows them. A repeated prefix and F7h make the sequence illegal. -/
def feedPrefix (p : Prefixes) : List Byte → Prefixes × List Byte
  | 0xF0 :: l => feedPrefix { p with chain := true, extra := p.extra || p.chain } l
  | 0xF1 :: m :: l => feedPrefix { p with mask := some m, extra := p.extra || p.mask.isSome } l
  | 0xF2 :: l => feedPrefix { p with key := true, extra := p.extra || p.key } l
  | 0xF3 :: l => feedPrefix { p with atomic := true, extra := p.extra || p.atomic } l
  | 0xF4 :: l => feedPrefix { p with ord := true, extra := p.extra || p.ord } l
  | 0xF5 :: l => feedPrefix { p with sat := true, extra := p.extra || p.sat } l
  | 0xF6 :: l => feedPrefix { p with wide := true, extra := p.extra || p.wide } l
  | 0xF7 :: l => feedPrefix { p with extra := true } l
  | l => (p, l)

/-- The register in the high and in the low half of a byte. -/
def hiReg (b : Byte) : Reg := ⟨b.toNat / 16, by have := b.isLt; omega⟩
/-- See `hiReg`. -/
def loReg (b : Byte) : Reg := ⟨b.toNat % 16, by omega⟩

/-- Bytes `o` to `o + n - 1` as an immediate. -/
def immAt (l : List Byte) (o n : Nat) : BitVec (8 * n) := BitVec.ofNat (8 * n) (leAt l o n)

/-- The b operand of an opcode in 10h to 3Fh; `none` for a reserved bit. -/
def feedSrc (op : Nat) (l : List Byte) : Option Src :=
  if op < 0x20 then (if leAt l 2 1 % 16 = 0 then some (.reg (hiReg (l.getD 2 0))) else none)
  else if op < 0x30 then some (.imm16 (immAt l 2 2))
  else some (.imm32 (immAt l 2 4))

/-- An arithmetic opcode, 10h to 3Fh. -/
def feedAlu (c : Chan) (p : Prefixes) (k : Nat) (d a : Reg) (b : Src) : State → Host.Outcome State Fault Refusal :=
  match k with
  | 0x0 => execAddSub c p false d a b
  | 0x1 => execAddSub c p true d a b
  | 0x2 => execAndOrXor c p .and d a b
  | 0x3 => execAndOrXor c p .or d a b
  | 0x4 => execAndOrXor c p .xor d a b
  | 0x5 => execShlShrSar c p .shl d a b
  | 0x6 => execShlShrSar c p .shr d a b
  | 0x7 => execShlShrSar c p .sar d a b
  | 0x8 => execRol c p d a b
  | 0x9 => execMul c p d a b
  | 0xA => execMulhMulhu c p false d a b
  | 0xB => execMulhMulhu c p true d a b
  | 0xC => execDivDivuRemRemu c p .div d a b
  | 0xD => execDivDivuRemRemu c p .divu d a b
  | 0xE => execDivDivuRemRemu c p .rem d a b
  | _ => execDivDivuRemRemu c p .remu d a b

/-- A register-only opcode, 40h to 4Dh. -/
def feedReg (c : Chan) (p : Prefixes) (op : Nat) (d a : Reg) (l : List Byte) : Option Fed :=
  match op with
  | 0x40 => some ⟨2, some d, execMov c p d a⟩
  | 0x41 => some ⟨2, some d, execNegNot c p false d a⟩
  | 0x42 => some ⟨2, some d, execNegNot c p true d a⟩
  | 0x43 => some ⟨2, none, execCmp c p d a⟩
  | 0x44 => if a = 0 then some ⟨6, none, execCmpi c p d (immAt l 2 4)⟩ else none
  | 0x45 => some ⟨2, none, execTst c p d a⟩
  | 0x46 => if a = 0 then some ⟨4, some d, execMovi c p d (.d16 (immAt l 2 2))⟩ else none
  | 0x47 => if a = 0 then some ⟨6, some d, execMovi c p d (.d32 (immAt l 2 4))⟩ else none
  | 0x48 => some ⟨2, some d, execSextZext c p .sextB d a⟩
  | 0x49 => some ⟨2, some d, execSextZext c p .sextH d a⟩
  | 0x4A => some ⟨2, some d, execSextZext c p .zextB d a⟩
  | 0x4B => some ⟨2, some d, execSextZext c p .zextH d a⟩
  | 0x4C => some ⟨2, some d, execClzPopc c p false d a⟩
  | 0x4D => some ⟨2, some d, execClzPopc c p true d a⟩
  | _ => none

/-- A load or store opcode, 50h to 5Fh. -/
def feedLdSt (c : Chan) (p : Prefixes) (op : Nat) (d base : Reg) (l : List Byte) : Fed :=
  let disp : Disp := if op < 0x58 then .d16 (immAt l 2 2) else .d32 (immAt l 2 4)
  let n := if op < 0x58 then 4 else 6
  match op % 8 with
  | 0 => ⟨n, some d, execLd c p .b d base disp⟩
  | 1 => ⟨n, some d, execLd c p .bu d base disp⟩
  | 2 => ⟨n, some d, execLd c p .h d base disp⟩
  | 3 => ⟨n, some d, execLd c p .hu d base disp⟩
  | 4 => ⟨n, some d, execLd c p .w d base disp⟩
  | 5 => ⟨n, none, execSt c p .b d base disp⟩
  | 6 => ⟨n, none, execSt c p .h d base disp⟩
  | _ => ⟨n, none, execSt c p .w d base disp⟩

/-- An opcode of form MA, 61h to 64h; `none` for a reserved bit. -/
def feedAtom (c : Chan) (p : Prefixes) (op : Nat) (d base : Reg) (l : List Byte) : Option Fed :=
  let s := hiReg (l.getD 2 0)
  let disp : BitVec 16 := immAt l 3 2
  if leAt l 2 1 % 16 ≠ 0 then none
  else match op with
  | 0x61 => some ⟨5, some d, execStc c p d base s disp⟩
  | 0x62 => some ⟨5, some d, execLdadd c p d base s disp⟩
  | 0x63 => some ⟨5, some d, execSwp c p d base s disp⟩
  | _ => some ⟨5, some d, execCas c p d base s disp⟩

/-- An opcode of the system map. -/
def feedSys (c : Chan) (p : Prefixes) (l : List Byte) : Option Fed :=
  let d := hiReg (l.getD 2 0)
  let a := loReg (l.getD 2 0)
  let cr := l.getD 3 0
  match leAt l 1 1 with
  | 0 => some ⟨4, some d, execMfc c p d cr⟩
  | 1 => some ⟨4, none, execMtc c p a cr⟩
  | 2 => if cr = 0 then some ⟨4, some d, execSetvl c p d a⟩ else none
  | _ => none

/-- The instruction that bytes from the opcode on spell, if it is one that can be fed: branches, calls, loops, traps, WAIT
and the maps of the streams and the Ledger are not. -/
def feedDecode (c : Chan) (p : Prefixes) (l : List Byte) : Option Fed :=
  let op := leAt l 0 1
  let d := hiReg (l.getD 1 0)
  let a := loReg (l.getD 1 0)
  if op = 0x01 then some ⟨1, none, execNop c p⟩
  else if op = 0x06 then some ⟨1, none, execFence c p⟩
  else if op = 0x07 then some ⟨1, none, execIflush c p⟩
  else if 0x10 ≤ op ∧ op < 0x40 then
    (feedSrc op l).map fun b => ⟨srcLen b, some d, feedAlu c p (op % 16) d a b⟩
  else if 0x40 ≤ op ∧ op < 0x50 then feedReg c p op d a l
  else if 0x50 ≤ op ∧ op < 0x60 then some (feedLdSt c p op d a l)
  else if op = 0x60 then some ⟨4, some d, execLdr c p d a (immAt l 2 2)⟩
  else if 0x61 ≤ op ∧ op ≤ 0x64 then feedAtom c p op d a l
  else if op = 0x65 then some ⟨2, none, execPush c p d a⟩
  else if op = 0x66 then some ⟨2, some d, execPop c p d a⟩
  else if op = 0x68 then some ⟨4, none, execLdd c p d a (immAt l 2 2)⟩
  else if op = 0x69 then some ⟨4, none, execStd c p d a (immAt l 2 2)⟩
  else if op = 0xFB then feedSys c p l
  else none

/-! ### Executing it (R465) -/

/-- A pc whose next instruction no loop ends at, so that PC and the loops do not change. -/
def feedPc (ch : Channel) (n : Nat) : Nat :=
  ((List.range 5).find? fun k => !(ch.lpe.toList.contains (BitVec.ofNat 32 (64 * k + n)))).getD 0

/-- The channel as it executes a fed instruction of `n` bytes: nothing is fetched, no imprecise exception is taken. -/
def feedIn (ch : Channel) (n : Nat) : Channel :=
  { ch with fed := true, pc := BitVec.ofNat 32 (64 * feedPc ch n), fbuf := [feedPc ch n], impr := [] }

/-- The channel after it: what was outstanding has arrived, and its pc is as it was. -/
def feedOut (old ch : Channel) : Channel :=
  { ch.deliverAll with fed := false, pc := old.pc, fbuf := old.fbuf, impr := old.impr }

/-- SX_FEEDSTAT and SX_FEEDRES. -/
def feedAnswer (s : State) (stat : Nat) (res : Word) : State :=
  (s.setReg R.sxFeedStat (BitVec.ofNat 32 stat)).setReg R.sxFeedRes res

/-- An MTC to a control register that is only read is an exception (R54), not an undecodable sequence. -/
def feedReadOnly (l : List Byte) : Bool := leAt l 0 1 == 0xFB && leAt l 1 1 == 1 && 0x15 ≤ leAt l 3 1 && leAt l 3 1 ≤ 0x17

/-- The fed instruction has still to wait for memory: BUSY says so, and each tick tries it again (R465, log 32). -/
def feedBusy (s : State) (c : Chan) (all : List Byte) : State :=
  feedAnswer { s with sx := { s.sx with feeding := some (c, all) } } 1 0

/-- What the execution of a fed instruction has come to: `s` is the state before it, `t` after; `all` are the bytes fed,
`l` those from the opcode on. -/
def feedEnd (s t : State) (c : Chan) (f : Fed) (n : Nat) (all l : List Byte) : State :=
  let old := s.chan c
  let ch := t.chan c
  match ch.heldX with
  | some (x, _) =>
    if x.vec = 1 ∧ feedReadOnly l = false then feedAnswer s 4 0
    else feedAnswer (t.setChan c old) (8 + 16 * x.vec) 0
  | none =>
    if ch.pc = (feedIn old n).pc ∨ ch.wait ≠ .none then feedBusy s c all
    else
      let t := t.setChan c (feedOut old ch)
      feedAnswer t 2 ((f.dst.map (t.chan c).rg).getD 0)

/-- The instruction that twelve bytes spell is executed on channel `c`, or refused (R465). -/
def feedBytes (s : State) (c : Chan) (all : List Byte) : State :=
  let (p, l) := feedPrefix .none all
  if (s.chan c).st ≠ .halted ∨ p.extra = true then feedAnswer s 4 0
  else match feedDecode c p l with
    | none => feedAnswer s 4 0
    | some f =>
      let n := prefixBytes p + f.len
      match f.run (s.modChan c fun ch => feedIn ch n) with
      | .next t => feedEnd s t c f n all l
      | _ => feedAnswer s 4 0

/-- A write of SX_FEEDCTL with GO = 1; while an instruction that was fed before waits, it does nothing (log 32). -/
def feed (s : State) (c : Chan) : State :=
  if s.sx.feeding.isSome then s
  else feedBytes s c (wordBytes (s.reg (R.sxFeed 0)) ++ wordBytes (s.reg (R.sxFeed 1)) ++ wordBytes (s.reg (R.sxFeed 2)))

/-- The fed instruction that waits is tried again (R465). -/
def feedRetry (s : State) : State :=
  match s.sx.feeding with
  | some (c, l) => feedBytes { s with sx := { s.sx with feeding := none } } c l
  | none => s

/-- The channel that a word written to SX_FEEDCTL names. -/
def feedChan (v : Word) : Chan := ⟨wfld v 3 0 % 16, by omega⟩

/-- A write of a control-space word, SX_FEEDCTL included. -/
def regWrite (s : State) (m : Master) (o : Nat) (be : BitVec 4) (v : Word) : State :=
  if o = R.sxFeedCtl then
    (if asBnm m && (m != .sextant || s.dbgen) && be.getLsbD 0 && bit v 4 then feed s (feedChan v) else s)
  else ctlWrite s m o be v

/-- SX_FEEDCTL_WRITE. -/
def execSxFeedctlWrite (m : Master) (v : Word) (s : State) : Host.Outcome State Fault Refusal :=
  .next (regWrite s m R.sxFeedCtl 15 v)

/-! ### SXACC (R457-R459) -/

/-- What Capture-DR loads: the result of the previous access. -/
def sxCapture (s : State) : BitVec 64 := s.sx.stat ++ 0#2 ++ s.sx.off ++ s.sx.data

/-- The result of an access. -/
def sxResult (s : State) (o : Nat) (w : Word) (stat : Nat) : State :=
  { s with sx := { s.sx with data := w, off := BitVec.ofNat 28 o, stat := BitVec.ofNat 2 stat } }

/-- Whether an access of SX_MDATA has to wait: STATUS 01b, and the scan that captures it repeats the access (R457). -/
def sxBusy (s : State) (wdata : Option Word) : Bool :=
  !s.sx.pend.isEmpty || (match wdata with
    | some v => (sxTryWrite s s.sxAddr v).isNone
    | none => (sxTryRead s s.sxAddr).isNone)

/-- The access that Update-DR performs. -/
def sxPerform (s : State) (a : Nat) : State :=
  let o := fld a 59 34 * 4
  if !s.dbgen then sxResult s o 0 2
  else if !inBlock o then sxResult (defaultAnswer s .sextant (ctlBase + o) (fld a 60 60 == 1)) o 0 2
  else if o = R.sxMdata && sxBusy s (if fld a 60 60 = 1 then some (BitVec.ofNat 32 (fld a 31 0)) else none) then sxResult s o 0 1
  else if fld a 60 60 = 1 then sxResult (regWrite s .sextant o 15 (BitVec.ofNat 32 (fld a 31 0))) o 0 0
  else
    let (w, failed, s) := debugRead s .sextant o
    sxResult s o w (if failed then 3 else 0)

/-- SXACC: the result of the previous access is answered, and the next is performed. -/
def execSxacc (a : BitVec 64) (s : State) : Host.Outcome State Fault Refusal :=
  let s := { s with sx := { s.sx with ir := 0b100000, pinsHeld := false, highz := false } }
  .next ((sxPerform s a.toNat).answers (.bits ((List.range 64).map (sxCapture s).getLsbD)))

/-! ### SX_MDATA (R466) -/

/-- The address of the memory window is that of SX_FEEDCTL. -/
def State.sxAtFeed (s : State) : Bool := s.target s.sxAddr == .control R.sxFeedCtl && !s.sxKeyRefused

/-- SX_MDATA_ACCESS: one word of physical memory through M2. -/
def sxMdataAccess (wdata : Option Word) (s : State) : State :=
  match wdata with
  | some w =>
    if s.dbgen && s.sxAtFeed then sxDone (regWrite s .sextant R.sxFeedCtl 15 w) false
    else ctlWrite s .sextant R.sxMdata 15 w
  | none => let (w, s) := ctlRead s .sextant R.sxMdata; s.answers (.word w)

/-- SX_MDATA_ACCESS. -/
def execSxMdataAccess (wdata : Option Word) (s : State) : Host.Outcome State Fault Refusal := .next (sxMdataAccess wdata s)

/-! ### Plain accesses (R9, R343, R400, R403, R404) -/

/-- A word of BAR2 (R344, R400): a doorbell reads the last value written to it. -/
def bar2Read (s : State) (o : Nat) : Word :=
  let n : Fin 4 := ⟨o / 8 % 4, by omega⟩
  if o < 0x20 then BitVec.ofNat 32 (if o % 8 = 0 then s.cmds.rings[n].dbC else s.cmds.rings[n].dbS)
  else if o = 0x804 then BitVec.ofNat 32 (s.mbxBusy.toNat + 2 * s.cmds.mbxDone.toNat)
  else if 0x810 ≤ o ∧ o < 0x820 then bytesWord ((s.cmds.mbxReply.drop (o - 0x810)).take 4)
  else if 0x820 ≤ o ∧ o < 0xC30 then bytesWord (((s.cmds.mbxReq ++ List.replicate 1040 0).drop (o - 0x820)).take 4)
  else 0

/-- The mailbox request with one word written. -/
def mbxPut (l : List Byte) (k : Nat) (be : BitVec 4) (v : Word) : List Byte :=
  let l := l ++ List.replicate (1040 - l.length) 0
  l.take k ++ wordBytes (merge (byteMask be) (bytesWord ((l.drop k).take 4)) v) ++ l.drop (k + 4)

/-- A write in BAR2; bytes that are not enabled keep their value (R522). -/
def bar2Write (s : State) (o : Nat) (be : BitVec 4) (v : Word) : State :=
  let n : Fin 4 := ⟨o / 8 % 4, by omega⟩
  let w := merge (byteMask be) (bar2Read s o) v
  if o < 0x20 ∧ o % 8 = 0 then dbCtailWrite n w s
  else if o < 0x20 ∧ o % 8 = 4 then dbSheadWrite n w s
  else if o = 0x40 then assertEvent s (400 + wfld w 3 0)
  else if o = 0x800 then mbxGo w s
  else if 0x820 ≤ o ∧ o < 0xC30 then
    { s with cmds := { s.cmds with mbxReq := mbxPut s.cmds.mbxReq (o - 0x820) be v } }
  else s

/-- REGISTER_WRITE: an access to one word of BAR2 by the host, or of the control space by any master, where an offset in no
block is answered by the default target (R305, R311). -/
def registerWrite (m : Master) (bar2 : Bool) (a : WordAccess) (s : State) : State :=
  let o := a.offset.toNat / 4 * 4
  if bar2 then
    if !s.hostReaches then s
    else if a.beyond then badAccess s a.wdata.isNone
    else match a.wdata with
      | some v => bar2Write s (o % 0x10000) a.be v
      | none => s.answers (.word (bar2Read s (o % 0x10000)))
  else if s.rst.hold.isSome || (m == .sextant && !s.dbgen) then s
  else if !inBlock o then
    let s := defaultAnswer s m (ctlBase + o) a.wdata.isSome
    if a.wdata.isNone then s.answers .abort else s
  else match a.wdata with
    | some v => regWrite s m o a.be v
    | none => let (w, s) := masterRead s m o; s.answers (.word w)

/-- REGISTER_WRITE. -/
def execRegisterWrite (m : Master) (bar2 : Bool) (a : WordAccess) (s : State) : Host.Outcome State Fault Refusal :=
  .next (registerWrite m bar2 a s)

end Sys2Proof.Machine
end

