-- ==== Sys2Proof/Machine/LogRows.lean ====
section
/-! DEFINITION. The Logbook's own steps (14 R443-R453). -/
namespace Sys2Proof.Machine

/-- LOGBOOK_RECORD_WRITE: the recorder accepts the oldest waiting record (R443, R448, R449, R451). -/
def recordWrite (s : State) : State :=
  match s.log.waiting with
  | [] => s
  | r :: rs => acceptRec { s with log := { s.log with waiting := rs } } r

/-- LOGBOOK_RECORD_WRITE. -/
def execLogbookRecordWrite (s : State) : Host.Outcome State Fault Refusal := .next (recordWrite s)

/-- RECORD_WAIT_TIMEOUT: a record that waited more than 1 µs is lost (R443). -/
def execRecordWaitTimeout (s : State) : Host.Outcome State Fault Refusal :=
  .next (match s.log.waiting with
    | [] => s
    | _ :: rs => State.count { s with log := { s.log with waiting := rs } } R.lbLostCnt)

/-- LB_FRZ_WRITE: the writer's own bit (R451, R455). -/
def execLbFrzWrite (m : Master) (v : Word) (s : State) : Host.Outcome State Fault Refusal := .next (ctlWrite s m R.lbFrz 15 v)

/-- FREEZE_TIMEOUT: a freeze that has lasted FRZMAX is released (R451). -/
def freezeTimeout (s : State) : State :=
  if frozen s then
    let mask := s.reg R.lbFrzMask
    formRecord ((setFreeze s 0).setBit R.lbStat 23 true) 0 2 0x219 [mask]
  else s

/-- FREEZE_TIMEOUT. -/
def execFreezeTimeout (s : State) : Host.Outcome State Fault Refusal := .next (freezeTimeout s)

/-- LB_CLEAR_WRITE: the key 7C1Eh clears (R453, R491). -/
def execLbClearWrite (m : Master) (v : Word) (s : State) : Host.Outcome State Fault Refusal :=
  .next (ctlWrite s m R.lbClear 15 v)

/-- LB_SEQL_READ: an ordinary read latches the high half; a Sextant read does not (R452, R455). -/
def execLbSeqlRead (m : Master) (s : State) : Host.Outcome State Fault Refusal :=
  let (w, s) := masterRead s m R.lbSeqL
  .next (s.answers (.word w))

end Sys2Proof.Machine
end

