-- ==== Sys2Proof/Machine/Net.lean ====
section
/-! DEFINITION. The sensor-network ports (13 R409-R418). -/
namespace Sys2Proof.Machine

/-- Change what a port holds. -/
def State.modNx (s : State) (p : Fin 4) (f : NxSt → NxSt) : State :=
  { s with ifc := { s.ifc with nx := s.ifc.nx.set p (f s.ifc.nx[p]) } }

/-- Add to statistics counter `k`, which wraps (R418, R490). -/
def countNx (s : State) (p : Fin 4) (k : Fin 11) (n : Nat) : State :=
  s.modNx p fun x => { x with stats := x.stats.set k (x.stats[k] + BitVec.ofNat 64 n) }

/-! ### The sensor-frame header (R412) -/

/-- Bytes of a sample. -/
def sampleBytes (fmt : Nat) : Nat := if fmt = 0 then 2 else 4

/-- Bytes from the sensor-frame header to the last sample. -/
def frameLen (l : List Byte) : Nat := 32 + leAt l 14 2 * sampleBytes (leAt l 12 1)

/-- SYNC, VER, FMT and NSAMP are valid and the payload is long enough (R414). -/
def headerOk (l : List Byte) : Bool :=
  leAt l 0 2 == 0x5153 && leAt l 2 1 == 1 && leAt l 12 1 ≤ 4 && 1 ≤ leAt l 14 2 && leAt l 14 2 ≤ 4096 &&
  frameLen l ≤ l.length

/-! ### Classification (R411, R413-R417) -/

/-- The VID that rules see: VID 0 counts as untagged, and an untagged frame has VID 0. -/
def seenVid (f : EthFrame) : Nat := if f.tagged then f.vid.toNat else 0

/-- A frame that the port counts as an error (R409). -/
def frameBad (f : EthFrame) : Bool := !f.checkOk || f.bytes < 64 || 9216 < f.bytes

/-- Whether the frame is a management packet (R411). -/
def isManagement (s : State) (p : Fin 4) (f : EthFrame) : Bool :=
  s.rbit (R.nxCfg p) 5 && seenVid f == s.rfld (R.nxCfg p) 27 16 && f.ethertype == 0x88B6

/-- Whether rule `r` matches (R413). -/
def ruleMatches (s : State) (p : Fin 4) (f : EthFrame) (r : Fin 16) : Bool :=
  let m := s.reg (R.nxRuleMatch p r)
  let key := s.rfld (R.nxRuleKey p r) 15 0
  let conc := s.reg (R.nxRuleConc p r)
  let c := leAt f.payload 4 2
  bit m 16 && (bit m 12 || seenVid f == wfld m 11 0) &&
  (if bit m 13 then (f.udpPort.map (·.toNat)) == some key else f.ethertype.toNat == key) &&
  wfld conc 15 0 ≤ c && c ≤ wfld conc 31 16

/-- Slots of a ring, and bytes of a slot. -/
def State.nxSlots (s : State) (p r : Fin 4) : Nat := 2 ^ s.rfld (R.nxRingCfg p r) 15 12
/-- See `State.nxSlots`. -/
def State.nxSlotBytes (s : State) (p r : Fin 4) : Nat := 2 ^ (10 + s.rfld (R.nxRingCfg p r) 11 9)

/-- The slot written next: WIDX, and those written whose advance has still to come. -/
def State.nxNext (s : State) (p r : Fin 4) : Nat :=
  (s.rfld (R.nxRingWidx p r) 10 0 + (s.ifc.nx[p]).full[r]) % s.nxSlots p r

/-- Whether the ring is full (R417). -/
def State.nxFull (s : State) (p r : Fin 4) : Bool :=
  (s.nxNext p r + 1) % s.nxSlots p r == s.rfld (R.nxRingRidx p r) 10 0

/-- Physical address of a slot (R416). -/
def State.nxSlotAddr (s : State) (p r : Fin 4) (i : Nat) : Nat :=
  let w := s.reg (R.nxRingCfg p r)
  0x800000000000 + 0x200000 * wfld w 4 0 + 0x4000 * wfld w 31 17 + i * s.nxSlotBytes p r

/-- The receive descriptor (R416). -/
def rxDescriptor (s : State) (f : EthFrame) (len : Nat) (rule : Fin 16) (gap : Bool) : List Byte :=
  let tagged := f.tagged && f.vid != 0
  leBytes 8 s.time.toNat ++ leBytes 2 len ++ [BitVec.ofNat 8 rule.val, BitVec.ofNat 8 (gap.toNat + 2 * tagged.toNat)] ++
  leBytes 2 (seenVid f) ++ [0, 0]

/-- Whether a sequence number does not follow that of the last frame the rule took (R415). -/
def seqGap (s : State) (p : Fin 4) (r : Fin 16) (seq : Word) : Bool :=
  match (s.ifc.nx[p]).seqs[r] with
  | some q => seq != q + 1
  | none => false

/-- A taken frame: the sequence check, and the slot (R415, R416). -/
def takeFrame (s : State) (p : Fin 4) (r : Fin 16) (g : Fin 4) (f : EthFrame) : State :=
  let seq := BitVec.ofNat 32 (leAt f.payload 8 4)
  let gap := seqGap s p r seq
  let len := frameLen f.payload
  let a := s.nxSlotAddr p g (s.nxNext p g)
  let s := writeMem 1024 s a (rxDescriptor s f len r gap ++ f.payload.take len)
  let s := s.modNx p fun x => { x with seqs := x.seqs.set r (some seq), full := x.full.set g (x.full[g] + 1) }
  if gap then assertEvent (countNx s p 8 1) (nxEvent p 7) else s

/-- A frame that rule `r` takes: refused under its cause, or written (R414, R417). A ring that is not enabled takes no
frame (log 14). -/
def ruleFrame (s : State) (p : Fin 4) (r : Fin 16) (f : EthFrame) : State :=
  let g : Fin 4 := ⟨s.rfld (R.nxRuleMatch p r) 15 14 % 4, by omega⟩
  let cfg := s.reg (R.nxRingCfg p g)
  if !headerOk f.payload then countNx s p 4 1
  else if !bit cfg 16 || s.nxSlotBytes p g < 16 + frameLen f.payload then countNx s p 5 1
  else if s.nxFull p g then assertEvent (countNx s p 5 1) (nxEvent p 6)
  else if s.rfld (R.cbOwner (wfld cfg 4 0)) 4 0 ≠ wfld cfg 8 5 then countNx s p 6 1
  else takeFrame s p r g f

/-- FRAME_RECEIVE. A management packet goes to the Binnacle and no rule sees it (R411). A frame whose slot lies in a bank that is being wiped waits for the wipe (R294). -/
def frameReceive (p : Fin 4) (f : EthFrame) (s : State) : State :=
  if !(s.ifc.nx[p]).up then s
  else if s.sx.all then countNx s p 7 1
  else
    let s1 := countNx (countNx s p 0 1) p 1 f.bytes
    if frameBad f then countNx s1 p 2 1
    else if f.pause then countNx s1 p 9 1
    else if isManagement s1 p f then vlanPacket p f.payload (assertEvent s1 (nxEvent p 9))
    else match (List.finRange 16).find? (ruleMatches s1 p f) with
      | none => countNx s1 p 3 1
      | some r =>
        let g := s1.rfld (R.nxRuleMatch p r) 15 14
        if s1.bankWaits (s1.rfld (R.nxRingCfg p g) 4 0) then s else ruleFrame s1 p r f

/-- FRAME_RECEIVE. -/
def execFrameReceive (port : NxPort) (f : EthFrame) (s : State) : Host.Outcome State Fault Refusal :=
  .next (frameReceive port f s)

/-- WIDX_ADVANCE: the writes of the slot have been performed; the threshold event (R417). -/
def widxAdvance (p g : Fin 4) (s : State) : State :=
  if (s.ifc.nx[p]).full[g] = 0 then s
  else
    let n := s.nxSlots p g
    let w := (s.rfld (R.nxRingWidx p g) 10 0 + 1) % n
    let s := (s.modNx p fun x => { x with full := x.full.set g (x.full[g] - 1) }).setReg (R.nxRingWidx p g) (BitVec.ofNat 32 w)
    let thr := s.rfld (R.nxRingThr p g) 10 0
    if thr ≠ 0 ∧ thr ≤ (w + n - s.rfld (R.nxRingRidx p g) 10 0) % n then assertEvent s (nxEvent p (2 + g.val)) else s

/-- WIDX_ADVANCE. -/
def execWidxAdvance (port : NxPort) (ring : Fin 4) (s : State) : Host.Outcome State Fault Refusal :=
  .next (widxAdvance port ring s)

/-- NX_RIDX_WRITE (R417). -/
def execNxRidxWrite (m : Master) (port : NxPort) (ring : Fin 4) (v : Word) (s : State) : Host.Outcome State Fault Refusal :=
  .next (ctlWrite s m (R.nxRingRidx port ring) 15 v)

/-- NX_RING_CFG_WRITE (R417). -/
def execNxRingCfgWrite (m : Master) (port : NxPort) (ring : Fin 4) (v : Word) (s : State) :
    Host.Outcome State Fault Refusal := .next (ctlWrite s m (R.nxRingCfg port ring) 15 v)

/-- NX_CFG_WRITE (R410). -/
def execNxCfgWrite (m : Master) (port : NxPort) (v : Word) (s : State) : Host.Outcome State Fault Refusal :=
  .next (ctlWrite s m (R.nxCfg port) 15 v)

/-- NX_STAT_LOW_READ (R418). -/
def execNxStatLowRead (m : Master) (port : NxPort) (k : Fin 11) (s : State) : Host.Outcome State Fault Refusal :=
  let (w, s) := masterRead s m (R.nxStatL port k)
  .next (s.answers (.word w))

/-- A frame has been sent: event k = 10. -/
def sentFrame (s : State) (p : Fin 4) : State := assertEvent (countNx s p 10 1) (nxEvent p 10)

/-- FRAME_TRANSMIT: the oldest frame of the transmit buffer, or a PTP event message of the gPTP port, whose timestamp is
captured (R410). -/
def frameTransmit (p : Fin 4) (ptp : Bool) (s : State) : State :=
  if !(s.ifc.nx[p]).up then s
  else if ptp then
    (if s.rbit (R.nxCfg p) 4 then
      let s := (s.setReg (R.nxTxtsL p) (s.time.truncate 32)).setReg (R.nxTxtsH p) ((s.time >>> 32).truncate 32)
      sentFrame (assertEvent s (nxEvent p 1)) p
    else s)
  else match (s.ifc.nx[p]).tx with
    | [] => s
    | t :: ts => (sentFrame (s.modNx p fun x => { x with tx := ts }) p).answers (.bytes t.bytes)

/-- FRAME_TRANSMIT. -/
def execFrameTransmit (port : NxPort) (ptp : Bool) (s : State) : Host.Outcome State Fault Refusal :=
  .next (frameTransmit port ptp s)

/-- ETHERNET_LINK_STATE_CHANGE: a port trains from start step 4 on at the speed and with the FEC of NXp_CFG (R409, R489). -/
def ethernetLink (p : Fin 4) (up : Bool) (s : State) : State :=
  let ok := s.rst.hold.isNone && 4 ≤ s.rst.stage && nxTrains (s.reg (R.nxCfg p))
  if (s.ifc.nx[p]).up = up || (up && !ok) then s
  else assertEvent (s.modNx p fun x => { x with up := up }) (nxEvent p 0)

/-- ETHERNET_LINK_STATE_CHANGE. -/
def execEthernetLinkStateChange (port : NxPort) (up : Bool) (s : State) : Host.Outcome State Fault Refusal :=
  .next (ethernetLink port up s)

end Sys2Proof.Machine
end

