-- ==== Sys2Proof/Machine/TimePins.lean ====
section
/-! DEFINITION. Time, phase references, timers, pins, trips and the board's management bus (13 R419-R429, 15 R489). -/
namespace Sys2Proof.Machine

/-! ### Chronometer (R419, R420) -/

/-- Whether the device is a cascade follower, which takes its time from the lodestar (R432, R433). -/
def State.follows (s : State) : Bool := !s.ifc.casc.lodestar && s.ifc.casc.index != 0

/-- An offset of the Chronometer is found: more than 10 µs behind is removed by one step forward, any other by running
fast or slow; the Chronometer never goes backward (R419). -/
def correctTime (s : State) (offset : Int) : State :=
  if offset > 10000 then
    fireAlarms { s with time := s.time + BitVec.ofNat 64 offset.toNat, ifc := { s.ifc with slew := 0 } }
  else { s with ifc := { s.ifc with slew := offset } }

/-- Lock to a source: 1 for IEEE 802.1AS, 2 for the cascade. -/
def lockTo (s : State) (src : Nat) : State := s.setReg R.chrStat (BitVec.ofNat 32 (src + 4))

/-- The port that holds the gPTP role. -/
def gptpPort (s : State) : Option (Fin 4) := (List.finRange 4).find? fun p => s.rbit (R.nxCfg p) 4

/-- GPTP_MESSAGE: the end station corrects the Chronometer; a follower ignores it (R410, R419, R433). -/
def gptpMessage (g : GptpMsg) (s : State) : State :=
  match gptpPort s with
  | some p => if (s.ifc.nx[p]).up && !s.follows then lockTo (correctTime s g.offset) 1 else s
  | none => s

/-- GPTP_MESSAGE. -/
def execGptpMessage (g : GptpMsg) (s : State) : Host.Outcome State Fault Refusal := .next (gptpMessage g s)

/-- TIME_SYNCHRONISATION_LOST: event k = 11 of the gPTP port, SYNC cleared, and the Chronometer runs free (R419). -/
def syncLost (s : State) : State :=
  match gptpPort s with
  | some p =>
    if s.follows then s
    else assertEvent { s.setBit R.chrStat 2 false with ifc := { s.ifc with slew := 0 } } (nxEvent p 11)
  | none => s

/-- TIME_SYNCHRONISATION_LOST. -/
def execTimeSynchronisationLost (s : State) : Host.Outcome State Fault Refusal := .next (syncLost s)

/-- CHRONOMETER_ALARM: the Chronometer first reaches the time of an armed alarm, with its next nanosecond at the latest
(R420). -/
def chronometerAlarm (k : Fin 4) (s : State) : State :=
  if s.rbit R.chrArm k.val && s.almTime k.val ≤ s.time.toNat + 1 then
    fireAlarms { s with time := BitVec.ofNat 64 (max s.time.toNat (s.almTime k.val)) }
  else s

/-- CHRONOMETER_ALARM. -/
def execChronometerAlarm (k : Fin 4) (s : State) : Host.Outcome State Fault Refusal := .next (chronometerAlarm k s)

/-- CHR_ARM_WRITE (R420). -/
def execChrArmWrite (m : Master) (v : Word) (s : State) : Host.Outcome State Fault Refusal := .next (ctlWrite s m R.chrArm 15 v)

/-- CHR_TIMEL_READ (R419). -/
def execChrTimelRead (m : Master) (s : State) : Host.Outcome State Fault Refusal :=
  let (w, s) := masterRead s m R.chrTimeL
  .next (s.answers (.word w))

/-! ### Peripheral timers (R421) -/

/-- Whether a timer counts: enabled, and its channel not halted. -/
def State.timerRuns (s : State) (n : Fin 16) : Bool :=
  s.rbit (R.tmrCfg n) 0 && (s.chan n.castSucc).st != .halted && !s.sx.all

/-- The count equals TMRn_CMP: EV(8n + 2), and the count returns to 0 or stops. -/
def timerMatch (s : State) (n : Fin 16) : State :=
  let s := assertEvent s (8 * n.val + 2)
  if s.rbit (R.tmrCfg n) 1 then s.setReg (R.tmrCnt n) 0
  else (s.setReg (R.tmrCnt n) (s.reg (R.tmrCmp n))).setBit (R.tmrCfg n) 0 false

/-- One advance: values written meanwhile take effect, then the compare. -/
def timerAdvance (s : State) (n : Fin 16) : State :=
  let cnt := (s.ifc.tmrNew[n]).2.getD (s.reg (R.tmrCnt n) + 1)
  let s := (takeTimer s n).setReg (R.tmrCnt n) cnt
  if cnt = s.reg (R.tmrCmp n) then timerMatch s n else s

/-- The count after the next advance, and the compare value then. -/
def State.timerNext (s : State) (n : Fin 16) : Word × Word :=
  ((s.ifc.tmrNew[n]).2.getD (s.reg (R.tmrCnt n) + 1), (s.ifc.tmrNew[n]).1.getD (s.reg (R.tmrCmp n)))

/-- TIMER_COMPARE_MATCH: the advance by which the count comes to equal TMRn_CMP. -/
def execTimerCompareMatch (n : Fin 16) (s : State) : Host.Outcome State Fault Refusal :=
  .next (if s.timerRuns n && (s.timerNext n).1 == (s.timerNext n).2 then timerAdvance s n else s)

/-- TIMER_WRAP: the advance by which the count passes FFFF_FFFFh, which raises nothing but a compare with 0. -/
def execTimerWrap (n : Fin 16) (s : State) : Host.Outcome State Fault Refusal :=
  .next (if s.timerRuns n && s.reg (R.tmrCnt n) == 0xFFFFFFFF && (s.timerNext n).1 == 0 then timerAdvance s n else s)

/-! ### Phase references (R422, R423) -/

/-- Whether an edge falls into the hold-off of the last captured one. -/
def State.kpHeldOff (s : State) (i : Fin 16) : Bool :=
  match s.ifc.kpLast[i] with
  | some t => s.ticks - t < s.rfld (R.kpCfg i) 31 16 * 1000
  | none => false

/-- PHASE_REFERENCE_CAPTURE: an edge of an input. The inputs work once their registers have been restored, from start step 4
on (R480, R489). -/
def phaseCapture (i : Fin 16) (falling : Bool) (s : State) : State :=
  if !s.tripsRun || !s.rbit (R.kpCfg i) 0 || s.rbit (R.kpCfg i) 1 != falling then s
  else if s.kpHeldOff i then s.countFld (R.kpStat i) 31 20
  else
    let s := assertEvent (s.modReg (R.kpRevCnt i) (· + 1)) (416 + i.val)
    let s : State := { s with ifc := { s.ifc with kpLast := s.ifc.kpLast.set i (some s.ticks) } }
    if (s.ifc.kpFifo[i]).length < 16 then
      { s with ifc := { s.ifc with kpFifo := s.ifc.kpFifo.set i (s.ifc.kpFifo[i] ++ [s.time]) } }
    else s.countFld (R.kpStat i) 19 8

/-- PHASE_REFERENCE_CAPTURE. -/
def execPhaseReferenceCapture (i : Fin 16) (falling : Bool) (s : State) : Host.Outcome State Fault Refusal :=
  .next (phaseCapture i falling s)

/-- KP_TSL_READ (R423). -/
def execKpTslRead (m : Master) (i : Fin 16) (s : State) : Host.Outcome State Fault Refusal :=
  let (w, s) := masterRead s m (R.kpTsl i)
  .next (s.answers (.word w))

/-! ### GPIO (R428) -/

/-- GPIO_EDGE: the board drives a pin to a level; an edge that GPIO_EDGE selects raises EV(432 + i). -/
def gpioEdge (i : Fin 32) (level : Bool) (s : State) : State :=
  let old := bit s.ifc.gpio i.val
  let sel := s.rfld (R.gpioEdge (i.val / 16)) (2 * (i.val % 16) + 1) (2 * (i.val % 16))
  let s : State := { s with ifc := { s.ifc with gpio := wbit s.ifc.gpio i.val level } }
  if old = level || s.rbit R.gpioDir i.val || !s.tripsRun then s
  else if (level && sel % 2 == 1) || (!level && 2 ≤ sel) then assertEvent s (432 + i.val)
  else s

/-- GPIO_EDGE. -/
def execGpioEdge (i : Fin 32) (level : Bool) (s : State) : Host.Outcome State Fault Refusal := .next (gpioEdge i level s)

/-- GPIO_SET_WRITE. -/
def execGpioSetWrite (m : Master) (v : Word) (s : State) : Host.Outcome State Fault Refusal :=
  .next (ctlWrite s m R.gpioSet 15 v)

/-- GPIO_CLR_WRITE. -/
def execGpioClrWrite (m : Master) (v : Word) (s : State) : Host.Outcome State Fault Refusal :=
  .next (ctlWrite s m R.gpioClr 15 v)

/-! ### Trips and heartbeat (R424-R427) -/

/-- TRIP_LATCH_WRITE (R425). -/
def execTripLatchWrite (m : Master) (v : Word) (s : State) : Host.Outcome State Fault Refusal :=
  .next (ctlWrite s m R.tripLatch 15 v)

/-- TRIP_CLR_WRITE (R425). -/
def execTripClrWrite (m : Master) (v : Word) (s : State) : Host.Outcome State Fault Refusal :=
  .next (ctlWrite s m R.tripClr 15 v)

/-- TRIP_MASK_WRITE (R425). -/
def execTripMaskWrite (m : Master) (v : Word) (s : State) : Host.Outcome State Fault Refusal :=
  .next (ctlWrite s m R.tripMask 15 v)

/-- TRIP_HBKICK_WRITE (R426). -/
def execTripHbkickWrite (m : Master) (v : Word) (s : State) : Host.Outcome State Fault Refusal :=
  .next (ctlWrite s m R.tripHbkick 15 v)

/-- TRIP_HBCFG_WRITE (R426). -/
def execTripHbcfgWrite (m : Master) (v : Word) (s : State) : Host.Outcome State Fault Refusal :=
  .next (ctlWrite s m R.tripHbcfg 15 v)

/-- HEARTBEAT_EXPIRY: PERIOD µs have passed without a kick; a further expiry raises nothing (R426). -/
def heartbeatExpiry (s : State) : State :=
  if !s.tripsRun || s.rfld R.tripHbcfg 15 0 = 0 || s.rbit R.tripHbcfg 16 then s
  else
    let s := s.setBit R.tripHbcfg 16 true
    let s := assertEvent { s with ifc := { s.ifc with hbLevel := false } } 497
    formRecord s 5 5 0x210 [s.reg R.tripLatch, s.reg R.tripCfg]

/-- HEARTBEAT_EXPIRY. -/
def execHeartbeatExpiry (s : State) : Host.Outcome State Fault Refusal := .next (heartbeatExpiry s)

/-- HEARTBEAT_TOGGLE: every 250 µs while EXPIRED = 0 (R426). -/
def heartbeatToggle (s : State) : State :=
  if !s.tripsRun || s.rbit R.tripHbcfg 16 then s
  else { s with ifc := { s.ifc with hbLevel := !s.ifc.hbLevel, hbPhase := 0 } }

/-- HEARTBEAT_TOGGLE. -/
def execHeartbeatToggle (s : State) : Host.Outcome State Fault Refusal := .next (heartbeatToggle s)

/-- TRIPn_N (R424, R427). -/
def tripPin (s : State) (n : Fin 8) : PinLevel :=
  let oe := s.rbit R.tripCfg n.val
  s.tapped (32 + n.val) <| if !s.tripsRun then .highZ
  else if oe && ((s.rbit R.tripLatch n.val && !s.rbit R.tripMask n.val) ||
      (s.rbit R.tripHbcfg 16 && s.rbit R.tripCfg (8 + n.val))) then .low
  else if oe then .high else .highZ

/-- HEARTBEAT (R426, R427). -/
def heartbeatPin (s : State) : PinLevel :=
  s.tapped 40 <| if !s.tripsRun || !s.rbit R.tripCfg 16 then .highZ
  else if s.rbit R.tripHbcfg 16 then .low
  else if s.ifc.hbLevel then .high else .low

/-- SMBALERT_N, asserted low while EV497 or EV502 is pending (R429). -/
def smbAlertPin (s : State) : PinLevel :=
  s.tapped 41 <| if !s.tripsRun then .highZ
  else if s.rbit (R.evcPend 15) 17 || s.rbit (R.evcPend 15) 22 then .low else .highZ

/-- The pin groups of R489 that no other definition shows. -/
inductive PinGroup where | uart | spiNor | smb0 | ddr5 | pcie | ethernet | kenrid | lodestar
  deriving DecidableEq, Repr

/-- What a group's pins do. -/
inductive PinState where
  | pullUp
  | driven
  | idle
  | selfRefresh
  | training
  | sampled
  deriving DecidableEq, Repr

/-- Pin states in and after a reset (R489). A core reset holds nothing, so that what runs goes on. -/
def pinState (s : State) (g : PinGroup) : PinState :=
  let stage := if s.rst.hold.isSome then 0 else s.rst.stage
  match g with
  | .uart => if s.tripsRun then .driven else .pullUp
  | .spiNor => if 1 ≤ stage then .driven else .pullUp
  | .smb0 => if 4 ≤ stage then .driven else .pullUp
  | .ddr5 =>
    if s.rst.hold = some .power then .idle
    else if stage < 5 then (if s.rst.ddrLost then .idle else .selfRefresh)
    else if stage = 5 then .training else .driven
  | .pcie => if 2 ≤ stage then .driven else .idle
  | .ethernet | .kenrid => if 4 ≤ stage then .driven else .idle
  | .lodestar => if stage = 1 then .sampled else .idle

/-! ### SMB1 (R429) -/

/-- SMB1 answers while its pins are driven: from start step 4 on, and in recovery mode. -/
def smb1 (s : State) (a : State → Answer) : State :=
  if s.tripsRun || (s.rst.hold.isNone && s.rbit R.bnmLcs 4) then s.answers (a s) else s.answers .none

/-- SMB1 00h. -/
def execSmb1StatusRead (s : State) : Host.Outcome State Fault Refusal :=
  .next (smb1 s fun s => .word (BitVec.ofNat 32 ((s.rbit R.rstStat 0).toNat + s.bnm.sensors.throttle.toNat * 2 +
    (s.rbit R.bnmLcs 4).toNat * 4 + (s.reg R.evcLockStat != 0).toNat * 8)))

/-- SMB1 01h: a 16-bit word. -/
def execSmb1TemperatureRead (s : State) : Host.Outcome State Fault Refusal :=
  .next (smb1 s fun s => .word (BitVec.ofNat 32 (BitVec.ofInt 16 (hottest s.bnm.sensors.temps)).toNat))

/-- SMB1 02h: units of 10 mW. -/
def execSmb1PowerRead (s : State) : Host.Outcome State Fault Refusal :=
  .next (smb1 s fun s => .word (BitVec.ofNat 32 (s.bnm.sensors.power.toNat / 10 % 65536)))

/-- SMB1 03h: monitor 0 measures VDD_CORE. -/
def execSmb1VcoreRead (s : State) : Host.Outcome State Fault Refusal :=
  .next (smb1 s fun s => .word ((s.bnm.sensors.rails.getD 0 0).zeroExtend 32))

/-- SMB1 10h: a block of four bytes. -/
def execSmb1ResetCauseRead (s : State) : Host.Outcome State Fault Refusal :=
  .next (smb1 s fun s => .bytes (wordBytes (s.reg R.rstCause)))

/-- Any other SMB1 command is not acknowledged. -/
def execSmb1UnsupportedCommand (_ : Byte) (s : State) : Host.Outcome State Fault Refusal := .next (s.answers .none)

end Sys2Proof.Machine
end

