-- ==== Sys2Proof/Machine/Kenrid.lean ====
section
/-! DEFINITION. Kenrid Link and the cascade (13 R430-R436, 11 R368). -/
namespace Sys2Proof.Machine

/-- Event k of Kenrid port q. -/
def klEvent (q : Fin 4) (k : Nat) : Nat := 464 + 8 * q.val + k

/-- Change what a Kenrid port holds. -/
def State.modKl (s : State) (q : Fin 4) (f : KlSt → KlSt) : State :=
  { s with ifc := { s.ifc with kl := s.ifc.kl.set q (f s.ifc.kl[q]) } }

/-- KLq_STAT.UP. -/
def State.klUp (s : State) (q : Fin 4) : Bool := s.rbit (R.klStat q) 0
/-- KLq_STAT.ADMIT. -/
def State.klAdmit (s : State) (q : Fin 4) : Bool := s.rbit (R.klStat q) 3

/-! ### Link layer (R430, R431) -/

/-- A flit has been received good, the next of its port in sequence: its number is the one that is acknowledged from now on.
The commands are the flits that the link layer delivers: of those that fail their CRC, FLIT_ACK_NAK tells, and the table has
no command for one that is out of sequence or of a reserved TYPE (log 36). -/
def received (s : State) (q : Fin 4) : State := s.modKl q fun k => { k with got := k.got + 1, nak := false }

/-- A flit of device `d` has been received good at the port that leads there. -/
def receivedFrom (s : State) (d : Fin 8) : State :=
  match s.kenridRoute d with
  | some q => received s q
  | none => s

/-- Replay every unacknowledged flit; the eighth replay of one retrains the link, after which the buffer is resent. -/
def replay (s : State) (q : Fin 4) : State :=
  let s := s.modKl q fun k => { k with sent := k.sent.map fun f => { f with tries := f.tries + 1 } }
  if (s.ifc.kl[q]).sent.any fun f => 8 ≤ f.tries then
    let s := s.modKl q fun k => { k with sent := k.sent.map fun f => { f with tries := 0 } }
    assertEvent (s.count (R.klReplayCnt q)) (klEvent q 2)
  else s

/-- The flits that an acknowledgement of sequence number `ack` leaves unacknowledged: those sent after it. -/
def unacked (l : List SentFlit) (ack : BitVec 12) : List SentFlit :=
  match l with
  | [] => []
  | f :: _ => if (ack - f.seq).toNat < l.length then l.drop ((ack - f.seq).toNat + 1) else l

/-- FLIT_ACK_NAK: flits up to ACK are released, and a NAK replays the others. A flit that fails its CRC is counted and
answered with a NAK, which is no new flit; an ack or nak of its own takes no sequence number (log 36). -/
def flitAckNak (q : Fin 4) (ack : BitVec 12) (nak crcOk : Bool) (s : State) : State :=
  if !s.klUp q then s
  else if !crcOk then (s.count (R.klCrcCnt q)).modKl q fun k => { k with nak := true }
  else
    let s := s.modKl q fun k => KlSt.fill 64 { k with sent := unacked k.sent ack }
    if nak then replay s q else s

/-- FLIT_ACK_NAK. -/
def execFlitAckNak (q : KlPort) (ack : BitVec 12) (nak crcOk : Bool) (s : State) : Host.Outcome State Fault Refusal :=
  .next (flitAckNak q ack nak crcOk s)

/-- REPLAY_TIMEOUT: 2 µs without acknowledgement. -/
def execReplayTimeout (q : KlPort) (s : State) : Host.Outcome State Fault Refusal :=
  .next (if s.klUp q && !(s.ifc.kl[q]).sent.isEmpty then replay s q else s)

/-- The forwarded commands that `f` picks are lost: status 0070h (R432). -/
def loseForwarded (s : State) (f : Packet → Bool) : State :=
  (List.finRange 4).foldl (fun s n => match s.cmds.rings[n].fwd with
    | some p => if f p then endRing (s.modRing n fun x => { x with fwd := none }) n ⟨0x70, BitVec.ofNat 32 p.dev, 0⟩ else s
    | none => s) s

/-- Whether the route to the device of index `d` uses port `q`. -/
def State.routedBy (s : State) (q : Fin 4) (d : Nat) : Bool := s.ifc.casc.routes[d % 8]'(Nat.mod_lt _ (by decide)) == some q

/-- KENRID_LINK_STATE_CHANGE: a port trains from start step 4 on while it is enabled; a link that goes down drops the
flits in its replay buffer and loses the commands it had forwarded (R431, R432, R489). -/
def kenridLink (q : Fin 4) (up : Bool) (width : BitVec 2) (s : State) : State :=
  if up then
    if s.rst.hold.isSome || s.rst.stage < 4 || !s.rbit (R.klCfg q) 0 || width = 0 then s
    else if s.klUp q && s.rfld (R.klStat q) 2 1 == width.toNat then s
    else assertEvent (s.setFld (R.klStat q) 2 0 (1 + 2 * width.toNat)) (klEvent q 0)
  else if s.klUp q then
    let s := (s.setReg (R.klStat q) 0).modKl q fun k => { k with sent := [], queued := [], nak := false }
    let s : State := { s with ifc := { s.ifc with casc := { s.ifc.casc with branch := s.ifc.casc.branch.set q [] } } }
    assertEvent (loseForwarded s fun p => s.routedBy q p.dev) (klEvent q 0)
  else s

/-- KENRID_LINK_STATE_CHANGE. -/
def execKenridLinkStateChange (q : KlPort) (up : Bool) (width : BitVec 2) (s : State) : Host.Outcome State Fault Refusal :=
  .next (kenridLink q up width s)

/-! ### The cascade (R432) -/

/-- The cause of a CASCADE_CHANGE record (R444). -/
def cascadeCode : CascadeCause → Nat
  | .admitted => 0 | .lost => 1 | .ninth => 2 | .secondLodestar => 3 | .rerouted => 4

/-- The CASCADE_CHANGE record of device `d` at port `q`. -/
def cascadeRecord (s : State) (q : Fin 4) (d : Nat) (c : CascadeCause) : State :=
  formRecord s 8 2 (0x220 + d) [BitVec.ofNat 32 q.val, BitVec.ofNat 32 (cascadeCode c)]

/-- Change the cascade. -/
def State.modCasc (s : State) (f : Cascade → Cascade) : State := { s with ifc := { s.ifc with casc := f s.ifc.casc } }

/-- The peer at a port is admitted, with its index. -/
def admitPeer (s : State) (q : Fin 4) (peer : Fin 8) : State := s.setFld (R.klStat q) 6 3 (1 + 2 * peer.val)

/-- The route to a device. -/
def setRoute (s : State) (d : Fin 8) (r : Option (Fin 4)) : State := s.modCasc fun c => { c with routes := c.routes.set d r }

/-- The hops to a device through a port: its place in the branch found there (R432). -/
def Cascade.hops (c : Cascade) (q : Fin 4) (d : Fin 8) : Option Nat := c.branch[q].findIdx? (· == d)

/-- Whether port `q` is a better way to `d` than port `r`: fewer hops, or as many and a lower number (R432). -/
def Cascade.better (c : Cascade) (d : Fin 8) (q r : Fin 4) : Bool :=
  match c.hops q d, c.hops r d with
  | some m, some n => m < n || (m == n && q < r)
  | some _, none => true
  | none, _ => false

/-- The port of the route to a device: that of the fewest hops, and of these the lowest (R432). -/
def Cascade.best (c : Cascade) (d : Fin 8) : Option (Fin 4) :=
  (List.finRange 4).find? fun q => (c.hops q d).isSome && (List.finRange 4).all fun r => !c.better d r q

/-- The cascade with device `d` found behind port `q`. -/
def Cascade.grown (c : Cascade) (q : Fin 4) (d : Fin 8) : Cascade :=
  if c.branch[q].contains d then c else { c with branch := c.branch.set q (c.branch[q] ++ [d]) }

/-- Whether the topology is one of those permitted: a chain or a ring, of at most two branches, or a star, whose branches
have one device each (R432). -/
def Cascade.permitted (c : Cascade) : Bool :=
  ((List.finRange 4).filter fun q => !c.branch[q].isEmpty).length ≤ 2 || (List.finRange 4).all fun q => c.branch[q].length ≤ 1

/-- The lodestar's part of discovery: the next device in discovery order takes the next index, and its route is the best of
those found; a lost device takes its routes with it. A device that would make a topology that is not permitted is not
admitted (log 15). -/
def lodestarDiscovers (s : State) (q : Fin 4) (c : CascadeCause) (dev peer : Fin 8) : State :=
  match c with
  | .admitted =>
    let g := s.ifc.casc.grown q dev
    if dev.val = 0 ∨ s.ifc.casc.devices < dev.val ∨ g.permitted = false then s
    else
      let s := setRoute (admitPeer (s.modCasc fun _ => g) q peer) dev (g.best dev)
      cascadeRecord (s.modCasc fun k => { k with devices := max k.devices (dev.val + 1) }) q dev.val c
  | .lost =>
    let s := if s.rfld (R.klStat q) 6 4 = dev.val then s.setFld (R.klStat q) 6 3 0 else s
    let s := loseForwarded (setRoute s dev none) fun p => p.dev % 8 == dev.val
    cascadeRecord (s.modCasc fun k => { k with branch := k.branch.map fun l => l.filter (· != dev) }) q dev.val c
  | .ninth => cascadeRecord s q dev.val c
  | .secondLodestar => cascadeRecord (s.setFld (R.klStat q) 6 3 0) q dev.val c
  | .rerouted => s

/-- A follower's part: the first index it hears is its own, and the lodestar lies behind that port; each further one is a
device it reaches through the port (log 15). -/
def followerDiscovers (s : State) (q : Fin 4) (c : CascadeCause) (dev peer : Fin 8) : State :=
  match c with
  | .admitted =>
    let s := admitPeer s q peer
    if s.ifc.casc.index = 0 then setRoute (s.modCasc fun k => { k with index := dev.val }) 0 (some q)
    else setRoute s dev (some q)
  | .lost => setRoute s dev none
  | _ => s

/-- CASCADE_DISCOVERY. -/
def cascadeDiscovery (q : Fin 4) (c : CascadeCause) (dev peer : Fin 8) (s : State) : State :=
  if !s.klUp q && c != .lost then s
  else if s.ifc.casc.lodestar then lodestarDiscovers s q c dev peer
  else followerDiscovers s q c dev peer

/-- CASCADE_DISCOVERY. -/
def execCascadeDiscovery (q : KlPort) (c : CascadeCause) (dev peer : Fin 8) (s : State) : Host.Outcome State Fault Refusal :=
  .next (cascadeDiscovery q c dev peer s)

/-- CASCADE_REROUTE: the route to a device moves to port `q`; what was forwarded to it by the failed link is lost. A port
that is a longer way than another that is up takes no route (R432). -/
def cascadeReroute (q : Fin 4) (dev : Fin 8) (s : State) : State :=
  let g := s.ifc.casc.grown q dev
  if !s.klUp q || !s.klAdmit q || s.routedBy q dev.val || s.ifc.casc.routes[dev].isNone ||
      (List.finRange 4).any (fun r => s.klUp r && s.klAdmit r && g.better dev r q) then s
  else
    let s := loseForwarded (setRoute (s.modCasc fun _ => g) dev (some q)) fun p => p.dev % 8 == dev.val
    if s.ifc.casc.lodestar then cascadeRecord s q dev.val .rerouted else s

/-- CASCADE_REROUTE. -/
def execCascadeReroute (q : KlPort) (dev : Fin 8) (s : State) : Host.Outcome State Fault Refusal :=
  .next (cascadeReroute q dev s)

/-! ### Memory requests (R310, R311, R435) -/

/-- A write to bytes of the register that inbound requests reach, KL_SIGNAL (R522); a read of it reads 0. -/
def kenridControl (s : State) (q : Fin 4) (pa o len : Nat) (wdata : Option (List Byte)) : State :=
  if o / 4 * 4 ≠ R.klSignal ∨ 4 < o % 4 + len then (defaultAnswer s (.kl q) pa wdata.isSome).answers .abort
  else match wdata with
    | some l => ctlWriteBytes 1 s (.kl q) o l
    | none => let (w, s) := ctlRead s (.kl q) R.klSignal; s.answers (.word w)

/-- A read or write of DRAM or chart memory through M4 or M5; where it has to wait, `back` stands and the flit is still to be
taken. -/
def kenridMem (back s : State) (q : Fin 4) (pa len : Nat) (wdata : Option (List Byte)) : State :=
  match wdata with
  | none => (match readXbar s (.kl q) pa len with
    | (.ok l, s) => s.answers (.bytes l)
    | (.wait, _) => back
    | (_, s) => s.answers .abort)
  | some l => (match writeXbar s (.kl q) pa l with
    | (.error, s) => s.answers .abort
    | (.wait, _) => back
    | (_, s) => s)

/-- KENRID_MEMORY_REQUEST: DRAM under KLq_CFG.IKEY, a chart bank by its owner, KL_SIGNAL; an atomic operation gets an
error response, and anything else the default target's. -/
def kenridMemoryRequest (q : Fin 4) (pa len : Nat) (wdata : Option (List Byte)) (atomic : Bool) (s : State) : State :=
  if !s.klUp q || !s.klAdmit q then s
  else
  let back := s
  let s := received s q
  if atomic then s.answers .abort
  else match s.target pa with
    | .dram =>
      if (wdata.isSome && !s.writable pa) || !s.keyWritable pa then back
      else (match keyCheck s pa (BitVec.ofNat 4 (s.rfld (R.klCfg q) 7 4)) wdata.isSome with
        | (.pass, s) => kenridMem back (markKey s pa wdata.isSome) q pa len wdata
        | (_, s) => s.answers .abort)
    | .chart _ => kenridMem back s q pa len wdata
    | .control o => kenridControl s q pa o len wdata
    | _ => (defaultAnswer s (.kl q) pa wdata.isSome).answers .abort

/-- KENRID_MEMORY_REQUEST. -/
def execKenridMemoryRequest (q : KlPort) (pa : BitVec 48) (len : Nat) (wdata : Option (List Byte)) (atomic : Bool) (s : State) :
    Host.Outcome State Fault Refusal := .next (kenridMemoryRequest q pa.toNat len wdata atomic s)

/-- The response flit of the read of tag `tag` has been received from the device of its window. -/
def responseReceived (s : State) (tag : Nat) : State :=
  match s.ifc.remote.find? (fun e => e.tag == tag && e.kenrid) with
  | some e => (match s.target e.addr with | .kenrid d _ => receivedFrom s d | _ => s)
  | none => s

/-- KENRID_MEMORY_RESPONSE: the read of a window completes. -/
def execKenridMemoryResponse (tag : Nat) (r : Completion) (s : State) : Host.Outcome State Fault Refusal :=
  let s := responseReceived s tag
  .next (match r with
    | .success w => finishRemote s true tag (.data w) id
    | .poisoned => finishRemote s true tag .uncorrectable id
    | .unsuccessful => finishRemote s true tag .error id)

/-! ### Forwarded commands (R361, R368) -/

/-- KENRID_COMMAND_PACKET: a forwarded packet arrives and is executed as if from the own ring of that number: it waits while
a command of that ring or an earlier forwarded one runs, for its FENCE, and while its object is busy (R351, R354). -/
def kenridCommandPacket (q : Fin 4) (n : Fin 4) (l : List Byte) (s : State) : State :=
  if !s.klUp q || !s.klAdmit q || s.ifc.casc.lodestar || s.rst.hold.isSome then s
  else acceptPkt (assertEvent (received s q) (klEvent q 3)) ⟨.forwarded n, l, 0, 0⟩

/-- KENRID_COMMAND_PACKET. -/
def execKenridCommandPacket (q : KlPort) (ring : Fin 4) (packet : List Byte) (s : State) : Host.Outcome State Fault Refusal :=
  .next (kenridCommandPacket q ring packet s)

/-- KENRID_STATUS_PACKET: the final status of a forwarded command returns to its ring (R349, R351, R368). -/
def kenridStatusPacket (n : Fin 4) (l : List Byte) (s : State) : State :=
  match s.cmds.rings[n].fwd with
  | some p =>
    let s := receivedFrom s ⟨p.dev % 8, Nat.mod_lt _ (by decide)⟩
    if bit (bytesWord (l.drop 12)) 17 then
      endRing (s.modRing n fun x => { x with fwd := none }) n
        ⟨leAt l 2 2, bytesWord ((l.drop 4).take 4), bytesWord ((l.drop 8).take 4)⟩
    else s
  | none => s

/-- KENRID_STATUS_PACKET. -/
def execKenridStatusPacket (n : Fin 4) (status : List Byte) (s : State) : Host.Outcome State Fault Refusal :=
  .next (kenridStatusPacket n status s)

/-! ### Time (R433) -/

/-- Event k = 5, SYNC cleared, and the Chronometer runs free. -/
def klSyncLost (s : State) (q : Fin 4) : State :=
  assertEvent { s.setBit R.chrStat 2 false with ifc := { s.ifc with slew := 0 } } (klEvent q 5)

/-- Send the time `t` on every port that leads to an admitted device, but for those that `skip` names. -/
def sendOnPorts (s : State) (t : Nat) (skip : Fin 4 → Bool) : State :=
  (List.finRange 4).foldl (fun s q => if s.klUp q && s.klAdmit q && !skip q then sendFlit s q 15 (.time t) else s) s

/-- TIME_FLIT: a follower corrects its Chronometer by the offset and the link's delay, and forwards the corrected time. A
correction above 20 ns loses synchronisation, which the flits that follow restore (R419). -/
def timeFlit (q : Fin 4) (offset : Int) (s : State) : State :=
  if !s.klUp q || !s.klAdmit q then s
  else let s := received s q
  if !s.follows then s
  else
    let fix := offset + (s.ifc.kl[q]).delay
    if s.rbit R.chrStat 2 && (20 < fix || fix < -20) then klSyncLost s q
    else sendOnPorts (lockTo (correctTime s fix) 2) ((s.time.toNat : Int) + fix).toNat (· == q)

/-- TIME_FLIT. -/
def execTimeFlit (q : KlPort) (offset : Int) (s : State) : Host.Outcome State Fault Refusal := .next (timeFlit q offset s)

/-- TIME_FLIT_SEND: the lodestar sends a time flit on every link. -/
def execTimeFlitSend (s : State) : Host.Outcome State Fault Refusal :=
  .next (if s.ifc.casc.lodestar then sendOnPorts s s.time.toNat fun _ => false else s)

/-- LINK_DELAY_MEASURE. -/
def execLinkDelayMeasure (q : KlPort) (ns : Nat) (s : State) : Host.Outcome State Fault Refusal :=
  .next (if s.klUp q then s.modKl q fun k => { k with delay := ns } else s)

/-- TIME_FLIT_LOSS: a follower has received no time flit for 100 µs. -/
def execTimeFlitLoss (q : KlPort) (s : State) : Host.Outcome State Fault Refusal :=
  .next (if s.follows then klSyncLost s q else s)

/-! ### Signals and summaries (R434, R436) -/

/-- SIGNAL_FLIT: k = 4 for KIND 0, k = 6 for KIND 1, and KLq_SIGSTAT. -/
def signalFlit (q : Fin 4) (src kind value : Nat) (s : State) : State :=
  if !s.klUp q || !s.klAdmit q then s
  else assertEvent ((received s q).setReg (R.klSigStat q) (BitVec.ofNat 32 (src + kind * 8 + value * 65536)))
    (klEvent q (if kind = 0 then 4 else 6))

/-- SIGNAL_FLIT. -/
def execSignalFlit (q : KlPort) (src : BitVec 3) (kind : Bool) (value : BitVec 16) (s : State) :
    Host.Outcome State Fault Refusal := .next (signalFlit q src.toNat kind.toNat value.toNat s)

/-- KL_SIGNAL_WRITE. -/
def execKlSignalWrite (m : Master) (v : Word) (s : State) : Host.Outcome State Fault Refusal :=
  .next (ctlWrite s m R.klSignal 15 v)

/-- FOLLOWER_SUMMARY: what the lodestar has read of a follower's Logbook, as a record. -/
def execFollowerSummary (d : Fin 8) (seqL seqH lost newer : Word) (s : State) : Host.Outcome State Fault Refusal :=
  .next (if s.ifc.casc.lodestar && (s.kenridRoute d).isSome then
    formRecord s 8 1 (0x220 + d.val) [BitVec.ofNat 32 d.val, seqL, seqH, lost, newer] else s)

end Sys2Proof.Machine
end

