-- ==== Sys2Proof/Machine/LedgerOps.lean ====
section
/-! DEFINITION. What the Ledger instructions compute: packed and zoned decimal, arithmetic on it, editing
(07 R213-R232). -/
namespace Sys2Proof.Machine

/-! ### Packed decimal (R213, R214) -/

/-- The nibbles of bytes, high first. -/
def nibbles (l : List Byte) : List Nat := l.flatMap fun b => [b.toNat / 16, b.toNat % 16]

/-- The number that digits spell. -/
def digitsNat (l : List Nat) : Nat := l.foldl (fun n d => n * 10 + d) 0

/-- The digits of a packed operand. -/
def packedDigits (l : List Byte) : List Nat := (nibbles l).dropLast
/-- The sign nibble of a packed operand. -/
def packedSign (l : List Byte) : Nat := (nibbles l).getLast?.getD 0
/-- Signs Bh and Dh are negative. -/
def signNeg (n : Nat) : Bool := n == 0xB || n == 0xD

/-- The cause of a packed operand that is not valid (R215). -/
def packedCause (l : List Byte) : Option Nat :=
  if (packedDigits l).any (9 < ·) then some 0 else if packedSign l ≤ 9 then some 1 else none

/-- The value of a packed operand. -/
def packedVal (l : List Byte) : Int :=
  let n : Int := digitsNat (packedDigits l)
  if signNeg (packedSign l) then -n else n

/-- The lowest cause among several operands (R215). -/
def lowestCause (l : List (Option Nat)) : Option Nat :=
  l.foldl (fun m c => match m, c with
    | some a, some b => some (min a b)
    | some a, none => some a
    | none, c => c) none

/-- The low `k` decimal digits of a number, most significant first. -/
def lowDigits : Nat → Nat → List Nat
  | 0, _ => []
  | k + 1, n => lowDigits k (n / 10) ++ [n % 10]

/-- Bytes from nibbles. -/
def pairUp : List Nat → List Byte
  | a :: b :: l => BitVec.ofNat 8 (a * 16 + b) :: pairUp l
  | _ => []

/-- A value as a packed operand of `n` bytes: the low digits, with the sign of the true value (R214, R220). -/
def packBytes (n : Nat) (v : Int) : List Byte :=
  pairUp (lowDigits (2 * n - 1) v.natAbs ++ [if v < 0 then 0xD else 0xC])

/-- Whether a value has more digits than a field of `k`. -/
def overflows (k : Nat) (v : Int) : Bool := 10 ^ k ≤ v.natAbs

/-- CC of a value: zero, negative, positive (R212). -/
def signCc (v : Int) : Fin 4 := if v = 0 then 0 else if v < 0 then 1 else 2

/-- CC of a comparison. -/
def cmpCc (a b : Int) : Fin 4 := if a = b then 0 else if a < b then 1 else 2

/-! ### Arithmetic (R220-R225) -/

/-- A length byte: length and TOV. -/
def blen (b : Byte) : Nat := b.toNat % 32 + 1
/-- L1 bit 7. -/
def tov (b : Byte) : Bool := b.getLsbD 7

/-- PSCL: the digits moved and rounded (R221). -/
def scaled (v : Int) (sh : Int) (rnd : Nat) : Int :=
  if 0 ≤ sh then v * 10 ^ sh.toNat
  else
    let p := 10 ^ (-sh).toNat
    let q := v.natAbs / p
    let r := v.natAbs % p
    let up := match rnd with
      | 0 => false
      | 1 => p ≤ 2 * r
      | 2 => p < 2 * r || (2 * r == p && q % 2 == 1)
      | 3 => 0 < v && r != 0
      | 4 => v < 0 && r != 0
      | _ => r != 0
    let m : Int := q + up.toNat
    if v < 0 then -m else m

/-- A decimal result in the first operand, or the cause of its overflow (R220). -/
def decStore (e : Nat) (l1 : Byte) (v : Int) : LUnit × Option Nat :=
  let n := blen l1
  if overflows (2 * n - 1) v then
    (⟨[(e, packBytes n v)], [], some 3⟩, if tov l1 then some 2 else none)
  else (⟨[(e, packBytes n v)], [], some (signCc v)⟩, none)

/-- A signed value to a register or a pair, or from one (R225). -/
def pairVal (ch : Channel) (r : Reg) (w64 : Bool) : Int :=
  if w64 then signed 64 ((ch.rg r).toNat + 2 ^ 32 * (ch.rg (nextReg r)).toNat) else signed 32 (ch.rg r).toNat

/-- The packed sources of a decimal instruction: effective address and length, the first operand first. -/
def decSources (i : LIns) (ch : Channel) : List (Nat × Nat) :=
  let x := ((ch.rg i.d).toNat, blen i.b1)
  let y := ((ch.rg i.a).toNat, blen i.b2)
  match i.opc.toNat with
  | 0x02 => [y]
  | 0x06 => [x]
  | 0x08 => [((ch.rg i.a).toNat, blen i.b1)]
  | 0x09 => []
  | _ => [x, y]

/-- What a decimal instruction commits, from the values of its sources, and the decimal data cause its result raises
instead. -/
def decResult (i : LIns) (ch : Channel) (vs : List Int) : LUnit × Option Nat :=
  let x := vs.getD 0 0
  let y := vs.getD 1 0
  let e := (ch.rg i.d).toNat
  let k := 2 * blen i.b1 - 1
  match i.opc.toNat with
  | 0x00 => decStore e i.b1 (x + y)
  | 0x01 => decStore e i.b1 (x - y)
  | 0x02 => decStore e i.b1 x
  | 0x03 => (⟨[], [], some (cmpCc x y)⟩, none)
  | 0x04 => (⟨[(e, packBytes (blen i.b1) (x * y))], [], some (signCc (x * y))⟩, if overflows k (x * y) then some 2 else none)
  | 0x05 =>
    let q := x.tdiv y
    (⟨[(e, packBytes (blen i.b1) (x.tmod y)), ((ch.rg i.m).toNat, packBytes (blen i.b3) q)], [], some (signCc q)⟩,
     if overflows (2 * blen i.b3 - 1) q then some 5 else none)
  | 0x06 => decStore e i.b1 (scaled x (signed 8 i.b2.toNat) (i.b3.toNat % 8))
  | 0x08 =>
    let w64 := i.b1.getLsbD 6
    let n : Nat := if w64 then 63 else 31
    let w := BitVec.ofInt 64 x
    (⟨[], (i.d, w.truncate 32) :: (if w64 then [(nextReg i.d, (w >>> 32).truncate 32)] else []), some (signCc x)⟩,
     if -(2 ^ n : Int) ≤ x ∧ x < 2 ^ n then none else some 3)
  | _ =>
    let v := pairVal ch i.a (i.b1.getLsbD 6)
    (⟨[(e, packBytes (blen i.b1) v)], [], some (signCc v)⟩, if overflows k v then some 3 else none)

/-- Digits that a unit of eight counts (R233): result digits, multiplier digits of PMUL, quotient digits of PDIV. -/
def unitDigits (i : LIns) : Nat :=
  match i.opc.toNat with
  | 0x03 => max (2 * blen i.b1 - 1) (2 * blen i.b2 - 1)
  | 0x04 => 2 * blen i.b2 - 1
  | 0x05 => 2 * (blen i.b1 - blen i.b2) + 1
  | _ => 2 * blen i.b1 - 1

/-! ### PACK and UNPK (R226) -/

/-- PACK: the packed bytes, or the cause. -/
def packRes (lpk lzn : Byte) (l : List Byte) : Nat ⊕ List Byte :=
  let ascii := lzn.toNat / 64 == 1
  let signed := ascii && (l.head? == some 0x2B || l.head? == some 0x2D)
  let body := if signed then l.drop 1 else l
  let digits := if ascii then body.map fun b => b.toNat - 0x30 else l.map fun b => b.toNat % 16
  let sign := (l.getLast?.map (·.toNat / 16)).getD 0
  let bad := if ascii then body.any fun b => b.toNat < 0x30 || 0x39 < b.toNat else digits.any (9 < ·)
  let neg := if ascii then signed && l.head? == some 0x2D else signNeg sign
  let n : Int := digitsNat digits
  let v := if neg then -n else n
  if bad then .inl 0
  else if !ascii && sign ≤ 9 then .inl 1
  else if overflows (2 * blen lpk - 1) v then .inl 2
  else .inr (packBytes (blen lpk) v)

/-- Give the last byte of zoned digits the sign in its high nibble. -/
def signLast (neg : Bool) : List Byte → List Byte
  | [] => []
  | [b] => [(b &&& 0x0F) ||| (if neg then 0xD0 else 0xC0)]
  | b :: l => b :: signLast neg l

/-- UNPK: the zoned or ASCII bytes, or the cause. -/
def unpkRes (lzn : Byte) (l : List Byte) : Nat ⊕ List Byte :=
  let ascii := lzn.toNat / 64 == 1
  let n := lzn.toNat % 64 + 1
  let v := packedVal l
  let k := if ascii then n - 1 else n
  let ds : List Byte := (lowDigits k v.natAbs).map fun d => BitVec.ofNat 8 (0x30 + d)
  match packedCause l with
  | some c => .inl c
  | none =>
    if overflows k v then .inl 2
    else .inr (if ascii then (if v < 0 then 0x2D else 0x2B) :: ds else signLast (v < 0) ds)

/-! ### EDIT and EDTM (R230-R232) -/

/-- The fields of a pattern, each with whether a separator ends it. -/
def patFields (cur : List Byte) : List Byte → List (List Byte × Bool)
  | [] => if cur.isEmpty then [] else [(cur.reverse, false)]
  | b :: l => if b = 0x82 then (cur.reverse, true) :: patFields [] l else patFields (b :: cur) l

/-- A digit select. -/
def isSelect (b : Byte) : Bool := b == 0x80 || b == 0x81

/-- Digit selects of a field. -/
def selects (f : List Byte) : Nat := f.countP isSelect

/-- Bytes of a field's source operand. -/
def srcBytes (k : Nat) : Nat := if k = 0 then 0 else k / 2 + 1

/-- The source operands of the fields, one after another. -/
def editSources (e : Nat) : List (List Byte × Bool) → List (Nat × Nat)
  | [] => []
  | f :: fs => (e, srcBytes (selects f.1)) :: editSources (e + srcBytes (selects f.1)) fs

/-- The cause that the check pass finds in a field's source (R232). -/
def editCause (k : Nat) (l : List Byte) : Option Nat :=
  if k = 0 then none
  else match packedCause l with
    | some c => some c
    | none => if k % 2 = 0 ∧ (packedDigits l).headD 0 ≠ 0 then some 2 else none

/-- Where the editing of a field stands: the digits left, significance, whether a digit has been printed, the sign-text
condition (`true`: negative), and the mark. -/
structure EdSt where
  digs : List Nat
  sig  : Bool
  pr   : Bool
  cond : Option Bool
  mark : Option Word

/-- One pattern byte at effective address `pa` (R231). -/
def editByte (fill : Byte) (neg : Bool) (pa : Nat) (st : EdSt) (b : Byte) : Byte × EdSt :=
  if isSelect b then
    let dg := st.digs.headD 0
    let blank := !st.sig && dg == 0
    let out := if blank then fill else BitVec.ofNat 8 (0x30 + dg)
    (out, { digs := st.digs.drop 1, cond := none, sig := b == 0x81 || st.sig || !blank, pr := st.pr || !blank,
            mark := if !blank && !st.pr then some (BitVec.ofNat 32 pa - 1) else st.mark })
  else if b = 0x83 then (fill, { st with cond := some true })
  else if b = 0x84 then (fill, { st with cond := some false })
  else
    let ok := match st.cond with
      | some want => want == neg
      | none => st.sig
    (if ok then b else fill, st)

/-- The bytes of a field. -/
def editBytes (fill : Byte) (neg : Bool) (pa : Nat) (st : EdSt) : List Byte → List Byte × EdSt
  | [] => ([], st)
  | b :: l =>
    let (o, st) := editByte fill neg pa st b
    let (os, st) := editBytes fill neg (pa + 1) st l
    (o :: os, st)

/-- What EDIT makes of the fields with their sources: for every pattern byte the output, whether it was a digit select,
and the address past the sources consumed so far; then CC and the mark. -/
def editFields (fill : Byte) : (pa src : Nat) → (cc : Fin 4) → (mark : Option Word) → List (List Byte × Bool) →
    List (List Byte) → List (Byte × Bool × Nat) × Fin 4 × Option Word
  | _, _, cc, mark, [], _ => ([], cc, mark)
  | pa, src, cc, mark, f :: fs, ls =>
    let l := ls.headD []
    let k := selects f.1
    let dig := packedDigits l
    let nonzero := dig.any (· != 0)
    let neg := k != 0 && signNeg (packedSign l) && nonzero
    let cc := if k = 0 then cc else if !nonzero then 0 else if neg then 1 else 2
    let src := src + srcBytes k
    let (out, st) := editBytes fill neg pa ⟨dig.drop (dig.length - k), false, false, none, mark⟩ f.1
    let here := (out.zip f.1).map (fun (o, b) => (o, isSelect b, src)) ++ (if f.2 then [(fill, false, src)] else [])
    let (rest, cc, mark) := editFields fill (pa + here.length) src cc st.mark fs (ls.drop 1)
    (here ++ rest, cc, mark)

/-- Cut the pattern into units of eight digit selects or 32 bytes (R233). -/
def cutUnits (n k : Nat) (cur : List (Byte × Bool × Nat)) : List (Byte × Bool × Nat) → List (List (Byte × Bool × Nat))
  | [] => if cur.isEmpty then [] else [cur.reverse]
  | x :: l =>
    let k := k + x.2.1.toNat
    if n + 1 = 32 ∨ k = 8 then (x :: cur).reverse :: cutUnits 0 0 [] l else cutUnits (n + 1) k (x :: cur) l

/-- The units of an EDIT of `p` bytes at `pa`: each with its progress registers, the last with CC and the mark. -/
def editUnits (i : LIns) (cc : Fin 4) (mark : Option Word) : (pa p : Nat) → List (List (Byte × Bool × Nat)) → List LUnit
  | _, _, [] => []
  | pa, p, u :: us =>
    let n := u.length
    let regs := [(i.d, BitVec.ofNat 32 (pa + n)), (nextReg i.d, BitVec.ofNat 32 (p - n)),
      (i.a, BitVec.ofNat 32 ((u.getLast?.map (·.2.2)).getD 0))]
    let last := us.isEmpty
    let regs := match last && i.opc == 0x19, mark with
      | true, some w => regs ++ [(i.m, w)]
      | _, _ => regs
    ⟨[(pa, u.map (·.1))], regs, if last then some cc else none⟩ :: editUnits i cc mark (pa + n) (p - n) us

end Sys2Proof.Machine
end

