-- ==== Sys2Proof/Machine/Ledger.lean ====
section
/-! DEFINITION. The Ledger instructions at their decode (07 R210, R211, R217-R219, R237): a legal one waits for the
engine, which carries it out unit by unit. -/
namespace Sys2Proof.Machine

/-- Slot-class opcodes (R218). -/
def slotClass (opc : Byte) : Bool := opc.toNat ≤ 0x09 && opc != 0x07 || isEdit opc

/-- Decode of a Ledger instruction of `len` bytes: it waits for the streams and stores before it (R210); in user mode
LPIN, LUNPIN and the KEY prefix are privileged (R219). The decode clears CSW.LRS, which makes a slot-class instruction
continue from its context (R237). -/
def ledgerIssue (s : State) (c : Chan) (p : Prefixes) (len : Nat) (legal : Bool) (reads : List Reg) (i : LIns) : State :=
  let pin := i.opc == 0x20 || i.opc == 0x21
  let resume := (s.chan c).lrs && slotClass i.opc
  scalarOr s c { p := p, len := len, keyOk := !pin, legal := legal, priv := pin, alone := true, ledger := true,
                 slot := if slotClass i.opc then some i.opc else none, reads := reads } fun s _ =>
    let ch := s.chan c
    let run : LRun := ⟨{ i with key := p.key, len := prefixBytes p + len }, ch.sup, dataKey ch p, resume, resume, false, false⟩
    if ch.stq.isEmpty then some (s.setChan c { ch with wait := .ledger run }) else none

/-- An instruction's fields. -/
def lins (opc : Byte) (d a m : Reg) (b1 b2 b3 : Byte) : LIns := ⟨opc, d, a, m, b1, b2, b3, false, 0⟩

/-- The reserved bits of L1 outside form LB, and of L2 or L3, are 0 (R217). -/
def l1Ok (b : Byte) : Bool := fld b.toNat 6 5 == 0
/-- See `l1Ok`. -/
def l2Ok (b : Byte) : Bool := fld b.toNat 7 5 == 0
/-- An even register. -/
def evenReg (r : Reg) : Bool := r.val % 2 == 0

/-- A decimal instruction of form LP. -/
def lpForm (s : State) (c : Chan) (p : Prefixes) (opc : Byte) (legal : Bool) (d a : Reg) (l1 l2 : Byte) : State :=
  ledgerIssue s c p 5 (l1Ok l1 && l2Ok l2 && legal) [d, a] (lins opc d a 0 l1 l2 0)

/-- PADD. -/
def execPadd (c : Chan) (p : Prefixes) (d a : Reg) (l1 l2 : Byte) (s : State) : Host.Outcome State Fault Refusal :=
  .next (lpForm s c p 0x00 true d a l1 l2)

/-- PSUB. -/
def execPsub (c : Chan) (p : Prefixes) (d a : Reg) (l1 l2 : Byte) (s : State) : Host.Outcome State Fault Refusal :=
  .next (lpForm s c p 0x01 true d a l1 l2)

/-- PSET. -/
def execPset (c : Chan) (p : Prefixes) (d a : Reg) (l1 l2 : Byte) (s : State) : Host.Outcome State Fault Refusal :=
  .next (lpForm s c p 0x02 true d a l1 l2)

/-- PCMP: TOV must be 0. -/
def execPcmp (c : Chan) (p : Prefixes) (d a : Reg) (l1 l2 : Byte) (s : State) : Host.Outcome State Fault Refusal :=
  .next (lpForm s c p 0x03 (!tov l1) d a l1 l2)

/-- L2 is at most 15 bytes and at most L1, and TOV is 0 (R218). -/
def shortSecond (l1 l2 : Byte) : Bool := blen l2 ≤ 15 && blen l2 ≤ blen l1 && !tov l1

/-- PMUL. -/
def execPmul (c : Chan) (p : Prefixes) (d a : Reg) (l1 l2 : Byte) (s : State) : Host.Outcome State Fault Refusal :=
  .next (lpForm s c p 0x04 (shortSecond l1 l2) d a l1 l2)

/-- PDIV. -/
def execPdiv (c : Chan) (p : Prefixes) (d a m : Reg) (l1 l2 l3 : Byte) (s : State) : Host.Outcome State Fault Refusal :=
  .next (ledgerIssue s c p 7 (l1Ok l1 && l2Ok l2 && l2Ok l3 && shortSecond l1 l2) [d, a, m] (lins 0x05 d a m l1 l2 l3))

/-- PSCL: S is the byte in `sh`. -/
def execPscl (c : Chan) (p : Prefixes) (d : Reg) (l1 sh rnd : Byte) (s : State) : Host.Outcome State Fault Refusal :=
  let n := signed 8 sh.toNat
  .next (ledgerIssue s c p 6 (l1Ok l1 && -63 ≤ n && n ≤ 63 && rnd.toNat ≤ 5) [d] (lins 0x06 d 0 0 l1 sh rnd))

/-- The L1 byte of form LB (R217, R218). -/
def lbOk (l1 : Byte) (r : Reg) : Bool :=
  !l1.getLsbD 5 && l1.toNat % 32 ≤ 15 && !tov l1 && (!l1.getLsbD 6 || evenReg r)

/-- PCVB. -/
def execPcvb (c : Chan) (p : Prefixes) (d a : Reg) (l1 : Byte) (s : State) : Host.Outcome State Fault Refusal :=
  .next (ledgerIssue s c p 4 (lbOk l1 d) [a] (lins 0x08 d a 0 l1 0 0))

/-- PCVD. -/
def execPcvd (c : Chan) (p : Prefixes) (d a : Reg) (l1 : Byte) (s : State) : Host.Outcome State Fault Refusal :=
  .next (ledgerIssue s c p 4 (lbOk l1 a) ([d, a] ++ if l1.getLsbD 6 then [nextReg a] else []) (lins 0x09 d a 0 l1 0 0))

/-- LPK and LZN (R217). -/
def lzOk (lpk lzn : Byte) : Bool := l2Ok lpk && !lzn.getLsbD 7

/-- PACK. -/
def execPack (c : Chan) (p : Prefixes) (d a : Reg) (lpk lzn : Byte) (s : State) : Host.Outcome State Fault Refusal :=
  .next (ledgerIssue s c p 5 (lzOk lpk lzn) [d, a] (lins 0x0A d a 0 lpk lzn 0))

/-- UNPK. -/
def execUnpk (c : Chan) (p : Prefixes) (d a : Reg) (lpk lzn : Byte) (s : State) : Host.Outcome State Fault Refusal :=
  .next (ledgerIssue s c p 5 (lzOk lpk lzn && (!lzn.getLsbD 6 || 1 ≤ lzn.toNat % 64)) [d, a] (lins 0x0B d a 0 lpk lzn 0))

/-- The two registers of a pair. -/
def pair (r : Reg) : List Reg := [r, nextReg r]

/-- MVL. -/
def execMvl (c : Chan) (p : Prefixes) (d a : Reg) (x : Byte) (s : State) : Host.Outcome State Fault Refusal :=
  .next (ledgerIssue s c p 4 (evenReg d && evenReg a) (pair d ++ pair a) (lins 0x10 d a 0 x 0 0))

/-- CLL. -/
def execCll (c : Chan) (p : Prefixes) (d a : Reg) (x : Byte) (s : State) : Host.Outcome State Fault Refusal :=
  .next (ledgerIssue s c p 4 (evenReg d && evenReg a) (pair d ++ pair a) (lins 0x11 d a 0 x 0 0))

/-- TRL. -/
def execTrl (c : Chan) (p : Prefixes) (d a : Reg) (x : Byte) (s : State) : Host.Outcome State Fault Refusal :=
  .next (ledgerIssue s c p 4 (evenReg d && x == 0) (pair d ++ [a]) (lins 0x12 d a 0 x 0 0))

/-- TRTL. -/
def execTrtl (c : Chan) (p : Prefixes) (d a f : Reg) (k : Byte) (s : State) : Host.Outcome State Fault Refusal :=
  .next (ledgerIssue s c p 5 (evenReg d && f != d && f != nextReg d && k != 0) (pair d ++ [a]) (lins 0x13 d a f k 0 0))

/-- EDIT: the m field is reserved. -/
def execEdit (c : Chan) (p : Prefixes) (d a m : Reg) (f : Byte) (s : State) : Host.Outcome State Fault Refusal :=
  .next (ledgerIssue s c p 5 (evenReg d && m == 0) (pair d ++ [a]) (lins 0x18 d a m f 0 0))

/-- EDTM. -/
def execEdtm (c : Chan) (p : Prefixes) (d a m : Reg) (f : Byte) (s : State) : Host.Outcome State Fault Refusal :=
  .next (ledgerIssue s c p 5 (evenReg d && m != d && m != nextReg d && m != a) (pair d ++ [a]) (lins 0x19 d a m f 0 0))

/-- LPIN. -/
def execLpin (c : Chan) (p : Prefixes) (s : State) : Host.Outcome State Fault Refusal :=
  .next (ledgerIssue s c p 2 true [] (lins 0x20 0 0 0 0 0 0))

/-- LUNPIN. -/
def execLunpin (c : Chan) (p : Prefixes) (s : State) : Host.Outcome State Fault Refusal :=
  .next (ledgerIssue s c p 2 true [] (lins 0x21 0 0 0 0 0 0))

end Sys2Proof.Machine
end

