-- ==== Sys2Proof/Machine/LedgerRun.lean ====
section
/-! DEFINITION. The Ledger Engine: its accesses, units, slots, spills and reloads (07 R211, R215, R216, R227-R246). -/
namespace Sys2Proof.Machine

/-! ### Accesses (R211) -/

/-- How a Ledger instruction reads and writes. -/
def LRun.rd (r : LRun) : How := ⟨r.key, !r.sup, .rd, false⟩
/-- See `LRun.rd`. -/
def LRun.wr (r : LRun) : How := ⟨r.key, !r.sup, .wr, true⟩

/-- What reading several operands gives. -/
inductive LRead where
  | ok (ls : List (List Byte))
  | fail (vec : Nat) (addr : Word)
  | wait
  deriving DecidableEq, Repr

/-- Read operands, each an effective address and a length. -/
def readOps (s : State) (c : Chan) (h : How) : List (Nat × Nat) → LRead × State
  | [] => (.ok [], s)
  | (e, n) :: os => match readLong (n + 1) s c h e n with
    | (.fail v a, s) => (.fail v a, s)
    | (.wait, s) => (.wait, s)
    | (.ok l, s) => (match readOps s c h os with
      | (.ok ls, s) => (.ok (l :: ls), s)
      | x => x)

/-- The checks of a write of `n` bytes at `e`, line by line. -/
def checkLong : (fuel : Nat) → State → Chan → How → Nat → Nat → Stored × State
  | 0, s, _, _, _, _ => (.ok, s)
  | _, s, _, _, _, 0 => (.ok, s)
  | f + 1, s, c, h, e, n =>
    let k := min n (64 - e % 64)
    match checkAccess s c h e k with
    | (.fail v a, s) => (.fail v a, s)
    | (.wait, s) => (.wait, s)
    | (.ok _, s) => checkLong f s c h (e + k) (n - k)

/-- Check every store of a unit. -/
def checkStores (s : State) (c : Chan) (h : How) : List (Nat × List Byte) → Stored × State
  | [] => (.ok, s)
  | (e, l) :: ss => match checkLong (l.length + 1) s c h e l.length with
    | (.ok, s) => checkStores s c h ss
    | x => x

/-- Make the stores of a unit, in order. -/
def makeStores (s : State) (c : Chan) (h : How) : List (Nat × List Byte) → Stored × State
  | [] => (.ok, s)
  | (e, l) :: ss => match writeLong (l.length + 1) s c h e l with
    | (.ok, s) => makeStores s c h ss
    | x => x

/-- A unit's commit: every store is checked before the first is made, and the registers follow (R233, R234). -/
def commitUnit (s : State) (c : Chan) (r : LRun) (u : LUnit) : Stored × State :=
  match checkStores s c r.wr u.stores with
  | (.ok, s) => (match makeStores s c r.wr u.stores with
    | (.ok, s) => (.ok, s.modChan c fun ch => u.regs.foldl (fun ch x => ch.setG x.1 x.2) ch)
    | x => x)
  | x => x

/-! ### The end of an instruction -/

/-- Change the Ledger Engine. -/
def State.modLge (s : State) (f : Ledger → Ledger) : State := { s with lge := f s.lge }

/-- A Ledger exception: the engine is given up, and CSW.LRS is stacked as given (R236). -/
def raiseLedger (s : State) (c : Chan) (x : Exc) (lrs : Bool) : State :=
  let s := (s.modLge (·.leave c)).modChan c fun ch => { ch.setCsw 18 lrs with wait := .none }
  raise s c x (s.chan c).pc

/-- The exception of a Ledger instruction that names no failed access. -/
def ledgerExc (s : State) (c : Chan) (vec sub : Nat) : Exc := { vec := vec, addr := (s.chan c).pc, sub := sub }

/-- A Ledger instruction completes, which ends the slice (R24); its context ends with it (R240). -/
def ledgerDone (s : State) (c : Chan) (r : LRun) (cc : Option (Fin 4)) : State :=
  let s := if slotClass r.ins.opc && (s.lge.slotOf c).isSome then freeContext s c else s
  let s := s.modLge (·.leave c)
  settle (finish s c ((s.chan c).pc + BitVec.ofNat 32 r.ins.len) fun ch =>
    { ch with wait := .none, csw := match cc with | some k => wset ch.csw 5 4 k.val | none => ch.csw }) c

/-- The slice has ended at a boundary: the channel waits for its next one (R24, R246). -/
def ledgerSuspend (s : State) (c : Chan) (r : LRun) : State :=
  settle ((s.modLge (·.leave c)).modChan c fun ch =>
    { ch with wait := .ledger { r with resume := slotClass r.ins.opc, check := false, expired := false } }) c

/-! ### Plans of slot-class instructions (R215, R216, R230-R233) -/

/-- How a slot-class instruction begins: with its units, or an exception that leaves no context. -/
inductive Plan where
  | ok (x : LCtx)
  | fail (x : Exc)
  | wait
  deriving DecidableEq, Repr

/-- A context with nothing done. -/
def newCtx (ch : Channel) (i : LIns) (units : List LUnit) (exc : Option Exc) (srcs : List (Nat × List Byte))
    (pat : Nat × List Byte) (held : List Reg) : LCtx :=
  ⟨ch.pc, i.opc, ch.lsav &&& 0xFFFFFF00, 0, units, exc, srcs, pat, held.map fun r => (r, ch.rg r)⟩

/-- A unit that only moves the context. -/
def LUnit.idle : LUnit := ⟨[], [], none⟩

/-- The registers whose change by a handler leaves a decimal instruction's results open: those that address its operands
or hold one (R238). -/
def decHeld (i : LIns) : List Reg :=
  match i.opc.toNat with
  | 0x05 => [i.d, i.a, i.m]
  | 0x06 => [i.d]
  | 0x08 => [i.a]
  | 0x09 => [i.d, i.a] ++ if i.b1.getLsbD 6 then [nextReg i.a] else []
  | _ => [i.d, i.a]

/-- A decimal instruction: every source is read and checked first; a zero divisor is found in that check (R215, R223). -/
def decPlan (s : State) (c : Chan) (r : LRun) : Plan × State :=
  let ch := s.chan c
  let i := r.ins
  let ops := decSources i ch
  match readOps s c r.rd ops with
  | (.wait, s) => (.wait, s)
  | (.fail v a, s) => (.fail { vec := v, addr := a }, s)
  | (.ok ls, s) =>
    match lowestCause (ls.map packedCause) with
    | some k => (.fail (ledgerExc s c 14 k), s)
    | none =>
      let vs := ls.map packedVal
      if i.opc = 0x05 ∧ vs.getD 1 0 = 0 then (.fail (ledgerExc s c 14 4), s)
      else
        let (u, sub) := decResult i ch vs
        (.ok (newCtx ch i (List.replicate (ceilDiv (unitDigits i) 8 - 1) .idle ++ [u])
          (sub.map fun k => ledgerExc s c 14 k) ((ops.map (·.1)).zip ls) (0, []) (decHeld i)), s)

/-- The physical addresses of bytes. -/
def physical (ch : Channel) (e n : Nat) : List Nat := (List.range n).filterMap fun k => ch.translate (e + k)

/-- The stores of units with free bytes in their place (R232, R238). -/
def freeUnits (s : State) : List LUnit → List LUnit × State
  | [] => ([], s)
  | u :: us =>
    let (st, s) := u.stores.foldr (fun x (y : List (Nat × List Byte) × State) =>
      let (l, s) := y.2.freeBytes x.2.length
      ((x.1, l) :: y.1, s)) ([], s)
    let (w, s) := s.freeWord
    let (us, s) := freeUnits s us
    ({ u with stores := st, cc := if st.isEmpty then u.cc else u.cc.map fun _ => ⟨w.toNat % 4, by omega⟩ } :: us, s)

/-- EDIT and EDTM: the check pass, then the units. A source that overlaps the pattern leaves the bytes free (R232). -/
def editPlan (s : State) (c : Chan) (r : LRun) : Plan × State :=
  let ch := s.chan c
  let i := r.ins
  let pa := (ch.rg i.d).toNat
  let p := (ch.rg (nextReg i.d)).toNat
  if p = 0 ∨ 256 < p then (.fail (ledgerExc s c 15 0), s)
  else match readOps s c r.rd [(pa, p)] with
  | (.wait, s) => (.wait, s)
  | (.fail v a, s) => (.fail { vec := v, addr := a }, s)
  | (.ok ps, s) =>
    let pat := ps.headD []
    let fs := patFields [] pat
    let src := (ch.rg i.a).toNat
    let ops := editSources src fs
    match readOps s c r.rd ops with
    | (.wait, s) => (.wait, s)
    | (.fail v a, s) => (.fail { vec := v, addr := a }, s)
    | (.ok ls, s) =>
      match lowestCause ((fs.zip ls).map fun (f, l) => editCause (selects f.1) l) with
      | some k => (.fail (ledgerExc s c 14 k), s)
      | none =>
        let (outs, cc, mark) := editFields i.b1 pa src 0 none fs ls
        let us := editUnits i cc mark pa p (cutUnits 0 0 [] outs)
        let into := physical ch pa p
        let hit := ops.any fun o => (physical ch o.1 o.2).any into.contains
        let (us, s) := if hit then freeUnits s us else (us, s)
        let us := if hit then us.map fun u => { u with cc := u.cc.map fun _ => cc } else us
        (.ok (newCtx ch i us none ((ops.map (·.1)).zip ls) (pa, pat) [i.d, nextReg i.d, i.a]), s)

/-- The plan of a slot-class instruction. -/
def ledgerPlan (s : State) (c : Chan) (r : LRun) : Plan × State :=
  if isEdit r.ins.opc then editPlan s c r else decPlan s c r

/-! ### Continuing from a context (R237, R238) -/

/-- Whether memory at `e` still holds these bytes. -/
def stillHolds (s : State) (ch : Channel) (e : Nat) (l : List Byte) : Bool :=
  (l.zipIdx).all fun (b, k) => match ch.translate (e + k) with
    | some pa => !s.inMemory pa || s.byte pa == b
    | none => true

/-- Whether a handler has left the operands, the pattern and the progress registers unchanged. -/
def unchanged (s : State) (ch : Channel) (x : LCtx) : Bool :=
  x.srcs.all (fun y => stillHolds s ch y.1 y.2) && stillHolds s ch x.pat.1 x.pat.2 && x.held.all fun y => ch.rg y.1 == y.2

/-- The context as the resumed instruction continues from it: what it stores is free where a handler changed something. -/
def resumeCtx (s : State) (c : Chan) (r : LRun) (x : LCtx) : LCtx × State :=
  if !r.check || unchanged s (s.chan c) x then (x, s)
  else
    let (us, s) := freeUnits s x.units
    ({ x with units := us }, s)

/-! ### Slots (R239-R242) -/

/-- The slot a slot-class instruction or LPIN obtains (R238, R239): its own, a free one, or the one that the engine served
least recently. -/
def Ledger.choose (l : Ledger) (c : Chan) : Option (Fin 4) :=
  match l.pinOf c, l.slotOf c with
  | some i, _ => some i
  | none, some i => some i
  | none, none =>
    match (List.finRange 4).find? fun i => !l.slots[i].pin && l.slots[i].ctx.isNone with
    | some i => some i
    | none => l.order.find? fun i => !l.slots[i].pin

/-- Put a context into a slot of its channel (R241). -/
def putCtx (s : State) (c : Chan) (i : Fin 4) (x : LCtx) : State :=
  s.modLge fun l => { l with
    slots := l.slots.set i { l.slots[i] with ctx := some x, owner := c }
    loc := l.loc.set c (.inSlot i)
    under := if l.loc[c] = .saved ∨ l.loc[c] = .lost then l.under.set c ((l.loc[c], l.home[c]) :: l.under[c]) else l.under
    home := l.home.set c x.home }

/-- The engine serves a slot: it is now the most recently served. -/
def serve (s : State) (i : Fin 4) : State :=
  s.modLge fun l => { l with using_ := some i, order := l.order.filter (· ≠ i) ++ [i] }

/-- The slot is empty: the reload begins if the instruction needs one, and otherwise the engine works in the slot. The
save area is the one at LSAV, or the home of a context that left its slot between two slices (R237, R239). -/
def takeSlot (s : State) (c : Chan) (r : LRun) (i : Fin 4) : State :=
  if r.resume then
    let area := if r.check then (s.chan c).lsav &&& 0xFFFFFF00 else s.lge.home[c]
    s.modLge fun l => { l with load := some ⟨c, i, (s.chan c).pc, r.ins.opc, area⟩ }
  else serve s i

/-- A slot has been chosen: the context in it is spilled first (R238, R239). -/
def spillFirst (s : State) (c : Chan) (r : LRun) (i : Fin 4) : State :=
  match s.lge.slots[i].ctx with
  | some x => s.modLge fun l => { l with spill := some (l.slots[i].owner, x, i) }
  | none => takeSlot s c r i

/-- The slot-unavailable exception: nothing else happens, and CSW.LRS is stacked as it stood at decode (R239). Of an
instruction decoded with LRS = 0 whose context has been spilled since, 1 is stacked, since the channel holds a context for
it (R236): the model's choice between the two rules (log 31). -/
def slotUnavailable (s : State) (c : Chan) (r : LRun) : State :=
  raiseLedger (s.count R.lgeSufCnt) c (ledgerExc s c 16 0) r.resume

/-- A slot-class instruction starts or resumes (R237-R239). A context of another address that the slot holds when one
resumes is spilled to its home before the reload, which R237 does not say: the model's choice (log 31). -/
def prepareSlot (s : State) (c : Chan) (r : LRun) : State :=
  let go := match s.lge.choose c with
    | some i => spillFirst s c r i
    | none => slotUnavailable s c r
  if r.resume then
    match s.lge.loc[c], s.lge.ctxOf c with
    | .lost, _ => raiseLedger (s.modLge (·.popLoc c)) c (ledgerExc s c 17 2) false
    | .inSlot i, some x =>
      if x.pc = (s.chan c).pc then
        if x.opc = r.ins.opc then
          let (x, s) := resumeCtx s c r x
          (serve s i).modLge fun l => { l with work := some x }
        else raiseLedger (freeContext s c) c (ledgerExc s c 17 0) false
      else go
    | _, _ => go
  else go

/-- Pinned slots. -/
def Ledger.pinned (l : Ledger) : Nat := l.slots.toList.countP (·.pin)

/-- LPIN has the engine (R245). A context of the channel keeps its slot and is not spilled. -/
def preparePin (s : State) (c : Chan) (r : LRun) : State :=
  if (s.lge.pinOf c).isSome then s
  else if s.rfld R.lgeCfg 18 16 ≤ s.lge.pinned then slotUnavailable s c r
  else match s.lge.slotOf c, s.lge.choose c with
    | some i, _ => serve s i
    | none, some i => spillFirst s c r i
    | none, none => slotUnavailable s c r

/-! ### Engine grant and slices (R24, R246) -/

/-- The Ledger instruction of a channel; a channel that a parity error has silenced issues none (R285). -/
def State.lrun (s : State) (c : Chan) : Option LRun :=
  match (s.chan c).mute, (s.chan c).wait with
  | false, .ledger r => some r
  | _, _ => none

/-- The channel whose turn it is. -/
def ledgerTurn (s : State) : Option Chan :=
  let p : PipeSt := { PipeSt.reset with turn := s.lge.turn, served := s.lge.served }
  (p.askOrder (s.chan s.lge.turn).weight).find? fun c => (s.lrun c).isSome

/-- LEDGER_ENGINE_GRANT: the free engine takes the channel whose turn it is. -/
def ledgerEngineGrant (c : Chan) (s : State) : State :=
  match s.lrun c with
  | none => s
  | some r =>
    if s.lge.cur.isSome || s.lge.spill.isSome || s.lge.load.isSome || ledgerTurn s != some c then s
    else
      let n := if c = s.lge.turn ∧ s.lge.served < (s.chan c).weight then s.lge.served + 1 else 1
      let s := runLedgerMicro (s.modLge fun l => { l with cur := some c, turn := c, served := n }) r.ins.opc.toNat
      if slotClass r.ins.opc then prepareSlot s c r
      else if r.ins.opc = 0x20 then preparePin s c r
      else if r.ins.opc = 0x0A ∨ r.ins.opc = 0x0B then
        s.modChan c fun ch => { ch with wait := .ledger { r with locked := true } }
      else s

/-- LEDGER_ENGINE_GRANT. -/
def execLedgerEngineGrant (c : Chan) (s : State) : Host.Outcome State Fault Refusal := .next (ledgerEngineGrant c s)

/-- The Ledger instruction that the engine is working on for a channel, no spill or reload being in progress. -/
def State.lworking (s : State) (c : Chan) : Option LRun :=
  if s.lge.cur = some c ∧ s.lge.spill = none ∧ s.lge.load = none then s.lrun c else none

/-- LEDGER_SLICE_EXPIRY: the instruction stops at its next boundary. -/
def execLedgerSliceExpiry (c : Chan) (s : State) : Host.Outcome State Fault Refusal :=
  .next (match s.lworking c with
    | some r => s.modChan c fun ch => { ch with wait := .ledger { r with expired := true } }
    | none => s)

/-! ### Spill and reload (R241-R243) -/

/-- A save area (R242). -/
def saveArea (c : Chan) (x : LCtx) (seq : Word) (state : List Byte) : List Byte :=
  [1, 0, BitVec.ofNat 8 c.val, x.opc] ++ wordBytes x.pc ++ wordBytes seq ++ wordBytes (crc32 state) ++ state

/-- The instruction that asked for the slot goes on, if it still waits for it. -/
def afterSpill (s : State) (i : Fin 4) : State :=
  match s.lge.cur with
  | some c => (match s.lrun c with
    | some r => takeSlot s c r i
    | none => s)
  | none => s

/-- A spill ends: the context is in the save area, or lost. -/
def spilled (s : State) (o : Chan) (x : LCtx) (i : Fin 4) (state : List Byte) (ok : Bool) : State :=
  let s := if ok then s else s.count R.lgeLostCnt
  s.modLge fun l => { l with
    spill := none
    slots := if l.loc[o] = .inSlot i then l.slots.set i { l.slots[i] with ctx := none } else l.slots
    loc := if l.loc[o] = .inSlot i then l.loc.set o (if ok then .saved else .lost) else l.loc
    saved := if ok then l.saved.set o (⟨state, x⟩ :: l.saved[o]) else l.saved }

/-- LEDGER_SPILL_COMPLETE: the context goes to its home save area with key 0, in supervisor mode (R241, R281). -/
def ledgerSpillComplete (owner : Chan) (s : State) : State :=
  match s.lge.spill with
  | some (o, x, i) =>
    if o ≠ owner ∨ (s.chan o).mute = true then s
    else
      let (state, t) := (s.count R.lgeSpillCnt).freeBytes 240
      (match writeLong 5 t o (supervisorHow 0 .wr true) x.home.toNat (saveArea o x (t.reg R.lgeSpillCnt) state) with
       | (.wait, _) => s
       | (.ok, t) => afterSpill (spilled t o x i state true) i
       | (.fail _ _, t) => afterSpill (spilled t o x i state false) i)
  | none => s

/-- LEDGER_SPILL_COMPLETE. -/
def execLedgerSpillComplete (owner : Chan) (s : State) : Host.Outcome State Fault Refusal :=
  .next (ledgerSpillComplete owner s)

/-- The cause for which a save area fails (R243). -/
def saveCause (d : LLoad) (l : List Byte) : Option Nat :=
  if leAt l 0 2 ≠ 1 ∨ leAt l 2 1 ≠ d.chan.val ∨ leAt l 3 1 ≠ d.opc.toNat ∨ leAt l 4 4 ≠ d.pc.toNat then some 0
  else if leAt l 12 4 ≠ (crc32 (l.drop 16)).toNat then some 1
  else none

/-- The context that STATE stands for: one that was spilled, with the home save area that it was created with (R241), or,
for bytes the device never wrote, one whose results are free and whose home is the area it came from (R238, R243). Where
the instruction that asked for such bytes has been interrupted meanwhile, the context is one idle unit that stores
nothing: the model's choice (log 31). -/
def stateCtx (s : State) (d : LLoad) (r : Option LRun) (l : List Byte) : Plan × State :=
  match (s.lge.saved[d.chan]).find? fun y => y.state == l.drop 16 with
  | some y => (.ok { y.ctx with pc := d.pc, opc := d.opc }, s)
  | none =>
    match r with
    | some r => (match ledgerPlan s d.chan r with
      | (.ok x, s) => let (us, s) := freeUnits s x.units; (.ok { x with units := us, exc := none, home := d.area }, s)
      | x => x)
    | none => (.ok ⟨d.pc, d.opc, d.area, 1, [.idle], none, [], (0, []), []⟩, s)

/-- The reloaded context is in its slot; the instruction that waits for it continues. -/
def reloaded (s : State) (d : LLoad) (r : Option LRun) (x : LCtx) : State :=
  let s := (s.count R.lgeReloadCnt).modLge fun l => { l.popLoc d.chan with load := none }
  let s := putCtx s d.chan d.slot x
  match r with
  | some r =>
    let (x, s) := resumeCtx s d.chan r x
    (serve s d.slot).modLge fun l => { l with work := some x }
  | none => s

/-- LEDGER_RELOAD_COMPLETE: the save area is read with key 0 in supervisor mode, and its header and CRC are checked. A
failure is the exception of the instruction that still waits for it. -/
def ledgerReloadComplete (c : Chan) (s : State) : State :=
  match s.lge.load with
  | none => s
  | some d =>
    if d.chan ≠ c ∨ (s.chan c).mute = true then s
    else
      let r := if s.lge.cur = some c then s.lrun c else none
      let drop := fun (s : State) => s.modLge fun l => { l with load := none }
      let fail := fun (s : State) (x : Exc) (lrs : Bool) =>
        if r.isSome then raiseLedger (drop s) c x lrs else drop s
      match readLong 5 s c (supervisorHow 0 .rd false) d.area.toNat 256 with
      | (.wait, _) => s
      | (.fail v a, s) => fail s { vec := v, addr := a } true
      | (.ok l, s1) =>
        match saveCause d l with
        | some k => fail s1 (ledgerExc s1 c 17 k) false
        | none => (match stateCtx s1 d r l with
          | (.wait, _) => s
          | (.fail x, s) => fail s x false
          | (.ok x, s) => reloaded s d r x)

/-- LEDGER_RELOAD_COMPLETE. -/
def execLedgerReloadComplete (c : Chan) (s : State) : Host.Outcome State Fault Refusal := .next (ledgerReloadComplete c s)

end Sys2Proof.Machine
end

