-- ==== Sys2Proof/Machine/LedgerEngine.lean ====
section
/-! DEFINITION. The units of the Ledger instructions and their boundaries (07 R226-R236, R240, R245). -/
namespace Sys2Proof.Machine

/-! ### Units that are formed at their boundary: strings, PACK, UNPK (R226-R229, R233) -/

/-- A unit as the engine has formed it, and whether it is the last. -/
inductive Live where
  | ok (u : LUnit) (last : Bool)
  | fail (x : Exc)
  | wait
  deriving DecidableEq, Repr

/-- The longest operand (R227). -/
def longest : Nat := 0x1000000

/-- Read operands for a unit and go on with them. -/
def withOps (s : State) (c : Chan) (r : LRun) (ops : List (Nat × Nat)) (f : State → List (List Byte) → Live × State) :
    Live × State :=
  match readOps s c r.rd ops with
  | (.wait, s) => (.wait, s)
  | (.fail v a, s) => (.fail { vec := v, addr := a }, s)
  | (.ok ls, s) => f s ls

/-- A unit of PACK or UNPK from its result. -/
def zonedUnit (s : State) (c : Chan) (e : Nat) : Nat ⊕ List Byte → Live × State
  | .inl k => (.fail (ledgerExc s c 14 k), s)
  | .inr l => (.ok ⟨[(e, l)], [], none⟩ true, s)

/-- The physical intervals of `n` bytes at `e`: one for each region they lie in. -/
def spans (ch : Channel) (e n : Nat) : List (Nat × Nat) :=
  let k := min n (2 ^ 28 - e % 2 ^ 28)
  [(e, k), (e + k, n - k)].filterMap fun x => if x.2 = 0 then none else (ch.translate x.1).map fun pa => (pa, x.2)

/-- Whether two intervals meet. -/
def overlap (a b : Nat × Nat) : Bool := a.1 < b.1 + b.2 && b.1 < a.1 + a.2

/-- Whether the operands of a move meet in memory but not in effective addresses, so that the result cannot be predicted
(R228). -/
def aliased (ch : Channel) (gd ld ga n : Nat) : Bool :=
  !overlap (gd, ld) (ga, n) && (spans ch gd ld).any fun x => (spans ch ga n).any (overlap x)

/-- MVL. -/
def mvlUnit (s : State) (c : Chan) (r : LRun) : Live × State :=
  let ch := s.chan c
  let i := r.ins
  let gd := (ch.rg i.d).toNat
  let ld := (ch.rg (nextReg i.d)).toNat
  let ga := (ch.rg i.a).toNat
  let la := (ch.rg (nextReg i.a)).toNat
  let n := min ld la
  let k := min ld 256
  let m := min k la
  if longest < ld ∨ longest < la ∨ (ga < gd ∧ gd < ga + n) then (.fail (ledgerExc s c 15 0), s)
  else withOps s c r [(ga, m)] fun s ls =>
    let (data, s) := if aliased ch gd ld ga n then s.freeBytes m else (ls.headD [], s)
    (.ok ⟨[(gd, data ++ List.replicate (k - m) i.b1)],
      [(i.d, BitVec.ofNat 32 (gd + k)), (nextReg i.d, BitVec.ofNat 32 (ld - k)),
       (i.a, BitVec.ofNat 32 (ga + m)), (nextReg i.a, BitVec.ofNat 32 (la - m))],
      some (if ld = la then 0 else if ld < la then 1 else 2)⟩ (k == ld), s)

/-- Equal bytes at the start of two lists of one length. -/
def equalPrefix : List Byte → List Byte → Nat
  | x :: xs, y :: ys => if x = y then equalPrefix xs ys + 1 else 0
  | _, _ => 0

/-- CLL. -/
def cllUnit (s : State) (c : Chan) (r : LRun) : Live × State :=
  let ch := s.chan c
  let i := r.ins
  let gd := (ch.rg i.d).toNat
  let ld := (ch.rg (nextReg i.d)).toNat
  let ga := (ch.rg i.a).toNat
  let la := (ch.rg (nextReg i.a)).toNat
  let k := min (max ld la) 256
  if longest < ld ∨ longest < la then (.fail (ledgerExc s c 15 0), s)
  else withOps s c r [(gd, min ld k), (ga, min la k)] fun s ls =>
    let pad := fun (l : List Byte) => l ++ List.replicate (k - l.length) i.b1
    let x := pad (ls.getD 0 [])
    let y := pad (ls.getD 1 [])
    let e := equalPrefix x y
    let cc : Fin 4 := if e = k then 0 else if x.getD e 0 < y.getD e 0 then 1 else 2
    (.ok ⟨[], [(i.d, BitVec.ofNat 32 (gd + min e ld)), (nextReg i.d, BitVec.ofNat 32 (ld - min e ld)),
        (i.a, BitVec.ofNat 32 (ga + min e la)), (nextReg i.a, BitVec.ofNat 32 (la - min e la))], some cc⟩
      (e < k || k == max ld la), s)

/-- The table bytes that bytes select (R229); with a class mask, those up to the first whose class bits are not 0. -/
def tableBytes (s : State) (c : Chan) (h : How) (ga : Nat) (mask : Option Byte) : List Byte → LRead × State
  | [] => (.ok [[]], s)
  | b :: bs => match readEff s c h (ga + b.toNat) 1 with
    | (.fail v a, s) => (.fail v a, s)
    | (.wait, s) => (.wait, s)
    | (.ok l, s) =>
      let t := l.headD 0
      if (mask.map fun k => t &&& k != 0).getD false then (.ok [[t]], s)
      else (match tableBytes s c h ga mask bs with
        | (.ok ls, s) => (.ok [t :: ls.headD []], s)
        | x => x)

/-- TRL and TRTL. -/
def trlUnit (s : State) (c : Chan) (r : LRun) : Live × State :=
  let ch := s.chan c
  let i := r.ins
  let gd := (ch.rg i.d).toNat
  let ld := (ch.rg (nextReg i.d)).toNat
  let ga := (ch.rg i.a).toNat
  let k := min ld 256
  let scan := i.opc == 0x13
  let regs := fun (n : Nat) => [(i.d, BitVec.ofNat 32 (gd + n)), (nextReg i.d, BitVec.ofNat 32 (ld - n))]
  if longest < ld then (.fail (ledgerExc s c 15 0), s)
  else withOps s c r [(gd, k)] fun s ls =>
    match tableBytes s c r.rd ga (if scan then some i.b1 else none) (ls.headD []) with
    | (.wait, s) => (.wait, s)
    | (.fail v a, s) => (.fail { vec := v, addr := a }, s)
    | (.ok ts, s) =>
      let t := ts.headD []
      let hit := (t.getLast?.getD 0) &&& i.b1
      if !scan then (.ok ⟨[(gd, t)], regs k, none⟩ (k == ld), s)
      else if hit = 0 ∨ t = [] then (.ok ⟨[], regs k, some 0⟩ (k == ld), s)
      else
        let n := t.length - 1
        (.ok ⟨[], regs n ++ [(i.m, hit.zeroExtend 32)], some (if ld - n = 1 then 2 else 1)⟩ true, s)

/-- The next unit of an instruction that needs no slot. -/
def liveUnit (s : State) (c : Chan) (r : LRun) : Live × State :=
  let ch := s.chan c
  let i := r.ins
  let e := (ch.rg i.d).toNat
  match i.opc.toNat with
  | 0x0A => withOps s c r [((ch.rg i.a).toNat, i.b2.toNat % 64 + 1)] fun s ls => zonedUnit s c e (packRes i.b1 i.b2 (ls.headD []))
  | 0x0B => withOps s c r [((ch.rg i.a).toNat, blen i.b1)] fun s ls => zonedUnit s c e (unpkRes i.b2 (ls.headD []))
  | 0x10 => mvlUnit s c r
  | 0x11 => cllUnit s c r
  | _ => trlUnit s c r

/-! ### Boundaries (R233-R236, R240) -/

/-- A boundary of an instruction that needs no slot. -/
def liveBoundary (s : State) (c : Chan) (r : LRun) : State :=
  match liveUnit s c r with
  | (.wait, _) => s
  | (.fail x, s) => raiseLedger s c x false
  | (.ok u last, t) =>
    match commitUnit t c r u with
    | (.wait, _) => s
    | (.fail v a, t) => raiseLedger t c { vec := v, addr := a } false
    | (.ok, t) =>
      if last then ledgerDone t c r u.cc
      else if r.expired then ledgerSuspend t c r
      else t

/-- A context with its first unit committed. -/
def nextCtx (ch : Channel) (x : LCtx) (u : LUnit) (us : List LUnit) : LCtx :=
  let n := (u.stores.head?.map (·.2.length)).getD 0
  { x with
      done := x.done + 1
      units := us
      pat := (x.pat.1 + n, x.pat.2.drop n)
      held := x.held.map fun y => (y.1, ch.rg y.1) }

/-- A boundary of a slot-class instruction with context `x`; `s0` is the state in which it waits for memory. -/
def slotBoundary (s0 s : State) (c : Chan) (r : LRun) (x : LCtx) : State :=
  match x.units with
  | [] => ledgerDone s c r none
  | u :: us =>
    match us.isEmpty, x.exc with
    | true, some e => raiseLedger s c e (s.lge.ctxOf c).isSome
    | _, _ =>
      match commitUnit s c r u with
      | (.wait, _) => s0
      | (.fail v a, s) => raiseLedger s c { vec := v, addr := a } (s.lge.ctxOf c).isSome
      | (.ok, s) =>
        if us.isEmpty then ledgerDone s c r u.cc
        else
          let x := nextCtx (s.chan c) x u us
          let s := match s.lge.using_ with
            | some i => serve (putCtx s c i x) i
            | none => s
          if r.expired then ledgerSuspend s c r else s.modLge fun l => { l with work := some x }

/-- LPIN takes its slot (R245). -/
def pinSlot (s : State) (c : Chan) : State :=
  match s.lge.using_ with
  | some i => s.modLge fun l => { l with slots := l.slots.set i { l.slots[i] with pin := true, owner := c } }
  | none => s

/-- LUNPIN: a context in the slot stays there. -/
def unpinSlot (s : State) (c : Chan) : State :=
  s.modLge fun l => { l with slots := l.slots.map fun x => if x.pin && x.owner == c then { x with pin := false } else x }

/-- LEDGER_UNIT_BOUNDARY: the engine reaches the next boundary of the instruction it works on. The first reads and checks
what the instruction needs. -/
def ledgerUnitBoundary (c : Chan) (s : State) : State :=
  match s.lworking c with
  | none => s
  | some r =>
    if r.ins.opc = 0x20 then ledgerDone (pinSlot s c) c r none
    else if r.ins.opc = 0x21 then ledgerDone (unpinSlot s c) c r none
    else if slotClass r.ins.opc then
      match s.lge.work with
      | some x => slotBoundary s s c r x
      | none => (match ledgerPlan s c r with
        | (.wait, _) => s
        | (.fail x, s) => raiseLedger s c x false
        | (.ok x, t) => slotBoundary s t c r x)
    else liveBoundary s c r

/-- LEDGER_UNIT_BOUNDARY. -/
def execLedgerUnitBoundary (c : Chan) (s : State) : Host.Outcome State Fault Refusal := .next (ledgerUnitBoundary c s)

end Sys2Proof.Machine
end

