-- ==== Sys2Proof/Machine/Stream.lean ====
section
/-! DEFINITION. The stream, vector and signal instructions: what each is at its decode (05 R142-R176). What its elements
compute is `laneOp` (Lanes) and the units (Units); how they progress is SExec. -/
namespace Sys2Proof.Machine

/-- MAND, MOR, MXOR on mask registers (R152). -/
def execMandMorMxor (c : Chan) (p : Prefixes) (op : BitOp) (o : SOps) (s : State) :
    Host.Outcome State Fault Refusal :=
  .next (streamInstr s c p (.mlogic op) (.ofS o))

/-- MNOT (R152). -/
def execMnot (c : Chan) (p : Prefixes) (o : SOps) (s : State) :
    Host.Outcome State Fault Refusal :=
  .next (streamInstr s c p (.mnot) (.ofS o))

/-- VLD: a register from memory (R152). -/
def execVld (c : Chan) (p : Prefixes) (o : SOps) (s : State) :
    Host.Outcome State Fault Refusal :=
  .next (streamInstr s c p (.vld) (.ofS o))

/-- VST: memory from a register (R152). -/
def execVst (c : Chan) (p : Prefixes) (o : SOps) (s : State) :
    Host.Outcome State Fault Refusal :=
  .next (streamInstr s c p (.vst) (.ofS o))

/-- ADD and SUB (R152). -/
def execStreamAddSub (c : Chan) (p : Prefixes) (sub : Bool) (o : SOps) (s : State) :
    Host.Outcome State Fault Refusal :=
  .next (streamInstr s c p (.addSub sub) (.ofS o))

/-- MUL (R152). -/
def execStreamMul (c : Chan) (p : Prefixes) (o : SOps) (s : State) :
    Host.Outcome State Fault Refusal :=
  .next (streamInstr s c p (.mul) (.ofS o))

/-- MULH and MULHU (R152). -/
def execStreamMulhMulhu (c : Chan) (p : Prefixes) (uns : Bool) (o : SOps) (s : State) :
    Host.Outcome State Fault Refusal :=
  .next (streamInstr s c p (.mulh uns) (.ofS o))

/-- DIV, DIVU, REM, REMU (R152). -/
def execStreamDivRem (c : Chan) (p : Prefixes) (op : DivOp) (o : SOps) (s : State) :
    Host.Outcome State Fault Refusal :=
  .next (streamInstr s c p (.div op) (.ofS o))

/-- AND, OR, XOR (R152). -/
def execStreamAndOrXor (c : Chan) (p : Prefixes) (op : BitOp) (o : SOps) (s : State) :
    Host.Outcome State Fault Refusal :=
  .next (streamInstr s c p (.logic op) (.ofS o))

/-- SHL, SHR, SAR (R152). -/
def execStreamShlShrSar (c : Chan) (p : Prefixes) (op : ShiftOp) (o : SOps) (s : State) :
    Host.Outcome State Fault Refusal :=
  .next (streamInstr s c p (.shift op) (.ofS o))

/-- MIN, MINU, MAX, MAXU (R152). -/
def execMinMinuMaxMaxu (c : Chan) (p : Prefixes) (op : MinOp) (o : SOps) (s : State) :
    Host.Outcome State Fault Refusal :=
  .next (streamInstr s c p (.minmax op) (.ofS o))

/-- ABS and NEG (R152). -/
def execAbsNeg (c : Chan) (p : Prefixes) (neg : Bool) (o : SOps) (s : State) :
    Host.Outcome State Fault Refusal :=
  .next (streamInstr s c p (.absNeg neg) (.ofS o))

/-- MOV (R152). -/
def execStreamMov (c : Chan) (p : Prefixes) (o : SOps) (s : State) :
    Host.Outcome State Fault Refusal :=
  .next (streamInstr s c p (.mov) (.ofS o))

/-- FADD and FSUB (R152). -/
def execFaddFsub (c : Chan) (p : Prefixes) (sub : Bool) (o : SOps) (s : State) :
    Host.Outcome State Fault Refusal :=
  .next (streamInstr s c p (.fadd sub) (.ofS o))

/-- FMUL (R152). -/
def execFmul (c : Chan) (p : Prefixes) (o : SOps) (s : State) :
    Host.Outcome State Fault Refusal :=
  .next (streamInstr s c p (.fmul) (.ofS o))

/-- FDIV (R152). -/
def execFdiv (c : Chan) (p : Prefixes) (o : SOps) (s : State) :
    Host.Outcome State Fault Refusal :=
  .next (streamInstr s c p (.fdiv) (.ofS o))

/-- FMA (R152). -/
def execFma (c : Chan) (p : Prefixes) (o : SOps) (s : State) :
    Host.Outcome State Fault Refusal :=
  .next (streamInstr s c p (.fma) (.ofS o))

/-- FMIN and FMAX (R152). -/
def execFminFmax (c : Chan) (p : Prefixes) (isMax : Bool) (o : SOps) (s : State) :
    Host.Outcome State Fault Refusal :=
  .next (streamInstr s c p (.fminmax isMax) (.ofS o))

/-- FABS (R152). -/
def execFabs (c : Chan) (p : Prefixes) (o : SOps) (s : State) :
    Host.Outcome State Fault Refusal :=
  .next (streamInstr s c p (.fabs) (.ofS o))

/-- FNEG (R152). -/
def execFneg (c : Chan) (p : Prefixes) (o : SOps) (s : State) :
    Host.Outcome State Fault Refusal :=
  .next (streamInstr s c p (.fneg) (.ofS o))

/-- FSQRT (R152). -/
def execFsqrt (c : Chan) (p : Prefixes) (o : SOps) (s : State) :
    Host.Outcome State Fault Refusal :=
  .next (streamInstr s c p (.fsqrt) (.ofS o))

/-- CMUL (R152). -/
def execCmul (c : Chan) (p : Prefixes) (o : SOps) (s : State) :
    Host.Outcome State Fault Refusal :=
  .next (streamInstr s c p (.cmul false) (.ofS o))

/-- CMULC (R152). -/
def execCmulc (c : Chan) (p : Prefixes) (o : SOps) (s : State) :
    Host.Outcome State Fault Refusal :=
  .next (streamInstr s c p (.cmul true) (.ofS o))

/-- DADD and DSUB (R152). -/
def execDaddDsub (c : Chan) (p : Prefixes) (sub : Bool) (o : SOps) (s : State) :
    Host.Outcome State Fault Refusal :=
  .next (streamInstr s c p (.dadd sub) (.ofS o))

/-- CMP (R152). -/
def execStreamCmp (c : Chan) (p : Prefixes) (o : SOps) (s : State) :
    Host.Outcome State Fault Refusal :=
  .next (streamInstr s c p (.cmp) (.ofS o))

/-- FCMP (R152). -/
def execFcmp (c : Chan) (p : Prefixes) (o : SOps) (s : State) :
    Host.Outcome State Fault Refusal :=
  .next (streamInstr s c p (.fcmp) (.ofS o))

/-- DCMP (R152). -/
def execDcmp (c : Chan) (p : Prefixes) (o : SOps) (s : State) :
    Host.Outcome State Fault Refusal :=
  .next (streamInstr s c p (.dcmp) (.ofS o))

/-- SEL (R152). -/
def execSel (c : Chan) (p : Prefixes) (o : SOps) (s : State) :
    Host.Outcome State Fault Refusal :=
  .next (streamInstr s c p (.sel) (.ofS o))

/-- CVT (R152). -/
def execCvt (c : Chan) (p : Prefixes) (o : SOps) (s : State) :
    Host.Outcome State Fault Refusal :=
  .next (streamInstr s c p (.cvt) (.ofS o))

/-- RSUM (R152). -/
def execRsum (c : Chan) (p : Prefixes) (o : SOps) (s : State) :
    Host.Outcome State Fault Refusal :=
  .next (streamInstr s c p (.rsum) (.ofS o))

/-- RMIN, RMAX, RMINU, RMAXU (R152). -/
def execRminRmaxRminuRmaxu (c : Chan) (p : Prefixes) (op : MinOp) (o : SOps) (s : State) :
    Host.Outcome State Fault Refusal :=
  .next (streamInstr s c p (.rminmax op) (.ofS o))

/-- RCNT (R152). -/
def execRcnt (c : Chan) (p : Prefixes) (o : SOps) (s : State) :
    Host.Outcome State Fault Refusal :=
  .next (streamInstr s c p (.rcnt) (.ofS o))

/-- FRSUM (R152). -/
def execFrsum (c : Chan) (p : Prefixes) (o : SOps) (s : State) :
    Host.Outcome State Fault Refusal :=
  .next (streamInstr s c p (.frsum) (.ofS o))

/-- FRMIN and FRMAX (R152). -/
def execFrminFrmax (c : Chan) (p : Prefixes) (isMax : Bool) (o : SOps) (s : State) :
    Host.Outcome State Fault Refusal :=
  .next (streamInstr s c p (.frminmax isMax) (.ofS o))

/-- FRSSQ (R152). -/
def execFrssq (c : Chan) (p : Prefixes) (o : SOps) (s : State) :
    Host.Outcome State Fault Refusal :=
  .next (streamInstr s c p (.frssq) (.ofS o))

/-- DRSUM (R152). -/
def execDrsum (c : Chan) (p : Prefixes) (o : SOps) (s : State) :
    Host.Outcome State Fault Refusal :=
  .next (streamInstr s c p (.drsum) (.ofS o))

/-- SCAN (R152). -/
def execScan (c : Chan) (p : Prefixes) (o : SOps) (s : State) :
    Host.Outcome State Fault Refusal :=
  .next (streamInstr s c p (.scan) (.ofS o))

/-- FSCAN (R152). -/
def execFscan (c : Chan) (p : Prefixes) (o : SOps) (s : State) :
    Host.Outcome State Fault Refusal :=
  .next (streamInstr s c p (.fscan) (.ofS o))

/-- WMUL (R152). -/
def execWmul (c : Chan) (p : Prefixes) (o : TOps) (s : State) :
    Host.Outcome State Fault Refusal :=
  .next (streamInstr s c p (.wmul) (.ofT o))

/-- MAG (R152). -/
def execMag (c : Chan) (p : Prefixes) (o : SOps) (s : State) :
    Host.Outcome State Fault Refusal :=
  .next (streamInstr s c p (.mag) (.ofS o))

/-- FFT (R152). -/
def execFft (c : Chan) (p : Prefixes) (o : TOps) (s : State) :
    Host.Outcome State Fault Refusal :=
  .next (streamInstr s c p (.fft) (.ofT o))

/-- BPOW (R152). -/
def execBpow (c : Chan) (p : Prefixes) (o : TOps) (s : State) :
    Host.Outcome State Fault Refusal :=
  .next (streamInstr s c p (.bpow) (.ofT o))

/-- ENV (R152). -/
def execEnv (c : Chan) (p : Prefixes) (o : TOps) (s : State) :
    Host.Outcome State Fault Refusal :=
  .next (streamInstr s c p (.env) (.ofT o))

/-- SYNC.S waits until every older stream and register-form instruction has retired and every drain has ended (R75,
R78). It belongs to the F8h map, which is illegal on the Binnacle core (R112, R370). -/
def execSyncS (c : Chan) (p : Prefixes) (s : State) : Host.Outcome State Fault Refusal :=
  .next (scalar s c { p := p, len := 2, legal := c != bnmCore } fun s next =>
    let ch := s.chan c
    if ch.slots.isEmpty && ch.drains.isEmpty then finish s c next id
    else s.modChan c fun ch => { ch with wait := .syncS })

/-- SYNC_S_COMPLETE: what SYNC.S waits for has come about. -/
def execSyncSComplete (c : Chan) (s : State) : Host.Outcome State Fault Refusal :=
  .next (let ch := s.chan c
    if ch.wait = .syncS ∧ ch.slots.isEmpty = true ∧ ch.drains.isEmpty = true then
      settle (finish s c (ch.pc + 2) fun ch => { ch with wait := .none }) c
    else s)

end Sys2Proof.Machine
end

