-- ==== Sys2Proof/Machine/Dispatch.lean ====
section
/-! DEFINITION. Which meaning each command has. -/
namespace Sys2Proof.Machine

def exec (i : Instr) (s : State) : Host.Outcome State Fault Refusal :=
  match i with
  | .bkpt c p => Sys2Proof.Machine.execBkpt c p s
  | .nop c p => Sys2Proof.Machine.execNop c p s
  | .ret c p => Sys2Proof.Machine.execRet c p s
  | .rete c p => Sys2Proof.Machine.execRete c p s
  | .svc c p imm => Sys2Proof.Machine.execSvc c p imm s
  | .wait c p => Sys2Proof.Machine.execWait c p s
  | .fence c p => Sys2Proof.Machine.execFence c p s
  | .iflush c p => Sys2Proof.Machine.execIflush c p s
  | .addSub c p sub d a b => Sys2Proof.Machine.execAddSub c p sub d a b s
  | .andOrXor c p op d a b => Sys2Proof.Machine.execAndOrXor c p op d a b s
  | .shlShrSar c p op d a b => Sys2Proof.Machine.execShlShrSar c p op d a b s
  | .rol c p d a b => Sys2Proof.Machine.execRol c p d a b s
  | .mul c p d a b => Sys2Proof.Machine.execMul c p d a b s
  | .mulhMulhu c p uns d a b => Sys2Proof.Machine.execMulhMulhu c p uns d a b s
  | .divDivuRemRemu c p op d a b => Sys2Proof.Machine.execDivDivuRemRemu c p op d a b s
  | .mov c p d a => Sys2Proof.Machine.execMov c p d a s
  | .negNot c p isNot d a => Sys2Proof.Machine.execNegNot c p isNot d a s
  | .cmp c p d a => Sys2Proof.Machine.execCmp c p d a s
  | .cmpi c p d imm => Sys2Proof.Machine.execCmpi c p d imm s
  | .tst c p d a => Sys2Proof.Machine.execTst c p d a s
  | .movi c p d imm => Sys2Proof.Machine.execMovi c p d imm s
  | .sextZext c p op d a => Sys2Proof.Machine.execSextZext c p op d a s
  | .clzPopc c p popc d a => Sys2Proof.Machine.execClzPopc c p popc d a s
  | .ld c p k d base disp => Sys2Proof.Machine.execLd c p k d base disp s
  | .st c p k d base disp => Sys2Proof.Machine.execSt c p k d base disp s
  | .ldr c p d base disp => Sys2Proof.Machine.execLdr c p d base disp s
  | .stc c p d base sr disp => Sys2Proof.Machine.execStc c p d base sr disp s
  | .ldadd c p d base sr disp => Sys2Proof.Machine.execLdadd c p d base sr disp s
  | .swp c p d base sr disp => Sys2Proof.Machine.execSwp c p d base sr disp s
  | .cas c p d base sr disp => Sys2Proof.Machine.execCas c p d base sr disp s
  | .push c p d a => Sys2Proof.Machine.execPush c p d a s
  | .pop c p d a => Sys2Proof.Machine.execPop c p d a s
  | .ldd c p d base disp => Sys2Proof.Machine.execLdd c p d base disp s
  | .std c p d base disp => Sys2Proof.Machine.execStd c p d base disp s
  | .brBcc c p cond rel => Sys2Proof.Machine.execBrBcc c p cond rel s
  | .call c p rel => Sys2Proof.Machine.execCall c p rel s
  | .jmp c p a => Sys2Proof.Machine.execJmp c p a s
  | .callr c p a => Sys2Proof.Machine.execCallr c p a s
  | .loop c p cnt len => Sys2Proof.Machine.execLoop c p cnt len s
  | .loopi c p cnt len => Sys2Proof.Machine.execLoopi c p cnt len s
  | .lexit c p => Sys2Proof.Machine.execLexit c p s
  | .bcm c p mask rel => Sys2Proof.Machine.execBcm c p mask rel s
  | .mfc c p d cr => Sys2Proof.Machine.execMfc c p d cr s
  | .mtc c p a cr => Sys2Proof.Machine.execMtc c p a cr s
  | .setvl c p d a => Sys2Proof.Machine.execSetvl c p d a s
  | .illegalInstructionDecode c => Sys2Proof.Machine.execIllegalInstructionDecode c s
  | .loadDataReturn c id => Sys2Proof.Machine.execLoadDataReturn c id s
  | .storeEnqueue c => Sys2Proof.Machine.execStoreEnqueue c s
  | .storePerformed c idx => Sys2Proof.Machine.execStorePerformed c idx s
  | .storeErrorResponse c idx => Sys2Proof.Machine.execStoreErrorResponse c idx s
  | .fenceComplete c => Sys2Proof.Machine.execFenceComplete c s
  | .waitWakeup c => Sys2Proof.Machine.execWaitWakeup c s
  | .syncS c p => Sys2Proof.Machine.execSyncS c p s
  | .syncSComplete c => Sys2Proof.Machine.execSyncSComplete c s
  | .mandMorMxor c p op o => Sys2Proof.Machine.execMandMorMxor c p op o s
  | .mnot c p o => Sys2Proof.Machine.execMnot c p o s
  | .vld c p o => Sys2Proof.Machine.execVld c p o s
  | .vst c p o => Sys2Proof.Machine.execVst c p o s
  | .streamAddSub c p sub o => Sys2Proof.Machine.execStreamAddSub c p sub o s
  | .streamMul c p o => Sys2Proof.Machine.execStreamMul c p o s
  | .streamMulhMulhu c p uns o => Sys2Proof.Machine.execStreamMulhMulhu c p uns o s
  | .streamDivRem c p op o => Sys2Proof.Machine.execStreamDivRem c p op o s
  | .streamAndOrXor c p op o => Sys2Proof.Machine.execStreamAndOrXor c p op o s
  | .streamShlShrSar c p op o => Sys2Proof.Machine.execStreamShlShrSar c p op o s
  | .minMinuMaxMaxu c p op o => Sys2Proof.Machine.execMinMinuMaxMaxu c p op o s
  | .absNeg c p neg o => Sys2Proof.Machine.execAbsNeg c p neg o s
  | .streamMov c p o => Sys2Proof.Machine.execStreamMov c p o s
  | .faddFsub c p sub o => Sys2Proof.Machine.execFaddFsub c p sub o s
  | .fmul c p o => Sys2Proof.Machine.execFmul c p o s
  | .fdiv c p o => Sys2Proof.Machine.execFdiv c p o s
  | .fma c p o => Sys2Proof.Machine.execFma c p o s
  | .fminFmax c p isMax o => Sys2Proof.Machine.execFminFmax c p isMax o s
  | .fabs c p o => Sys2Proof.Machine.execFabs c p o s
  | .fneg c p o => Sys2Proof.Machine.execFneg c p o s
  | .fsqrt c p o => Sys2Proof.Machine.execFsqrt c p o s
  | .cmul c p o => Sys2Proof.Machine.execCmul c p o s
  | .cmulc c p o => Sys2Proof.Machine.execCmulc c p o s
  | .daddDsub c p sub o => Sys2Proof.Machine.execDaddDsub c p sub o s
  | .streamCmp c p o => Sys2Proof.Machine.execStreamCmp c p o s
  | .fcmp c p o => Sys2Proof.Machine.execFcmp c p o s
  | .dcmp c p o => Sys2Proof.Machine.execDcmp c p o s
  | .sel c p o => Sys2Proof.Machine.execSel c p o s
  | .cvt c p o => Sys2Proof.Machine.execCvt c p o s
  | .rsum c p o => Sys2Proof.Machine.execRsum c p o s
  | .rminRmaxRminuRmaxu c p op o => Sys2Proof.Machine.execRminRmaxRminuRmaxu c p op o s
  | .rcnt c p o => Sys2Proof.Machine.execRcnt c p o s
  | .frsum c p o => Sys2Proof.Machine.execFrsum c p o s
  | .frminFrmax c p isMax o => Sys2Proof.Machine.execFrminFrmax c p isMax o s
  | .frssq c p o => Sys2Proof.Machine.execFrssq c p o s
  | .drsum c p o => Sys2Proof.Machine.execDrsum c p o s
  | .scan c p o => Sys2Proof.Machine.execScan c p o s
  | .fscan c p o => Sys2Proof.Machine.execFscan c p o s
  | .wmul c p o => Sys2Proof.Machine.execWmul c p o s
  | .mag c p o => Sys2Proof.Machine.execMag c p o s
  | .fft c p o => Sys2Proof.Machine.execFft c p o s
  | .bpow c p o => Sys2Proof.Machine.execBpow c p o s
  | .env c p o => Sys2Proof.Machine.execEnv c p o s
  | .streamSlotGrant c => Sys2Proof.Machine.execStreamSlotGrant c s
  | .streamDispatchStart c sid => Sys2Proof.Machine.execStreamDispatchStart c sid s
  | .stripComplete p => Sys2Proof.Machine.execStripComplete p s
  | .elementComplete c sid k => Sys2Proof.Machine.execElementComplete c sid k s
  | .elementFault c sid k => Sys2Proof.Machine.execElementFault c sid k s
  | .unitComplete c sid u => Sys2Proof.Machine.execUnitComplete c sid u s
  | .streamRetire c => Sys2Proof.Machine.execStreamRetire c s
  | .drainEnd c k => Sys2Proof.Machine.execDrainEnd c k s
  | .padd c p d a l1 l2 => Sys2Proof.Machine.execPadd c p d a l1 l2 s
  | .psub c p d a l1 l2 => Sys2Proof.Machine.execPsub c p d a l1 l2 s
  | .pset c p d a l1 l2 => Sys2Proof.Machine.execPset c p d a l1 l2 s
  | .pcmp c p d a l1 l2 => Sys2Proof.Machine.execPcmp c p d a l1 l2 s
  | .pmul c p d a l1 l2 => Sys2Proof.Machine.execPmul c p d a l1 l2 s
  | .pdiv c p d a m l1 l2 l3 => Sys2Proof.Machine.execPdiv c p d a m l1 l2 l3 s
  | .pscl c p d l1 sr rnd => Sys2Proof.Machine.execPscl c p d l1 sr rnd s
  | .pcvb c p d a l1 => Sys2Proof.Machine.execPcvb c p d a l1 s
  | .pcvd c p d a l1 => Sys2Proof.Machine.execPcvd c p d a l1 s
  | .pack c p d a lpk lzn => Sys2Proof.Machine.execPack c p d a lpk lzn s
  | .unpk c p d a lpk lzn => Sys2Proof.Machine.execUnpk c p d a lpk lzn s
  | .mvl c p d a x => Sys2Proof.Machine.execMvl c p d a x s
  | .cll c p d a x => Sys2Proof.Machine.execCll c p d a x s
  | .trl c p d a x => Sys2Proof.Machine.execTrl c p d a x s
  | .trtl c p d a f k => Sys2Proof.Machine.execTrtl c p d a f k s
  | .edit c p d a m f => Sys2Proof.Machine.execEdit c p d a m f s
  | .edtm c p d a m f => Sys2Proof.Machine.execEdtm c p d a m f s
  | .lpin c p => Sys2Proof.Machine.execLpin c p s
  | .lunpin c p => Sys2Proof.Machine.execLunpin c p s
  | .ledgerEngineGrant c => Sys2Proof.Machine.execLedgerEngineGrant c s
  | .ledgerUnitBoundary c => Sys2Proof.Machine.execLedgerUnitBoundary c s
  | .ledgerSliceExpiry c => Sys2Proof.Machine.execLedgerSliceExpiry c s
  | .ledgerSpillComplete owner => Sys2Proof.Machine.execLedgerSpillComplete owner s
  | .ledgerReloadComplete c => Sys2Proof.Machine.execLedgerReloadComplete c s
  | .eventAssert n => Sys2Proof.Machine.execEventAssert n s
  | .msixUnmask n => Sys2Proof.Machine.execMsixUnmask n s
  | .eventRecognition c => Sys2Proof.Machine.execEventRecognition c s
  | .atomWindowExpiry c => Sys2Proof.Machine.execAtomWindowExpiry c s
  | .lockupDelayExpiry => Sys2Proof.Machine.execLockupDelayExpiry s
  | .stepCounterWrap c => Sys2Proof.Machine.execStepCounterWrap c s
  | .pipeStepCounterWrap p => Sys2Proof.Machine.execPipeStepCounterWrap p s
  | .evcfgWrite m n v => Sys2Proof.Machine.execEvcfgWrite m n v s
  | .evcPendWrite m k v => Sys2Proof.Machine.execEvcPendWrite m k v s
  | .evcSetWrite m v => Sys2Proof.Machine.execEvcSetWrite m v s
  | .stepcntlRead m k => Sys2Proof.Machine.execStepcntlRead m k s
  | .dramLineRead m pa cond => Sys2Proof.Machine.execDramLineRead m pa cond s
  | .dramReadRetry pa attempt cond => Sys2Proof.Machine.execDramReadRetry pa attempt cond s
  | .dramLineWrite m pa data => Sys2Proof.Machine.execDramLineWrite m pa data s
  | .dramPartialWrite m pa data cond => Sys2Proof.Machine.execDramPartialWrite m pa data cond s
  | .dramAtomic m op pa cmp val cond => Sys2Proof.Machine.execDramAtomic m op pa cmp val cond s
  | .keyCacheFill line cond => Sys2Proof.Machine.execKeyCacheFill line cond s
  | .memoryInitSweepStep => Sys2Proof.Machine.execMemoryInitSweepStep s
  | .chunkInitComplete chunk => Sys2Proof.Machine.execChunkInitComplete chunk s
  | .patrolScrubLine m line cond last => Sys2Proof.Machine.execPatrolScrubLine m line cond last s
  | .dimmCaParityError m pa => Sys2Proof.Machine.execDimmCaParityError m pa s
  | .dimmSensorRead m hot => Sys2Proof.Machine.execDimmSensorRead m hot s
  | .eccCounterClear m r => Sys2Proof.Machine.execEccCounterClear m r s
  | .chartAccess m bank row wdata be word cond => Sys2Proof.Machine.execChartAccess m bank row wdata be word cond s
  | .chartScrubRow bank row word cond => Sys2Proof.Machine.execChartScrubRow bank row word cond s
  | .cbnOwnerWrite m bank v => Sys2Proof.Machine.execCbnOwnerWrite m bank v s
  | .chartHandoverEffect bank => Sys2Proof.Machine.execChartHandoverEffect bank s
  | .chartWipeComplete bank => Sys2Proof.Machine.execChartWipeComplete bank s
  | .sealedBankWipeComplete => Sys2Proof.Machine.execSealedBankWipeComplete s
  | .defaultTargetAnswer m pa wr => Sys2Proof.Machine.execDefaultTargetAnswer m pa wr s
  | .dbCtailWrite n v => Sys2Proof.Machine.execDbCtailWrite n v s
  | .dbSheadWrite n v => Sys2Proof.Machine.execDbSheadWrite n v s
  | .dbEvinjWrite v => Sys2Proof.Machine.execDbEvinjWrite v s
  | .ringEnable m n => Sys2Proof.Machine.execRingEnable m n s
  | .ringDisable m n => Sys2Proof.Machine.execRingDisable m n s
  | .packetStart n readOk => Sys2Proof.Machine.execPacketStart n readOk s
  | .progressReply n frac => Sys2Proof.Machine.execProgressReply n frac s
  | .mbxGo v => Sys2Proof.Machine.execMbxGo v s
  | .chLoadctx sr => Sys2Proof.Machine.execChLoadctx sr s
  | .chSetregion sr => Sys2Proof.Machine.execChSetregion sr s
  | .chGrant sr => Sys2Proof.Machine.execChGrant sr s
  | .chStart sr => Sys2Proof.Machine.execChStart sr s
  | .chStop sr => Sys2Proof.Machine.execChStop sr s
  | .chQuiesce sr => Sys2Proof.Machine.execChQuiesce sr s
  | .chReadctx sr => Sys2Proof.Machine.execChReadctx sr s
  | .devReset sr => Sys2Proof.Machine.execDevReset sr s
  | .devResetBegin sr => Sys2Proof.Machine.execDevResetBegin sr s
  | .memWrite sr => Sys2Proof.Machine.execMemWrite sr s
  | .memRead sr => Sys2Proof.Machine.execMemRead sr s
  | .memFill sr => Sys2Proof.Machine.execMemFill sr s
  | .bankOwner sr => Sys2Proof.Machine.execBankOwner sr s
  | .memStatus sr => Sys2Proof.Machine.execMemStatus sr s
  | .memPpr sr => Sys2Proof.Machine.execMemPpr sr s
  | .xbPropose sr => Sys2Proof.Machine.execXbPropose sr s
  | .xbConfirm sr => Sys2Proof.Machine.execXbConfirm sr s
  | .crossBearingTimeout => Sys2Proof.Machine.execCrossBearingTimeout s
  | .xbStatus sr => Sys2Proof.Machine.execXbStatus sr s
  | .tlmRead sr => Sys2Proof.Machine.execTlmRead sr s
  | .tlmSnapshot sr => Sys2Proof.Machine.execTlmSnapshot sr s
  | .vcoreSet sr => Sys2Proof.Machine.execVcoreSet sr s
  | .lbFreeze sr => Sys2Proof.Machine.execLbFreeze sr s
  | .lbRead sr => Sys2Proof.Machine.execLbRead sr s
  | .lbClear sr => Sys2Proof.Machine.execLbClear sr s
  | .lbStatus sr => Sys2Proof.Machine.execLbStatus sr s
  | .fwWrite sr => Sys2Proof.Machine.execFwWrite sr s
  | .fwActivate sr => Sys2Proof.Machine.execFwActivate sr s
  | .fwInfo sr => Sys2Proof.Machine.execFwInfo sr s
  | .casStatus sr => Sys2Proof.Machine.execCasStatus sr s
  | .casSetrole sr => Sys2Proof.Machine.execCasSetrole sr s
  | .attMeas sr => Sys2Proof.Machine.execAttMeas sr s
  | .attCert sr => Sys2Proof.Machine.execAttCert sr s
  | .dbgHalt sr => Sys2Proof.Machine.execDbgHalt sr s
  | .dbgRelease sr => Sys2Proof.Machine.execDbgRelease sr s
  | .dbgPeek sr => Sys2Proof.Machine.execDbgPeek sr s
  | .forwardTimeout n => Sys2Proof.Machine.execForwardTimeout n s
  | .getVersion => Sys2Proof.Machine.execGetVersion s
  | .getCapabilities => Sys2Proof.Machine.execGetCapabilities s
  | .negotiateAlgorithms asymOk hashOk => Sys2Proof.Machine.execNegotiateAlgorithms asymOk hashOk s
  | .getDigests => Sys2Proof.Machine.execGetDigests s
  | .getCertificate slot offset len => Sys2Proof.Machine.execGetCertificate slot offset len s
  | .challenge slot nonce => Sys2Proof.Machine.execChallenge slot nonce s
  | .getMeasurements index nonce => Sys2Proof.Machine.execGetMeasurements index nonce s
  | .spdmUnsupportedRequest code => Sys2Proof.Machine.execSpdmUnsupportedRequest code s
  | .sensorSample temps rails power => Sys2Proof.Machine.execSensorSample temps rails power s
  | .stepRateSample readings => Sys2Proof.Machine.execStepRateSample readings s
  | .throttleStep up => Sys2Proof.Machine.execThrottleStep up s
  | .thermalTrip => Sys2Proof.Machine.execThermalTrip s
  | .regulatorFault readVout => Sys2Proof.Machine.execRegulatorFault readVout s
  | .binnacleWatchdogExpiry => Sys2Proof.Machine.execBinnacleWatchdogExpiry s
  | .bnmWdgkickWrite m v => Sys2Proof.Machine.execBnmWdgkickWrite m v s
  | .settingsRecordWrite ok => Sys2Proof.Machine.execSettingsRecordWrite ok s
  | .operatorCredential digits => Sys2Proof.Machine.execOperatorCredential digits s
  | .consoleLockExpiry => Sys2Proof.Machine.execConsoleLockExpiry s
  | .consolePartyExpiry => Sys2Proof.Machine.execConsolePartyExpiry s
  | .consoleLogout => Sys2Proof.Machine.execConsoleLogout s
  | .managementKeyLoad key => Sys2Proof.Machine.execManagementKeyLoad key s
  | .verifierProgram slot v => Sys2Proof.Machine.execVerifierProgram slot v s
  | .managementPacket port packet => Sys2Proof.Machine.execManagementPacket port packet s
  | .tamper sr => Sys2Proof.Machine.execTamper sr s
  | .lifeCycleReset => Sys2Proof.Machine.execLifeCycleReset s
  | .bar0Access a => Sys2Proof.Machine.execBar0Access a s
  | .bar4Access offset wdata be => Sys2Proof.Machine.execBar4Access offset wdata be s
  | .outboundCompletion tag r => Sys2Proof.Machine.execOutboundCompletion tag r s
  | .outboundCompletionTimeout tag => Sys2Proof.Machine.execOutboundCompletionTimeout tag s
  | .perst => Sys2Proof.Machine.execPerst s
  | .hotReset => Sys2Proof.Machine.execHotReset s
  | .functionLevelReset => Sys2Proof.Machine.execFunctionLevelReset s
  | .pcieLinkStateChange up speed width => Sys2Proof.Machine.execPcieLinkStateChange up speed width s
  | .frameReceive port f => Sys2Proof.Machine.execFrameReceive port f s
  | .widxAdvance port ring => Sys2Proof.Machine.execWidxAdvance port ring s
  | .nxRidxWrite m port ring v => Sys2Proof.Machine.execNxRidxWrite m port ring v s
  | .nxRingCfgWrite m port ring v => Sys2Proof.Machine.execNxRingCfgWrite m port ring v s
  | .nxCfgWrite m port v => Sys2Proof.Machine.execNxCfgWrite m port v s
  | .nxStatLowRead m port k => Sys2Proof.Machine.execNxStatLowRead m port k s
  | .frameTransmit port ptp => Sys2Proof.Machine.execFrameTransmit port ptp s
  | .ethernetLinkStateChange port up => Sys2Proof.Machine.execEthernetLinkStateChange port up s
  | .gptpMessage g => Sys2Proof.Machine.execGptpMessage g s
  | .timeSynchronisationLost => Sys2Proof.Machine.execTimeSynchronisationLost s
  | .chronometerAlarm k => Sys2Proof.Machine.execChronometerAlarm k s
  | .chrArmWrite m v => Sys2Proof.Machine.execChrArmWrite m v s
  | .chrTimelRead m => Sys2Proof.Machine.execChrTimelRead m s
  | .timerCompareMatch n => Sys2Proof.Machine.execTimerCompareMatch n s
  | .timerWrap n => Sys2Proof.Machine.execTimerWrap n s
  | .phaseReferenceCapture k falling => Sys2Proof.Machine.execPhaseReferenceCapture k falling s
  | .kpTslRead m k => Sys2Proof.Machine.execKpTslRead m k s
  | .gpioEdge k level => Sys2Proof.Machine.execGpioEdge k level s
  | .gpioSetWrite m v => Sys2Proof.Machine.execGpioSetWrite m v s
  | .gpioClrWrite m v => Sys2Proof.Machine.execGpioClrWrite m v s
  | .tripLatchWrite m v => Sys2Proof.Machine.execTripLatchWrite m v s
  | .tripClrWrite m v => Sys2Proof.Machine.execTripClrWrite m v s
  | .tripMaskWrite m v => Sys2Proof.Machine.execTripMaskWrite m v s
  | .tripHbkickWrite m v => Sys2Proof.Machine.execTripHbkickWrite m v s
  | .tripHbcfgWrite m v => Sys2Proof.Machine.execTripHbcfgWrite m v s
  | .heartbeatExpiry => Sys2Proof.Machine.execHeartbeatExpiry s
  | .heartbeatToggle => Sys2Proof.Machine.execHeartbeatToggle s
  | .smb1StatusRead => Sys2Proof.Machine.execSmb1StatusRead s
  | .smb1TemperatureRead => Sys2Proof.Machine.execSmb1TemperatureRead s
  | .smb1PowerRead => Sys2Proof.Machine.execSmb1PowerRead s
  | .smb1VcoreRead => Sys2Proof.Machine.execSmb1VcoreRead s
  | .smb1ResetCauseRead => Sys2Proof.Machine.execSmb1ResetCauseRead s
  | .flitAckNak q ack nak crcOk => Sys2Proof.Machine.execFlitAckNak q ack nak crcOk s
  | .replayTimeout q => Sys2Proof.Machine.execReplayTimeout q s
  | .kenridLinkStateChange q up width => Sys2Proof.Machine.execKenridLinkStateChange q up width s
  | .cascadeDiscovery q c dev peer => Sys2Proof.Machine.execCascadeDiscovery q c dev peer s
  | .cascadeReroute q dev => Sys2Proof.Machine.execCascadeReroute q dev s
  | .kenridMemoryRequest q pa len wdata atomic => Sys2Proof.Machine.execKenridMemoryRequest q pa len wdata atomic s
  | .kenridMemoryResponse tag r => Sys2Proof.Machine.execKenridMemoryResponse tag r s
  | .kenridCommandPacket q ring packet => Sys2Proof.Machine.execKenridCommandPacket q ring packet s
  | .kenridStatusPacket n status => Sys2Proof.Machine.execKenridStatusPacket n status s
  | .timeFlit q offset => Sys2Proof.Machine.execTimeFlit q offset s
  | .timeFlitSend => Sys2Proof.Machine.execTimeFlitSend s
  | .linkDelayMeasure q ns => Sys2Proof.Machine.execLinkDelayMeasure q ns s
  | .timeFlitLoss q => Sys2Proof.Machine.execTimeFlitLoss q s
  | .signalFlit q src kind value => Sys2Proof.Machine.execSignalFlit q src kind value s
  | .klSignalWrite m v => Sys2Proof.Machine.execKlSignalWrite m v s
  | .followerSummary d seqL seqH lost newer => Sys2Proof.Machine.execFollowerSummary d seqL seqH lost newer s
  | .logbookRecordWrite => Sys2Proof.Machine.execLogbookRecordWrite s
  | .recordWaitTimeout => Sys2Proof.Machine.execRecordWaitTimeout s
  | .lbFrzWrite m v => Sys2Proof.Machine.execLbFrzWrite m v s
  | .freezeTimeout => Sys2Proof.Machine.execFreezeTimeout s
  | .lbClearWrite m v => Sys2Proof.Machine.execLbClearWrite m v s
  | .lbSeqlRead m => Sys2Proof.Machine.execLbSeqlRead m s
  | .idcode => Sys2Proof.Machine.execIdcode s
  | .samplePreload bits => Sys2Proof.Machine.execSamplePreload bits s
  | .extest => Sys2Proof.Machine.execExtest s
  | .clamp => Sys2Proof.Machine.execClamp s
  | .highz => Sys2Proof.Machine.execHighz s
  | .bypass => Sys2Proof.Machine.execBypass s
  | .sxacc a => Sys2Proof.Machine.execSxacc a s
  | .sxHaltreqWrite m v => Sys2Proof.Machine.execSxHaltreqWrite m v s
  | .halt c => Sys2Proof.Machine.execHalt c s
  | .binnacleHalt => Sys2Proof.Machine.execBinnacleHalt s
  | .sxReleaseWrite m v => Sys2Proof.Machine.execSxReleaseWrite m v s
  | .sxFeedctlWrite m v => Sys2Proof.Machine.execSxFeedctlWrite m v s
  | .sxMdataAccess wdata => Sys2Proof.Machine.execSxMdataAccess wdata s
  | .sxDtxChannelWrite c v => Sys2Proof.Machine.execSxDtxChannelWrite c v s
  | .sxDtxSextantRead c => Sys2Proof.Machine.execSxDtxSextantRead c s
  | .sxDrxSextantWrite c v => Sys2Proof.Machine.execSxDrxSextantWrite c v s
  | .sxDrxChannelRead c => Sys2Proof.Machine.execSxDrxChannelRead c s
  | .powerOnReset brownOut => Sys2Proof.Machine.execPowerOnReset brownOut s
  | .brownOut r => Sys2Proof.Machine.execBrownOut r s
  | .sysrstN => Sys2Proof.Machine.execSysrstN s
  | .systemReset => Sys2Proof.Machine.execSystemReset s
  | .coreReset => Sys2Proof.Machine.execCoreReset s
  | .criticalError sr => Sys2Proof.Machine.execCriticalError sr s
  | .startUp lodestar => Sys2Proof.Machine.execStartUp lodestar s
  | .trainingComplete cfgs => Sys2Proof.Machine.execTrainingComplete cfgs s
  | .startTimeout => Sys2Proof.Machine.execStartTimeout s
  | .computeWatchdogExpiry => Sys2Proof.Machine.execComputeWatchdogExpiry s
  | .wdgKickWrite m v => Sys2Proof.Machine.execWdgKickWrite m v s
  | .wdgCfgWrite m v => Sys2Proof.Machine.execWdgCfgWrite m v s
  | .registerWrite m bar2 a => Sys2Proof.Machine.execRegisterWrite m bar2 a s
  | .configurationRequest register wdata => Sys2Proof.Machine.execConfigurationRequest register wdata s
  | .doeDiscovery index => Sys2Proof.Machine.execDoeDiscovery index s
  | .testLogicReset => Sys2Proof.Machine.execTestLogicReset s
  | .smb1UnsupportedCommand code => Sys2Proof.Machine.execSmb1UnsupportedCommand code s

end Sys2Proof.Machine
end

