-- ==== Sys2Proof/Machine/Tick.lean ====
section
/-! DEFINITION. One tick of the fabric, 1 ns, with no command (log 10): what counts, counts, and what has reached its end
does what its own command says. -/
namespace Sys2Proof.Machine

/-- The Chronometer: an offset is removed by one nanosecond more or less in 10,000 (R419). -/
def tickTime (s : State) : State :=
  let turn := s.ticks % 10000 == 0
  let step : Nat := if turn && 0 < s.ifc.slew then 2 else if turn && s.ifc.slew < 0 then 0 else 1
  let slew : Int := if turn && 0 < s.ifc.slew then s.ifc.slew - 1 else if turn && s.ifc.slew < 0 then s.ifc.slew + 1 else s.ifc.slew
  fireAlarms { s with time := s.time + BitVec.ofNat 64 step, ifc := { s.ifc with slew := slew } }

/-- A peripheral timer advances every 2^PS ticks (R421). -/
def tickTimer (s : State) (n : Fin 16) : State :=
  if !s.timerRuns n then s
  else
    let k := (s.ifc.tmrPre[n]) + 1
    let go := 2 ^ s.rfld (R.tmrCfg n) 7 4 ≤ k
    let s := { s with ifc := { s.ifc with tmrPre := s.ifc.tmrPre.set n (if go then 0 else k) } }
    if go then timerAdvance s n else s

/-- The guaranteed maximum of tSTEP at a set-point in mV, in picoseconds; below 760 mV there is none. Between the lines of
the table that of the lower voltage holds (R26, R27, R510, log 55). -/
def tStepMax (mv : Nat) : Option Nat :=
  if mv < 760 then none else if mv < 800 then some 1300 else if mv < 840 then some 1180
  else if mv < 880 then some 1070 else some 980

/-- Whether the hottest sensor lies above 105 °C, where no maximum of tSTEP is guaranteed (R378, R502). -/
def State.tooHot (s : State) : Bool := 105 * 16 < hottest s.bnm.sensors.temps

/-- tSTEP of a replica stage in this tick, in picoseconds: never below 550, nor, up to 105 °C, above the guaranteed maximum
(R26, R378, R524). -/
def State.tStep (s : State) (stage : Nat) : Nat :=
  let t := max 550 (Config.tStep stage s.ticks)
  if s.tooHot then t else ((tStepMax s.bnm.sensors.setpoint).map (min t)).getD t

/-- The steps of `t` picoseconds that a stage ends in a tick of 1,000, and the picoseconds spent then in the next: `r` of its
step it has spent before. A step that has already lasted longer ends at once, and the steps after it last `t`, so that none is
shorter than tSTEP ever is (R524). -/
def stepsOf (t r : Nat) : Nat × Nat :=
  if t ≤ r then (1 + 1000 / t, 1000 % t) else ((r + 1000) / t, (r + 1000) % t)

/-- The step counter of a channel, and the steps left of its window (R47, R270). On the Binnacle core a step lasts two
ticks (R370). -/
def tickChannel (s : State) (c : Chan) : State :=
  let ch := s.chan c
  if ¬ (ch.st = .running ∨ ch.st = .waiting) then s
  else
    let (k, r) := if c = bnmCore then (s.ticks % 2, 0) else stepsOf (s.tStep c.val) ch.inStep
    let s := if ch.preload = [] ∨ ch.mute then s else preloadFrom c ch.preload s
    let s := chanSteps c k (s.modChan c fun ch => { ch with inStep := r })
    match (s.chan c).window with
    | some w =>
      if k < w.left then s.modChan c fun ch => { ch with window := some ⟨w.left - k⟩ }
      else settle (closeWindow s c) c
    | none => s

/-- The step counter of a pipe: it counts, busy or idle, from the release of the compute domain on (R494). -/
def tickPipe (s : State) (p : Pipe) : State :=
  if s.rst.stage < 8 then s
  else
  let x := s.pipes[p]
  let (k, r) := stepsOf (s.tStep (16 + p.val)) x.inStep
  pipeSteps p k { s with pipes := s.pipes.set p { x with inStep := r } }

/-- Requests leave their bridges where the queue of their controller has room: 128 entries each, SMS_RESV of which only the
channels with SMS_PRIO = 1 may take (R29, R312). Those of other controllers are not held up. -/
def tickLoad (s : State) (c : Chan) (l : Load) : State :=
  let cap := if s.rbit R.smsPrio c.val then 128 else 128 - s.rfld R.smsResv 6 0
  if l.sent || !(l.via.all fun b => b = 8 || decide (s.inFlight true b + l.via.count b ≤ cap)) then s
  else s.modChan c fun ch => { ch with loads := ch.loads.map fun x => if x.id = l.id then { x with sent := true } else x }

/-- The request of a posted store that is ready enters its bridges where they have room, and leaves them where the queue of
its controller has (R29, R312). -/
def tickStore (s : State) (c : Chan) (idx : Nat) : State :=
  match (s.chan c).ready idx with
  | none => s
  | some (e, _) =>
    let cap := if s.rbit R.smsPrio c.val then 128 else 128 - s.rfld R.smsResv 6 0
    let via := e.crosses s c
    let put := fun (k : Nat) => s.modChan c fun ch => { ch with stq := modAt ch.stq idx fun x => { x with stage := k, via := via } }
    if e.stage = 0 then (if s.room via then put 1 else s)
    else if e.stage = 1 ∧ via.all (fun b => b = 8 || decide (s.inFlight true b + via.count b ≤ cap)) = true then put 2
    else s

/-- The requests of one channel, oldest first. -/
def tickBridges (s : State) (c : Chan) : State :=
  (List.range 8).foldl (fun s i => tickStore s c i) ((s.chan c).loads.foldl (fun s l => tickLoad s c l) s)

/-- The set-point of VDD_CORE moves to its goal by at most 5 mV, no more often than once in a microsecond; after a regulator
fault it takes no downward step (R28, R375). -/
def tickVolt (s : State) : State :=
  let x := s.bnm.sensors
  if x.setpoint = x.goal ∨ s.ticks < x.stepAt + 1000 ∨ (x.fault = true ∧ x.goal < x.setpoint) then s
  else
    let v := if x.setpoint < x.goal then min x.goal (x.setpoint + 5) else max x.goal (x.setpoint - 5)
    { s with bnm := { s.bnm with sensors := { x with setpoint := v, stepAt := s.ticks } } }

/-- The watchdogs, the lockup delay and the limit of a start (R277, R397, R474, R480). -/
def tickWatchdogs (s : State) : State :=
  let s := if s.cwdgCounts && s.rst.cwdg != 0 then
      let t : State := { s with rst := { s.rst with cwdg := s.rst.cwdg - 1 } }
      if t.rst.cwdg = 0 then computeWatchdog t else t else s
  let s := if s.bwdgCounts && s.bnm.wdg != 0 then
      let t : State := { s with bnm := { s.bnm with wdg := s.bnm.wdg - 1 } }
      if t.bnm.wdg = 0 then binnacleWatchdog t else t else s
  let s := match s.rst.lockup with
    | some 0 => lockupDelayExpiry s
    | some (n + 1) => { s with rst := { s.rst with lockup := some n } }
    | none => s
  let s : State := { s with rst := { s.rst with since := s.rst.since + 1 } }
  if s.rst.since = 5000000000 then startTimeout s else s

/-- The supervision of the heartbeat and its toggle every 250 µs (R426). -/
def tickHeartbeat (s : State) : State :=
  if !s.tripsRun then s
  else
    let s : State := { s with ifc := { s.ifc with hbCnt := s.ifc.hbCnt + 1, hbPhase := s.ifc.hbPhase + 1 } }
    let s := if s.ifc.hbCnt = s.rfld R.tripHbcfg 15 0 * 1000 then heartbeatExpiry s else s
    if 250000 ≤ s.ifc.hbPhase then heartbeatToggle s else s

/-- The default target answers the captures that named an offset in no block (R305, R311, R446). -/
def tickStray (s : State) : State :=
  s.log.stray.foldl (fun s o => defaultAnswer s .rst (0x900000000000 + o) false) { s with log := { s.log with stray := [] } }

/-- A freeze that has lasted FRZMAX (R451). -/
def tickFreeze (s : State) : State :=
  if frozen s && s.log.frzAt + msTicks * s.rfld R.lbCfg 9 0 ≤ s.ticks then freezeTimeout s else s

/-- The console's lock and its time as party 3 end, and a proposal that has not been confirmed in two seconds (R302, R383). -/
def tickConsole (s : State) : State := expireProposal (consoleUnlock (consoleEnd s))

/-- One tick. While a reset is held only the tick itself passes. -/
def tick (s : State) : State :=
  let s := { s with ticks := s.ticks + 1 }
  if s.rst.hold.isSome then s
  else
    let s := tickFreeze (tickHeartbeat (tickWatchdogs (tickTime (tickVolt (tickStray s)))))
    let s := (List.finRange 16).foldl tickTimer s
    let s := channels.foldl tickBridges s
    feedRetry <| sxRetry <| startWaiting (tickConsole ((List.finRange 32).foldl tickPipe ((List.finRange 17).foldl tickChannel s)))

end Sys2Proof.Machine
end

