-- ==== Sys2Proof/Safety.lean ====
section
/-! DEFINITION. What a safe step is, the canonical form that memories and registers keep, and the terms in which the
statements speak: when an instruction executes, and what a command leaves unchanged. -/
namespace Sys2Proof.Machine

/-- A step that answers a next state. -/
def Goes (o : Host.Outcome State Fault Refusal) : Prop := ∃ s, o = .next s

/-- Every sparse list of the state is in canonical form (State): keys rise, and no entry equals the default. -/
def State.canon (s : State) : Bool :=
  Memory.wf s.mem && Memory.wf s.host && canonB regPor s.regs

/-! ### Scalar instructions -/

/-- Bytes of an instruction, prefixes counted. -/
def Scalar.bytes (i : Scalar) : Nat := prefixBytes i.p + i.len

/-- The instruction executes on channel `c` (R38, R48, R49, R55, R56, R71, R80-R82, R104, R370, R523): the channel decodes,
no store error is due, the bytes can be fetched and leave `s1`, no chain group is open, the encoding is legal there, the
mode permits it, and its operands are there. -/
structure Ready (s s1 : State) (c : Chan) (i : Scalar) : Prop where
  decodes  : (s.chan c).decodes = true
  noError  : (s.chan c).impr = []
  fetched  : fetch s c i.bytes = (.ok, s1)
  noGroup  : (s.chan c).group = none
  prefixes : i.prefixOk = true
  legal    : i.legal = true
  here     : i.ledger = true → c ≠ bnmCore
  mode     : (s.chan c).sup = true ∨ (i.priv = false ∧ i.p.key = false)
  operands : (s.chan c).mustWait i = false

/-- The state in which an instruction that executes takes effect: SRP and LRS are cleared, a Ledger context that a
handler left is discarded unless `keep`, and one provisional instruction more is counted (R80, R89, R237). -/
def decoded (s1 : State) (c : Chan) (keep : Bool) : State := (clearResume s1 c keep).modChan c Channel.countYounger

/-- The address of the instruction after one of these bytes. -/
def nextPc (s : State) (c : Chan) (i : Scalar) : Word := (s.chan c).pc + BitVec.ofNat 32 i.bytes

/-! ### Frames -/

/-- `t` differs from `s` in channel `c` alone: memory, host memory, every control-space word, the Logbook, the other
channels and everything else of the device are as before. -/
def OnlyChan (c : Chan) (s t : State) : Prop := t = { s with chans := s.chans.set c (t.chan c) }

/-- What an instruction that works on registers may change of its channel beside what `RegEffect` names: the pc, the
loop counters (R69) and the loads that no longer reach a register written over (R56). -/
def RegOnly (a b : Channel) : Prop :=
  b = { a with g := b.g, csw := b.csw, pc := b.pc, loads := b.loads, lpst := b.lpst, lpc := b.lpc }

/-- Channel `b` is where `a` goes on at the address `next`, the loop-end step included (R69). -/
def GoesTo (a b : Channel) (next : Word) : Prop :=
  b.pc = (a.goTo next).pc ∧ b.lpst = (a.goTo next).lpst ∧ b.lpc = (a.goTo next).lpc

/-- The effect of an instruction whose destination is Gd: the value, the CSW, the next address, and nothing else. -/
structure RegEffect (c : Chan) (s t : State) (next : Word) (d : Reg) (v csw : Word) : Prop where
  value  : (t.chan c).rg d = v
  others : ∀ r, r ≠ d → (t.chan c).rg r = (s.chan c).rg r
  status : (t.chan c).csw = csw
  goes   : GoesTo (s.chan c) (t.chan c) next
  rest   : RegOnly (s.chan c) (t.chan c)
  only   : OnlyChan c s t
  memory : ∀ a, t.byte a = s.byte a

/-- The effect of an instruction that writes no G register: the CSW, the next address, and nothing else. -/
structure FlagEffect (c : Chan) (s t : State) (next : Word) (csw : Word) : Prop where
  regs   : (t.chan c).g = (s.chan c).g
  status : (t.chan c).csw = csw
  goes   : GoesTo (s.chan c) (t.chan c) next
  rest   : RegOnly (s.chan c) (t.chan c)
  only   : OnlyChan c s t
  memory : ∀ a, t.byte a = s.byte a

/-- `w` with C, V, Z and N, each where it is given (R41, R181). -/
def flagged (w : Word) (c v z n : Option Bool) : Word := setFlag (setFlag (setFlag (setFlag w 0 c) 1 v) 2 z) 3 n

/-- `w` with Z and N of a value. -/
def flaggedZN (w : Word) (val : Word) (c v : Option Bool) : Word :=
  flagged w c v (some (val == 0)) (some (val.getLsbD 31))

/-! ### Exceptions -/

/-- Channel `c` of `s` can take an exception at once (R57, R85, R270, R359, R465): no stream instruction is unretired, no
load of its own is out of the device, no window is open, no stop or quiesce waits, and the Sextant feeds nothing. -/
structure TakesNow (s : State) (c : Chan) : Prop where
  alone  : (s.chan c).slots = []
  group  : (s.chan c).group = none
  loads  : (s.chan c).remotes = []
  window : (s.chan c).window = none
  req    : (s.chan c).req ≠ some .quiesce ∧ (s.chan c).req ≠ some .stop
  fed    : (s.chan c).fed = false

/-- The boundary at which an exception is taken: outstanding loads have delivered (R57), the pc to stack is `pc`, and
the record of R269 names the exception. -/
def boundary (s : State) (c : Chan) (x : Exc) (pc : Word) : State :=
  s.modChan c fun ch => (({ ch with pc := pc }.deliverAll).record x).setCsw 20 false

/-- The entry to vector `v` from `s` passes its checks (R252, R253, R266): the vector entry is `l`, the frame lies below
`base`, and `t` is the state once the eight frame words are written. -/
structure EntryOk (s : State) (c : Chan) (v : Nat) (l : List Byte) (base : Word) (t : State) : Prop where
  passes : ∃ s2 s3 ps, vectorEntry s c v = (.ok l, s2) ∧
    base = (if fld (leAt l 4 4) 12 12 = 1 ∧ ¬ (s2.chan c).sup then BitVec.ofNat 32 (leAt l 8 4) else (s2.chan c).rg 15) ∧
    checkFrame s2 c base (BitVec.ofNat 4 (fld (leAt l 4 4) 19 16)) = (.ok ps, s3) ∧
    writeSure s3 c (split (base.toNat - 32) 32) (cutPieces ps ((frameWords (s2.chan c)).flatMap wordBytes)) = (.ok, t)

/-- What entry leaves (R267, R270): the handler's pc, the CSW, G15, LPST, no reservation, an empty fetch buffer, the
window, and nothing else changed since the frame was written. -/
structure Entered (c : Chan) (t r : State) (l : List Byte) (base csw : Word) : Prop where
  only   : OnlyChan c t r
  pc     : (r.chan c).pc = BitVec.ofNat 32 (leAt l 0 4)
  status : (r.chan c).csw = csw
  sp     : (r.chan c).rg 15 = base - 32
  others : ∀ k, k ≠ 15 → (r.chan c).rg k = (t.chan c).rg k
  lpst   : (r.chan c).lpst = 0
  resv   : (r.chan c).resv = none
  rest   : (r.chan c) = { t.chan c with pc := (r.chan c).pc, csw := (r.chan c).csw, g := (r.chan c).g,
                                        loads := (r.chan c).loads, lpst := 0, resv := none, fbuf := [],
                                        window := (r.chan c).window, heldOff := (r.chan c).heldOff }

/-- The register block of a channel after any reset (R40-R47): every register but PMASK and WEIGHT, which the retained store
gives back after the lesser ones (R470), at its power-on value, and nothing in flight. -/
structure BlockReset (ch : Channel) : Prop where
  state  : ch.st = .stopped ∧ ch.slots = [] ∧ ch.drains = [] ∧ ch.resv = none ∧ ch.loads = [] ∧ ch.wait = .none
  status : ch.csw = 0x1000 ∧ ch.fsw = 0
  counts : ch.pc = 0 ∧ ch.wm = 0 ∧ ch.sc = 0 ∧ ch.vl = 0
  stack  : ch.slim = 0 ∧ ch.lsav = 0 ∧ ch.vbar = 0
  loops  : ch.lpst = 0 ∧ ∀ k : Fin 4, ch.lps[k] = 0 ∧ ch.lpe[k] = 0 ∧ ch.lpc[k] = 0
  steps  : ch.steps = 0 ∧ ch.stepsH = 0 ∧ ch.wraps = 0

/-! ### Memory -/

/-- The key byte that an access to `pa` marks (R286, R288). -/
def State.keyByte (s : State) (pa : Nat) : Nat := s.ktBase + pa / 4096

/-- From `s` to `t` the bytes at `pa` become `bs`, and every other byte of memory stays, but for the USED and DIRTY bits of
the frame's key byte, which are set before (R288). -/
structure Stores (s t : State) (pa : Nat) (bs : List Byte) : Prop where
  wrote : ∀ i, i < bs.length → t.byte (pa + i) = bs.getD i 0
  kept  : ∀ a, a < pa ∨ pa + bs.length ≤ a → a ≠ s.keyByte pa → t.byte a = s.byte a

/-- An access of `n` bytes at `e` passes its checks in one line of memory that can be written, at `pa`, with no poison; `s2`
is the state the checks leave. -/
structure OneLine (s s2 : State) (c : Chan) (how : How) (e : Word) (n pa : Nat) : Prop where
  passes : checkAccess s c how e.toNat n = (.ok [(pa, n)], s2)
  memory : s2.inMemory pa = true ∧ ∀ o, s2.target pa ≠ .rom o
  clean  : s2.anyPoison pa n = false
  sealed : s2.seals = []

/-- A load issued with these destinations (R29, R56): it is outstanding under a number of its own, its requests stand in
the bridges they cross, the channel goes on, and no register has changed yet. -/
structure Issued (c : Chan) (s t : State) (via : List (Fin 9)) (dsts : List LDst) : Prop where
  only : OnlyChan c s t
  load : (t.chan c).loads.getLast? = some ⟨(s.chan c).nextId, dsts, via, false⟩
  regs : (t.chan c).d = (s.chan c).d ∧ (t.chan c).csw = (s.chan c).csw
  rest : (t.chan c) = { s.chan c with g := (t.chan c).g, loads := (t.chan c).loads, nextId := (s.chan c).nextId + 1,
                                      pc := (t.chan c).pc, lpst := (t.chan c).lpst, lpc := (t.chan c).lpc }

/-- Four bytes of memory as a word (R7). -/
def State.word (s : State) (pa : Nat) : Word := s.byte (pa + 3) ++ s.byte (pa + 2) ++ s.byte (pa + 1) ++ s.byte pa

/-! ### Stream instructions -/

/-- The channel, the prefixes, the operation and the encoded fields of a stream, register-form or signal instruction
(R152). -/
def streamOf : Instr → Option (Chan × Prefixes × SOp × SFields)
  | .mandMorMxor c p op o => some (c, p, .mlogic op, .ofS o)
  | .mnot c p o => some (c, p, .mnot, .ofS o)
  | .vld c p o => some (c, p, .vld, .ofS o)
  | .vst c p o => some (c, p, .vst, .ofS o)
  | .streamAddSub c p sub o => some (c, p, .addSub sub, .ofS o)
  | .streamMul c p o => some (c, p, .mul, .ofS o)
  | .streamMulhMulhu c p uns o => some (c, p, .mulh uns, .ofS o)
  | .streamDivRem c p op o => some (c, p, .div op, .ofS o)
  | .streamAndOrXor c p op o => some (c, p, .logic op, .ofS o)
  | .streamShlShrSar c p op o => some (c, p, .shift op, .ofS o)
  | .minMinuMaxMaxu c p op o => some (c, p, .minmax op, .ofS o)
  | .absNeg c p neg o => some (c, p, .absNeg neg, .ofS o)
  | .streamMov c p o => some (c, p, .mov, .ofS o)
  | .faddFsub c p sub o => some (c, p, .fadd sub, .ofS o)
  | .fmul c p o => some (c, p, .fmul, .ofS o)
  | .fdiv c p o => some (c, p, .fdiv, .ofS o)
  | .fma c p o => some (c, p, .fma, .ofS o)
  | .fminFmax c p isMax o => some (c, p, .fminmax isMax, .ofS o)
  | .fabs c p o => some (c, p, .fabs, .ofS o)
  | .fneg c p o => some (c, p, .fneg, .ofS o)
  | .fsqrt c p o => some (c, p, .fsqrt, .ofS o)
  | .cmul c p o => some (c, p, .cmul false, .ofS o)
  | .cmulc c p o => some (c, p, .cmul true, .ofS o)
  | .daddDsub c p sub o => some (c, p, .dadd sub, .ofS o)
  | .streamCmp c p o => some (c, p, .cmp, .ofS o)
  | .fcmp c p o => some (c, p, .fcmp, .ofS o)
  | .dcmp c p o => some (c, p, .dcmp, .ofS o)
  | .sel c p o => some (c, p, .sel, .ofS o)
  | .cvt c p o => some (c, p, .cvt, .ofS o)
  | .rsum c p o => some (c, p, .rsum, .ofS o)
  | .rminRmaxRminuRmaxu c p op o => some (c, p, .rminmax op, .ofS o)
  | .rcnt c p o => some (c, p, .rcnt, .ofS o)
  | .frsum c p o => some (c, p, .frsum, .ofS o)
  | .frminFrmax c p isMax o => some (c, p, .frminmax isMax, .ofS o)
  | .frssq c p o => some (c, p, .frssq, .ofS o)
  | .drsum c p o => some (c, p, .drsum, .ofS o)
  | .scan c p o => some (c, p, .scan, .ofS o)
  | .fscan c p o => some (c, p, .fscan, .ofS o)
  | .wmul c p o => some (c, p, .wmul, .ofT o)
  | .mag c p o => some (c, p, .mag, .ofS o)
  | .fft c p o => some (c, p, .fft, .ofT o)
  | .bpow c p o => some (c, p, .bpow, .ofT o)
  | .env c p o => some (c, p, .env, .ofT o)
  | _ => none

/-- The members of the open chain group (R104). -/
def Channel.opened (ch : Channel) : List Member := (ch.group.map (·.members)).getD []

/-- The member that an encoding decodes to, with the TYPE that an open group relays; none where it is illegal. -/
def Channel.memberOf (ch : Channel) (p : Prefixes) (op : SOp) (f : SFields) : Option Member :=
  if f.vec then (if ch.opened.isEmpty then memberF9 ch p op f else none)
  else memberF8 ch p op f (ch.opened.getLast?.map (·.rty))

/-- Elements of an instruction: those of the open group, else VL for a register form, else SC (R74). -/
def Channel.elements (ch : Channel) (f : SFields) : Nat :=
  (ch.group.map (·.count)).getD (if f.vec then ch.vl else ch.sc.toNat)

/-- What a decoded instruction asks of its slot (R74, R89). -/
def Channel.request (ch : Channel) (p : Prefixes) (f : SFields) (m : Member) : SlotReq :=
  ⟨m, f.vec, ch.elements f, ch.maskOf p, p.mask.map fun b => ⟨b.toNat % 8, by omega⟩, p.ord, p.chain,
    prefixBytes p + f.len, if ch.srp then ch.wm.toNat else 0⟩

/-- The stream instruction decodes on channel `c` to member `m` (R49, R56, R77, R82, R104, R113, R117, R151, R166, R167,
R370, R523): nothing is due or waited for, its bytes can be fetched and leave `s1`, its encoding is legal, the mode permits
it, and a pipe is in PMASK. -/
structure StreamReady (s s1 : State) (c : Chan) (p : Prefixes) (op : SOp) (f : SFields) (m : Member) : Prop where
  core     : c ≠ bnmCore
  decodes  : (s.chan c).decodes = true
  loads    : (s.chan c).remotes = []
  noError  : (s.chan c).impr = []
  fetched  : fetch s c (prefixBytes p + f.len) = (.ok, s1)
  prefixes : streamPrefixes p f op (s1.chan c).opened.length = true
  operands : (s1.chan c).waitsOperands op f = false ∧ (s1.chan c).waitsMask p = false
  legal    : (s1.chan c).memberOf p op f = some m
  angles   : angles ((s1.chan c).opened ++ [m]) ≤ 1
  whole    : p.chain = false → wholeOk ((s1.chan c).opened ++ [m]) ((s1.chan c).elements f) = true
  mode     : p.key = true → (s1.chan c).sup = true
  pipes    : p.chain = false → (s1.chan c).pmask ≠ 0

/-- From `s` to `t` the decoded instruction has taken its slot (R74, R89, R104, R237): a new one with what it captures, or
its place in the open group; CSW.SRP and CSW.LRS are cleared, WM is 0 if SRP was 1, and registers and memory stay. -/
structure TookSlot (c : Chan) (s t : State) (r : SlotReq) : Prop where
  only   : OnlyChan c (if (s.chan c).lrs then freeContext s c else s) t
  slot   : ∃ sl : Slot, sl.members = (s.chan c).opened ++ [r.mem] ∧ sl.mask = r.mask ∧ sl.maskReg = r.maskReg ∧
    (t.chan c).group = (if r.chain then some sl else none) ∧
    (t.chan c).slots = (s.chan c).slots ++ (if r.chain then [] else [sl]) ∧
    (∀ g, (s.chan c).group = some g → sl.sid = g.sid ∧ sl.count = g.count ∧ sl.rm = g.rm ∧ sl.snap = g.snap) ∧
    ((s.chan c).group = none → sl.sid = (s.chan c).nextSid ∧ sl.vec = r.vec ∧ sl.count = r.count ∧ sl.start = r.start ∧
      sl.rm = (s.chan c).fsw.extractLsb' 8 2 ∧ sl.ftz = bit (s.chan c).fsw 10 ∧ sl.tdz = (s.chan c).tdz ∧
      sl.sup = (s.chan c).sup ∧ sl.snap = (s.chan c).snap ∧ sl.started = false ∧ sl.elems = [])
  status : (t.chan c).csw = wbit (wbit (s.chan c).csw 19 false) 18 false
  mark   : (t.chan c).wm = if (s.chan c).srp then 0 else (s.chan c).wm
  goes   : (t.chan c).wait = .none
  regs   : (t.chan c).g = (s.chan c).g ∧ (t.chan c).d = (s.chan c).d ∧ (t.chan c).v = (s.chan c).v ∧
    (t.chan c).m = (s.chan c).m ∧ (t.chan c).fsw = (s.chan c).fsw ∧ (t.chan c).sc = (s.chan c).sc ∧
    (t.chan c).vl = (s.chan c).vl
  memory : ∀ a, t.byte a = s.byte a

/-- A pipe that was free in `s` runs strip `k` of slot `sid` of channel `d` in `t`. -/
def Took (s t : State) (p : Pipe) (d : Chan) (sid k : Nat) : Prop :=
  s.pipes[p].work = none ∧ t.pipes[p].work = some (d, sid, k)

/-- From `s` to `t` every free pipe has taken a strip if there is one for it, and nothing else has changed (R18, R21); slot
`sid` of channel `d` has given away `n d sid` strips. A busy pipe keeps its work. Each slot has moved on by the strips taken
from it, its WM past their masked-off elements alone (`Slot.dispatch`, R148). A strip is taken for a channel whose PMASK has
the pipe; those of a slot are taken in ascending order from its old next strip on, every one of them once. A pipe that is
still free has no strip to take in any channel whose PMASK has it. -/
structure Assignment (s t : State) (n : Chan → Nat → Nat) : Prop where
  busy   : ∀ (p : Pipe) w, s.pipes[p].work = some w → t.pipes[p].work = some w
  slots  : ∀ d, (t.chan d).slots = (s.chan d).slots.map fun x => Nat.repeat Slot.dispatch (n d x.sid) x
  taken  : ∀ (p : Pipe) d sid k, Took s t p d sid k →
    bit (s.chan d).pmask p.val = true ∧ (s.chan d).mute = false ∧ ∃ sl ∈ (s.chan d).slots, sl.sid = sid
  order  : ∀ d, ((s.chan d).slots.map (·.sid)).Nodup → ∀ sl ∈ (s.chan d).slots, ∀ k,
    (∃ p, Took s t p d sl.sid k) ↔ sl.next ≤ k ∧ k < sl.next + n d sl.sid
  once   : ∀ d, ((s.chan d).slots.map (·.sid)).Nodup → ∀ (p q : Pipe) sid k, Took s t p d sid k → Took s t q d sid k → p = q
  full   : ∀ (p : Pipe) d, d ≠ bnmCore → t.pipes[p].work = none → bit (s.chan d).pmask p.val = true →
    (s.chan d).mute = false → ∀ sl ∈ (t.chan d).slots, sl.ready (t.working d sl.sid) = false
  rest   : ∀ d, { t.chan d with slots := (s.chan d).slots } = s.chan d
  only   : t = { s with chans := t.chans, pipes := t.pipes }
  memory : ∀ a, t.byte a = s.byte a

/-- The free pipes take strips. -/
def Assigned (s t : State) : Prop := ∃ n, Assignment s t n

/-! ### Ledger instructions -/

/-- A Ledger instruction at its decode: alone in its channel, and its context stands (R210, R237). -/
def ledgerScalar (p : Prefixes) (len : Nat) : Scalar := { p := p, len := len, keyOk := true, alone := true, ledger := true }

/-- The channel, the decode and the fields of a Ledger instruction (R217, R218). -/
def ledgerOf : Instr → Option (Chan × Scalar × LIns)
  | .padd c p d a l1 l2 =>
    some (c, { ledgerScalar p 5 with legal := l1Ok l1 && l2Ok l2 && true, reads := [d, a] },
      lins 0x00 d a 0 l1 l2 0)
  | .psub c p d a l1 l2 =>
    some (c, { ledgerScalar p 5 with legal := l1Ok l1 && l2Ok l2 && true, reads := [d, a] },
      lins 0x01 d a 0 l1 l2 0)
  | .pset c p d a l1 l2 =>
    some (c, { ledgerScalar p 5 with legal := l1Ok l1 && l2Ok l2 && true, reads := [d, a] },
      lins 0x02 d a 0 l1 l2 0)
  | .pcmp c p d a l1 l2 =>
    some (c, { ledgerScalar p 5 with legal := l1Ok l1 && l2Ok l2 && (!tov l1), reads := [d, a] },
      lins 0x03 d a 0 l1 l2 0)
  | .pmul c p d a l1 l2 =>
    some (c, { ledgerScalar p 5 with legal := l1Ok l1 && l2Ok l2 && (shortSecond l1 l2), reads := [d, a] },
      lins 0x04 d a 0 l1 l2 0)
  | .pdiv c p d a m l1 l2 l3 =>
    some (c, { ledgerScalar p 7 with legal := (l1Ok l1 && l2Ok l2 && l2Ok l3 && shortSecond l1 l2), reads := [d, a, m] },
      lins 0x05 d a m l1 l2 l3)
  | .pscl c p d l1 s rnd =>
    some (c, { ledgerScalar p 6 with legal := (l1Ok l1 && -63 ≤ signed 8 s.toNat && signed 8 s.toNat ≤ 63 && rnd.toNat ≤ 5), reads := [d] },
      lins 0x06 d 0 0 l1 s rnd)
  | .pcvb c p d a l1 =>
    some (c, { ledgerScalar p 4 with legal := (lbOk l1 d), reads := [a] },
      lins 0x08 d a 0 l1 0 0)
  | .pcvd c p d a l1 =>
    some (c, { ledgerScalar p 4 with legal := (lbOk l1 a), reads := ([d, a] ++ if l1.getLsbD 6 then [nextReg a] else []) },
      lins 0x09 d a 0 l1 0 0)
  | .pack c p d a lpk lzn =>
    some (c, { ledgerScalar p 5 with legal := (lzOk lpk lzn), reads := [d, a] },
      lins 0x0A d a 0 lpk lzn 0)
  | .unpk c p d a lpk lzn =>
    some (c, { ledgerScalar p 5 with legal := (lzOk lpk lzn && (!lzn.getLsbD 6 || 1 ≤ lzn.toNat % 64)), reads := [d, a] },
      lins 0x0B d a 0 lpk lzn 0)
  | .mvl c p d a x =>
    some (c, { ledgerScalar p 4 with legal := (evenReg d && evenReg a), reads := (pair d ++ pair a) },
      lins 0x10 d a 0 x 0 0)
  | .cll c p d a x =>
    some (c, { ledgerScalar p 4 with legal := (evenReg d && evenReg a), reads := (pair d ++ pair a) },
      lins 0x11 d a 0 x 0 0)
  | .trl c p d a x =>
    some (c, { ledgerScalar p 4 with legal := (evenReg d && x == 0), reads := (pair d ++ [a]) },
      lins 0x12 d a 0 x 0 0)
  | .trtl c p d a f k =>
    some (c, { ledgerScalar p 5 with legal := (evenReg d && f != d && f != nextReg d && k != 0), reads := (pair d ++ [a]) },
      lins 0x13 d a f k 0 0)
  | .edit c p d a m f =>
    some (c, { ledgerScalar p 5 with legal := (evenReg d && m == 0), reads := (pair d ++ [a]) },
      lins 0x18 d a m f 0 0)
  | .edtm c p d a m f =>
    some (c, { ledgerScalar p 5 with legal := (evenReg d && m != d && m != nextReg d && m != a), reads := (pair d ++ [a]) },
      lins 0x19 d a m f 0 0)
  | .lpin c p =>
    some (c, { ledgerScalar p 2 with legal := true, reads := [], keyOk := false, priv := true },
      lins 0x20 0 0 0 0 0 0)
  | .lunpin c p =>
    some (c, { ledgerScalar p 2 with legal := true, reads := [], keyOk := false, priv := true },
      lins 0x21 0 0 0 0 0 0)
  | _ => none

/-- Two states in which registers and memory that programs see are the same: every channel's G, D, V and M registers, CSW,
FSW and pc, and every byte of memory. -/
structure SameProgram (s t : State) : Prop where
  g      : ∀ c, (t.chan c).g = (s.chan c).g
  d      : ∀ c, (t.chan c).d = (s.chan c).d
  v      : ∀ c, (t.chan c).v = (s.chan c).v
  m      : ∀ c, (t.chan c).m = (s.chan c).m
  csw    : ∀ c, (t.chan c).csw = (s.chan c).csw
  fsw    : ∀ c, (t.chan c).fsw = (s.chan c).fsw
  pc     : ∀ c, (t.chan c).pc = (s.chan c).pc
  memory : ∀ a, t.byte a = s.byte a

/-! ### The device beside its channels -/

/-- `t` differs from `s` in neither a channel nor a byte of DRAM and chart memory. -/
structure DeviceOnly (s t : State) : Prop where
  chans  : t.chans = s.chans
  memory : t.mem = s.mem

/-- Every stored control-space word but those at `os` is as before. -/
def RegsBut (os : List Nat) (s t : State) : Prop := ∀ o, o ∉ os → t.reg o = s.reg o

/-- The Sextant acts only while DBGEN is 1 (R458); every other master always does. -/
def debugOk (s : State) (m : Master) : Prop := m = .sextant → s.rbit R.bnmLcs 8 = true

/-- `new` in the bits of `mask`, `old` elsewhere (R9, R11). -/
def masked (mask old new : Word) : Word := (old &&& ~~~ mask) ||| (new &&& mask)

/-- A channel of `t` differs from that of `s` at most in its reservation (R65, R327). -/
def ResvOnly (s t : State) : Prop := ∀ c, { t.chan c with resv := (s.chan c).resv } = s.chan c

/-- From `s` to `t` the bytes at `pa` become `bs`, every other byte of memory stays, and channels lose at most their
reservations. -/
structure Puts (s t : State) (pa : Nat) (bs : List Byte) : Prop where
  wrote : ∀ i, i < bs.length → t.byte (pa + i) = bs.getD i 0
  kept  : ∀ a, a < pa ∨ pa + bs.length ≤ a → t.byte a = s.byte a
  chans : ResvOnly s t

/-- From `s` to `t` the bytes from `lo` to `hi` become 0, every other byte of memory stays, and channels lose at most their
reservations. -/
structure Zeroes (s t : State) (lo hi : Nat) : Prop where
  zero  : ∀ a, lo ≤ a → a < hi → t.byte a = 0
  kept  : ∀ a, a < lo ∨ hi ≤ a → t.byte a = s.byte a
  chans : ResvOnly s t

/-- A counter raised by one, which saturates (R493). -/
def raised (w : Word) : Word := if w = 0xFFFFFFFF then 0xFFFFFFFF else w + 1

/-- The command of a source is packet `p` with opcode `op`, started and not ended (R351): it waits for nothing, it has not
been sent to another device, and the Binnacle runs or the fast path took it (R364, R461). -/
structure Runs (s : State) (src : CmdSrc) (op : Nat) (p : Packet) : Prop where
  run    : ∃ r, s.running src = some r ∧ r.pkt = p ∧ r.final = none ∧ r.waits = none ∧
    (s.bnm.halted = false ∨ r.fast = true)
  opcode : p.opcode = op
  here   : ∀ n, src = .ring n → (s.cmds.rings[n]).fwd = none

/-! ### Resets -/

/-- The request that stands once a reset of a level, with a cause and a CRIT code, has been requested: it joins one that
stands already, with the higher level and every cause bit (R473). -/
def joined (old : Option ResetReq) (lvl : Level) (cause crit : Nat) : ResetReq :=
  match old with
  | none => ⟨lvl, 2 ^ cause, crit, crit == 6⟩
  | some r => ⟨if lvl.code < r.level.code then lvl else r.level, r.bits ||| 2 ^ cause, if r.crit = 0 then crit else r.crit,
      r.lost || crit == 6⟩

/-- `s` with a reset requested, and nothing else changed. -/
def asked (s : State) (lvl : Level) (cause crit : Nat) : State :=
  { s with rst := { s.rst with req := some (joined s.rst.req lvl cause crit) } }

/-- While a reset is held, a further cause sets its bit of RST_CAUSE and changes no other register (R473). -/
structure Latched (s t : State) (cause : Nat) : Prop where
  only  : t = { s with regs := t.regs }
  regs  : RegsBut [R.rstCause] s t
  cause : t.rbit R.rstCause cause = true

end Sys2Proof.Machine
end

