-- ==== Sys2Proof/Certificates/Slice0/Obligations.lean ====
section
/-! DEFINITION. The statements for the provers. A statement says of the commands it names where they complete: the
state that `exec` answers, and what that state leaves unchanged. -/
open Sys2Proof Sys2Proof.Machine

/-- A step on a queue that is not empty is the effect of the command at its front on the state with the rest of the
queue. On an empty queue one tick of 1 ns passes (the model's choice, log 10): the tick count rises by one, and while
a reset is held nothing else happens. -/
def Obligations.StepRunsTheFrontCommand : Prop :=
  (∀ (s : State) (c : Instr) (rest : List Instr),
    step { s with pending := c :: rest } = exec c { s with pending := rest }) ∧
  (∀ s : State, s.pending = [] → ∃ t, step s = .next t ∧ t.pending = [] ∧ t.ticks = s.ticks + 1 ∧
    (s.rst.hold.isSome = true → t = { s with ticks := s.ticks + 1 }) ∧
    (s.rst.hold = none → s.ifc.slew = 0 → t.time = s.time + 1))

/-! ### Invariants -/

/-- No command changes the queue of waiting commands: what a step takes from its front is all that leaves it. -/
def Obligations.CommandsLeaveTheQueue : Prop :=
  ∀ (c : Instr) (s t : State), exec c s = .next t → t.pending = s.pending

/-- Every step keeps the canonical form of memory, host memory and the control-space words. -/
def Obligations.EveryStepKeepsTheCanonicalForm : Prop :=
  ∀ s t : State, s.canon = true → step s = .next t → t.canon = true

/-! ### Scalar instructions on registers (02 R53, 06 R181-R188) -/

/-- ADD and SUB (R69, R181, R182, R184): the result, clamped to the signed range under SAT; C the carry out of bit 31,
or no borrow; V the signed overflow of the exact result; Z and N from the written result; nothing else of the CSW.
AND, OR, XOR, ROL, and SHL, SHR, SAR by b[4:0] (R53, R69, R181): C is the last bit shifted out and unchanged when
nothing is shifted; V is unchanged. -/
def Obligations.IntegerResults : Prop :=
  (∀ (s s1 : State) (c : Chan) (p : Prefixes) (sub : Bool) (d a : Reg) (b : Src),
    Ready s s1 c { rrr p a b with satOk := true } →
    let u := decoded s1 c false
    let next := nextPc s c (rrr p a b)
    let x := (u.chan c).rg a
    let y := srcVal (u.chan c) b
    let e : Int := if sub then x.toInt - y.toInt else x.toInt + y.toInt
    let r : Word := if p.sat then (if e < -(2 ^ 31) then 0x80000000 else if 2 ^ 31 ≤ e then 0x7FFFFFFF else BitVec.ofInt 32 e)
      else if sub then x - y else x + y
    let carry := if sub then decide (y.toNat ≤ x.toNat) else decide (2 ^ 32 ≤ x.toNat + y.toNat)
    let ovf := decide (e < -(2 ^ 31) ∨ 2 ^ 31 ≤ e)
    ∃ t, exec (.addSub c p sub d a b) s = .next t ∧
      RegEffect c u t next d r (flaggedZN (u.chan c).csw r (some carry) (some ovf))) ∧
  (∀ (s s1 : State) (c : Chan) (p : Prefixes) (d a : Reg) (b : Src), Ready s s1 c (rrr p a b) →
    let u := decoded s1 c false
    let next := nextPc s c (rrr p a b)
    let x := (u.chan c).rg a
    let y := srcVal (u.chan c) b
    let k := y.toNat % 32
    let zn := fun (r : Word) (cy : Option Bool) => flaggedZN (u.chan c).csw r cy none
    (∀ op : BitOp, ∃ t, exec (.andOrXor c p op d a b) s = .next t ∧
      (let r := match op with | .and => x &&& y | .or => x ||| y | .xor => x ^^^ y
       RegEffect c u t next d r (zn r none))) ∧
    (∃ t, exec (.rol c p d a b) s = .next t ∧ RegEffect c u t next d (x <<< k ||| x >>> (32 - k)) (zn (x <<< k ||| x >>> (32 - k)) none)) ∧
    (∃ t, exec (.shlShrSar c p .shl d a b) s = .next t ∧
      RegEffect c u t next d (x <<< k) (zn (x <<< k) (if k = 0 then none else some (x.getLsbD (32 - k))))) ∧
    (∃ t, exec (.shlShrSar c p .shr d a b) s = .next t ∧
      RegEffect c u t next d (x >>> k) (zn (x >>> k) (if k = 0 then none else some (x.getLsbD (k - 1))))) ∧
    (∃ t, exec (.shlShrSar c p .sar d a b) s = .next t ∧
      RegEffect c u t next d (x.sshiftRight k) (zn (x.sshiftRight k) (if k = 0 then none else some (x.getLsbD (k - 1))))))

/-- MUL answers the low word of the product, clamped to the signed range under SAT, with V where the product lies
outside it; MULH and MULHU answer the high word of the signed and of the unsigned product and leave C and V; Z and N
come from the written result (R69, R181, R182, R184, R185). -/
def Obligations.MultiplicationResults : Prop :=
  ∀ (s s1 : State) (c : Chan) (p : Prefixes) (d a : Reg) (b : Src),
    let u := decoded s1 c false
    let next := nextPc s c (rrr p a b)
    let x := (u.chan c).rg a
    let y := srcVal (u.chan c) b
    let e : Int := x.toInt * y.toInt
    (Ready s s1 c { rrr p a b with satOk := true } → ∃ t, exec (.mul c p d a b) s = .next t ∧
      (let r : Word := if p.sat then (if e < -(2 ^ 31) then 0x80000000 else if 2 ^ 31 ≤ e then 0x7FFFFFFF else BitVec.ofInt 32 e)
        else x * y
       RegEffect c u t next d r (flaggedZN (u.chan c).csw r none (some (decide (e < -(2 ^ 31) ∨ 2 ^ 31 ≤ e)))))) ∧
    (Ready s s1 c (rrr p a b) →
      (∃ t, exec (.mulhMulhu c p false d a b) s = .next t ∧
        (let r := ((x.signExtend 64 * y.signExtend 64) >>> 32).truncate 32
         RegEffect c u t next d r (flaggedZN (u.chan c).csw r none none))) ∧
      (∃ t, exec (.mulhMulhu c p true d a b) s = .next t ∧
        (let r := ((x.zeroExtend 64 * y.zeroExtend 64) >>> 32).truncate 32
         RegEffect c u t next d r (flaggedZN (u.chan c).csw r none none))))

/-- DIV, DIVU, REM, REMU where no trap is taken (R69, R181, R186-R188): the quotient truncated toward zero and the
remainder of it; a zero divisor gives the dividend or 0 and sets DZ; 8000_0000h by -1 gives 8000_0000h or 0 and V. A
zero divisor with CSW.TDZ = 1 sets DZ and raises the divide-by-zero exception at the instruction (R188): it is taken
at once where no older stream instruction is unretired, and no G register is written by the division. -/
def Obligations.DivisionResults : Prop :=
  (∀ (s s1 : State) (c : Chan) (p : Prefixes) (op : DivOp) (d a : Reg) (b : Src), Ready s s1 c (rrr p a b) →
    let u := decoded s1 c false
    let next := nextPc s c (rrr p a b)
    let x := (u.chan c).rg a
    let y := srcVal (u.chan c) b
    (y = 0 → (u.chan c).tdz = false) →
    let isQ := op = .div ∨ op = .divu
    let sgn := op = .div ∨ op = .rem
    let ovf := sgn ∧ x = 0x80000000 ∧ y = 0xFFFFFFFF
    ∃ t r, exec (.divDivuRemRemu c p op d a b) s = .next t ∧
      RegEffect c u t next d r (let w := flaggedZN (u.chan c).csw r none (some (decide (sgn ∧ x = 0x80000000 ∧ y = 0xFFFFFFFF)))
                           if y = 0 then w ||| 0x40 else w) ∧
      (y = 0 → r = if isQ then x else 0) ∧
      (ovf → r = if isQ then 0x80000000 else 0) ∧
      (y ≠ 0 → ¬ ovf → sgn → r.toInt = if isQ then x.toInt.tdiv y.toInt else x.toInt.tmod y.toInt) ∧
      (y ≠ 0 → ¬ sgn → r.toNat = if isQ then x.toNat / y.toNat else x.toNat % y.toNat)) ∧
  (∀ (s s1 : State) (c : Chan) (p : Prefixes) (op : DivOp) (d a : Reg) (b : Src), Ready s s1 c (rrr p a b) →
    let u := decoded s1 c false
    srcVal (u.chan c) b = 0 → (u.chan c).tdz = true →
    exec (.divDivuRemRemu c p op d a b) s =
      .next (raise (u.modChan c fun ch => { ch with csw := wbit ch.csw 6 true }) c { vec := 9, addr := (u.chan c).pc } (u.chan c).pc))

/-- MOV, MOVI, SEXT, ZEXT, NEG, NOT, CLZ, POPC (R53, R69, R181, R521). CMP, CMPI and TST write the flags alone, as SUB
and AND would (R53, R69, R181); NOP writes nothing. -/
def Obligations.MovesAndComparisons : Prop :=
  (∀ (s s1 : State) (c : Chan) (p : Prefixes) (d a : Reg),
    let u := decoded s1 c false
    let w := (u.chan c).csw
    let next := nextPc s c { p := p, len := 2, reads := [a] }
    let x := (u.chan c).rg a
    (∀ imm : Disp, Ready s s1 c { p := p, len := dispLen imm } → ∃ t, exec (.movi c p d imm) s = .next t ∧
      RegEffect c u t (nextPc s c { p := p, len := dispLen imm }) d (match imm with | .d16 v => v.signExtend 32 | .d32 v => v) w) ∧
    (Ready s s1 c { p := p, len := 2, reads := [a] } →
      (∃ t, exec (.mov c p d a) s = .next t ∧ RegEffect c u t next d x w) ∧
      (∀ op, ∃ t, exec (.sextZext c p op d a) s = .next t ∧ RegEffect c u t next d
        (match op with
         | .sextB => (x.truncate 8).signExtend 32 | .sextH => (x.truncate 16).signExtend 32
         | .zextB => (x.truncate 8).zeroExtend 32 | .zextH => (x.truncate 16).zeroExtend 32) w) ∧
      (∃ t, exec (.negNot c p true d a) s = .next t ∧ RegEffect c u t next d (~~~ x) (flaggedZN w (~~~ x) none none)) ∧
      (∃ t, exec (.negNot c p false d a) s = .next t ∧
        RegEffect c u t next d (-x) (flaggedZN w (-x) (some (x == 0)) (some (x == 0x80000000)))) ∧
      (∃ t n, exec (.clzPopc c p false d a) s = .next t ∧ n ≤ 32 ∧
        (∀ i, 32 - n ≤ i → i < 32 → x.getLsbD i = false) ∧ (n < 32 → x.getLsbD (31 - n) = true) ∧
        RegEffect c u t next d (BitVec.ofNat 32 n) (flagged w none none (some (decide (n = 0))) none)) ∧
      (∃ t, exec (.clzPopc c p true d a) s = .next t ∧
        (let n := (List.range 32).countP fun i => x.getLsbD i
         RegEffect c u t next d (BitVec.ofNat 32 n) (flagged w none none (some (decide (n = 0))) none))))) ∧
  (∀ (s s1 : State) (c : Chan) (p : Prefixes) (d a : Reg) (imm : Word),
    let u := decoded s1 c false
    let x := (u.chan c).rg d
    let less := fun (y : Word) => flaggedZN (u.chan c).csw (x - y) (some (decide (y.toNat ≤ x.toNat)))
      (some (decide (x.toInt - y.toInt < -(2 ^ 31) ∨ 2 ^ 31 ≤ x.toInt - y.toInt)))
    (Ready s s1 c { p := p, len := 2, reads := [d, a] } →
      (∃ t, exec (.cmp c p d a) s = .next t ∧ FlagEffect c u t (nextPc s c { p := p, len := 2, reads := [d, a] }) (less ((u.chan c).rg a))) ∧
      (∃ t, exec (.tst c p d a) s = .next t ∧
        FlagEffect c u t (nextPc s c { p := p, len := 2, reads := [d, a] }) (flaggedZN (u.chan c).csw (x &&& (u.chan c).rg a) none none))) ∧
    (Ready s s1 c { p := p, len := 6, reads := [d] } →
      ∃ t, exec (.cmpi c p d imm) s = .next t ∧ FlagEffect c u t (nextPc s c { p := p, len := 6, reads := [d] }) (less imm)) ∧
    (Ready s s1 c { p := p, len := 1 } →
      ∃ t, exec (.nop c p) s = .next t ∧ FlagEffect c u t (nextPc s c { p := p, len := 1 }) (u.chan c).csw ∧
        ((u.chan c).lpst = 0 → (t.chan c).pc = nextPc s c { p := p, len := 1 })))

/-- SETVL and MFC (R47, R53, R54, R69): VL stops at 256; MFC reads every control register, and reading the low half of
the step counter latches its high half. MTC (R42, R45, R48, R54): the register named takes the value, its reserved
bits apart; in user mode only CSW[7:0] change; VL stops at 256; 5 to 7 leave LPST as it is; what an open window holds
off is noted (R271). Where the next address is no loop end (R69), no other control register changes. -/
def Obligations.ControlRegisterInstructions : Prop :=
  (∀ (s s1 : State) (c : Chan) (p : Prefixes) (d a : Reg) (cr : Byte),
    let u := decoded s1 c false
    let ch := u.chan c
    let x := ch.rg a
    let n := if x.toNat ≤ 256 then x.toNat else 256
    (Ready s s1 c { p := p, len := 4, reads := [a] } → ∃ t, exec (.setvl c p d a) s = .next t ∧ OnlyChan c u t ∧
      (t.chan c).rg d = BitVec.ofNat 32 n ∧ (t.chan c).vl = n ∧ GoesTo ch (t.chan c) (nextPc s c { p := p, len := 4, reads := [a] }) ∧ (∀ r, r ≠ d → (t.chan c).rg r = ch.rg r) ∧
      RegOnly { ch with vl := n } (t.chan c) ∧ (t.chan c).csw = ch.csw) ∧
    (Ready s s1 c { p := p, len := 4, legal := crDefined cr } → ∃ t, exec (.mfc c p d cr) s = .next t ∧
      OnlyChan c u t ∧ (t.chan c).csw = ch.csw ∧
      GoesTo ch (t.chan c) (nextPc s c { p := p, len := 4, legal := crDefined cr }) ∧ (∀ r, r ≠ d → (t.chan c).rg r = ch.rg r) ∧
      RegOnly { ch with stepsH := if cr = 0x15 then (ch.steps >>> 32).truncate 16 else ch.stepsH } (t.chan c) ∧
      (cr = 0x00 → (t.chan c).rg d = ch.csw) ∧ (cr = 0x01 → (t.chan c).rg d = ch.fsw) ∧
      (cr = 0x02 → (t.chan c).rg d = ch.slim) ∧ (cr = 0x03 → (t.chan c).rg d = ch.lsav) ∧
      (cr = 0x04 → (t.chan c).rg d = BitVec.ofNat 32 ch.vl) ∧ (cr = 0x05 → (t.chan c).rg d = ch.sc) ∧
      (cr = 0x06 → (t.chan c).rg d = ch.wm) ∧ (cr = 0x07 → (t.chan c).rg d = BitVec.ofNat 32 ch.lpst) ∧
      (∀ k : Fin 4, cr = BitVec.ofNat 8 (0x08 + k) → (t.chan c).rg d = ch.lps[k]) ∧
      (∀ k : Fin 4, cr = BitVec.ofNat 8 (0x0C + k) → (t.chan c).rg d = ch.lpe[k]) ∧
      (∀ k : Fin 4, cr = BitVec.ofNat 8 (0x10 + k) → (t.chan c).rg d = ch.lpc[k]) ∧
      (cr = 0x14 → (t.chan c).rg d = ch.vbar) ∧ (cr = 0x15 → (t.chan c).rg d = ch.steps.truncate 32) ∧
      (cr = 0x16 → (t.chan c).rg d = ch.stepsH.zeroExtend 32) ∧ (cr = 0x17 → (t.chan c).rg d = ch.pmask))) ∧
  (∀ (s s1 : State) (c : Chan) (p : Prefixes) (a : Reg) (cr : Byte),
    let i : Scalar := { p := p, len := 4, legal := crWritable cr, priv := crPrivileged cr, alone := true, reads := [a] }
    let u := decoded s1 c false
    let ch := u.chan c
    let x := ch.rg a
    Ready s s1 c i → ∃ t, exec (.mtc c p a cr) s = .next t ∧ OnlyChan c u t ∧ (t.chan c).g = ch.g ∧
      (t.chan c) = { ch with csw := (t.chan c).csw, fsw := (t.chan c).fsw, slim := (t.chan c).slim, lsav := (t.chan c).lsav,
                             vl := (t.chan c).vl, sc := (t.chan c).sc, wm := (t.chan c).wm, lpst := (t.chan c).lpst,
                             lps := (t.chan c).lps, lpe := (t.chan c).lpe, lpc := (t.chan c).lpc, vbar := (t.chan c).vbar,
                             pc := (t.chan c).pc, heldOff := (t.chan c).heldOff } ∧
      (cr = 0x00 → ch.sup = false → (t.chan c).csw = (ch.csw &&& 0xFFFFFF00) ||| (x &&& 0xFF)) ∧
      (cr = 0x00 → ch.sup = true → (t.chan c).csw = (ch.csw &&& 0xF0F00000) ||| (x &&& 0x0F0FFFFF)) ∧
      (cr = 0x01 → (t.chan c).fsw = x &&& 0x71F) ∧ (cr = 0x02 → (t.chan c).slim = x &&& 0xFFFFFFF8) ∧
      (cr = 0x03 → (t.chan c).lsav = x &&& 0xFFFFFF00) ∧ (cr = 0x04 → (t.chan c).vl = if x.toNat ≤ 256 then x.toNat else 256) ∧
      (cr = 0x05 → (t.chan c).sc = x) ∧ (cr = 0x06 → (t.chan c).wm = x) ∧
      (cr = 0x14 → (t.chan c).vbar = x &&& 0xFFFFC000) ∧
      (∀ k : Fin 4, cr = BitVec.ofNat 8 (0x08 + k) → (t.chan c).lps[k] = x) ∧
      (∀ k : Fin 4, cr = BitVec.ofNat 8 (0x0C + k) → (t.chan c).lpe[k] = x) ∧
      ((∀ k : Fin 4, (t.chan c).lpe[k] ≠ nextPc s c i) →
        (cr = 0x07 → (t.chan c).lpst = if x.toNat % 8 ≤ 4 then x.toNat % 8 else ch.lpst) ∧
        (∀ k : Fin 4, cr = BitVec.ofNat 8 (0x10 + k) → (t.chan c).lpc[k] = x) ∧
        (t.chan c).pc = nextPc s c i ∧
        ∀ other : Byte, other ≠ cr → crRead (t.chan c) other.toNat = crRead ch other.toNat))

/-! ### Control flow and hardware loops (02 R53, R68, R69) -/

/-- The loop-end step (R69): an address that is not LPE of the innermost level is gone to; at LPE a count above 1
falls by one and the loop goes round; otherwise the level closes and the channel goes on there, after the same step
for the next level where that ends at the same address. Nothing but the pc, LPST and LPC changes. LOOP, LOOPI and
LEXIT (R68, R69): with DEPTH below 4 a count of 0 goes on after the body and opens nothing, any other opens the level;
DEPTH 4 raises the loop-overflow exception; a length of 0 is an illegal encoding; LEXIT closes the innermost level,
LPC unchanged. -/
def Obligations.HardwareLoops : Prop :=
  (∀ (ch : Channel) (a : Word),
    (ch.lpst = 0 → ch.goTo a = { ch with pc := a }) ∧
    ∀ k : Fin 4, ch.lpst = k + 1 →
      (a ≠ ch.lpe[k] → ch.goTo a = { ch with pc := a }) ∧
      (a = ch.lpe[k] → 1 < ch.lpc[k].toNat →
        ch.goTo a = { ch with lpc := ch.lpc.set k (ch.lpc[k] - 1), pc := ch.lps[k] }) ∧
      (a = ch.lpe[k] → ch.lpc[k].toNat ≤ 1 → (∀ j : Fin 4, j + 1 = k.val → ch.lpe[j] ≠ a) →
        ch.goTo a = { ch with lpc := ch.lpc.set k 0, lpst := k, pc := a }) ∧
      (a = ch.lpe[k] → ch.lpc[k].toNat ≤ 1 → (∃ j : Fin 4, j + 1 = k.val ∧ ch.lpe[j] = a) →
        ch.goTo a = ({ ch with lpc := ch.lpc.set k 0, lpst := k } : Channel).goTo a)) ∧
  (∀ (s s1 : State) (c : Chan) (p : Prefixes) (len : BitVec 16),
    let u := decoded s1 c false
    let ch := u.chan c
    let opened := fun (t : State) (next count : Word) =>
      OnlyChan c u t ∧
      (count = 0 → t.chan c = ch.goTo (next + len.zeroExtend 32)) ∧
      (count ≠ 0 → ∀ k : Fin 4, ch.lpst = k → t.chan c = { ch with
        lps := ch.lps.set k next, lpe := ch.lpe.set k (next + len.zeroExtend 32), lpc := ch.lpc.set k count, lpst := k + 1, pc := next })
    (∀ cnt : Reg, let i : Scalar := { p := p, len := 4, legal := len != 0, reads := [cnt] }
      Ready s s1 c i →
        (ch.lpst < 4 → ∃ t, exec (.loop c p cnt len) s = .next t ∧ opened t (nextPc s c i) (ch.rg cnt)) ∧
        (ch.lpst = 4 → exec (.loop c p cnt len) s = .next (raise u c { vec := 10, addr := ch.pc } ch.pc))) ∧
    (∀ cnt : BitVec 16, let i : Scalar := { p := p, len := 5, legal := len != 0 }
      Ready s s1 c i →
        (ch.lpst < 4 → ∃ t, exec (.loopi c p cnt len) s = .next t ∧ opened t (nextPc s c i) (cnt.zeroExtend 32)) ∧
        (ch.lpst = 4 → exec (.loopi c p cnt len) s = .next (raise u c { vec := 10, addr := ch.pc } ch.pc))) ∧
    (Ready s s1 c { p := p, len := 1 } → ∃ t, exec (.lexit c p) s = .next t ∧ OnlyChan c u t ∧
      t.chan c = ({ ch with lpst := ch.lpst - 1 } : Channel).goTo (nextPc s c { p := p, len := 1 })) ∧
    (len = 0 → (s.chan c).decodes = true → (s.chan c).impr = [] → (s.chan c).group = none →
      let illegal := raise (clearResume s1 c false) c { vec := 1, addr := (s.chan c).pc } (s.chan c).pc
      (∀ cnt : Reg, fetch s c (prefixBytes p + 4) = (.ok, s1) → exec (.loop c p cnt len) s = .next illegal) ∧
      (∀ cnt : BitVec 16, fetch s c (prefixBytes p + 5) = (.ok, s1) → exec (.loopi c p cnt len) s = .next illegal)))

/-! ### Exceptions and the return from them (08 R250-R275) -/

/-- RETE (R62, R95, R268): with no drain of this frame left and G15 a multiple of 8 the frame is read with CSW.KEY, as
the channel's own stores leave it, and the registers it holds are restored; CSW.ATM becomes 0, an LPST of 5 to 7
becomes 0, and the reservation ends. A return whose G15 is not a multiple of 8 locks the channel up with cause 1h, and
one whose frame cannot be read with cause 8h (R268, R275). What a lockup leaves (R275-R277): the channel is stopped in
lockup with its registers as they were and its streams draining, EVC_LOCKSTAT has its bit and the cause and address
stand beside it, its event 7 and EV498 are pending where they are enabled for no host, a record of class 1 and code 1
names PC, CSW, WM, G15, SLIM and the cause, a delay starts unless HOSTWAIT is 1 or one runs, and no byte of memory and
no other channel changes. A RETE with G15 no multiple of 8 is such a lockup, with cause 1h. Of the model's choosing:
what a lockup leaves of waiting stores and loads (logs 22, 50). -/
def Obligations.ReturnFromHandler : Prop :=
  (∀ (s s1 s3 s2 : State) (c : Chan) (p : Prefixes) (ps : List (Nat × Nat)) (l : List Byte),
    let u := decoded s1 c false
    Ready s s1 c { p := p, len := 1, priv := true, alone := true, reads := [15] } →
    (∀ x ∈ (u.chan c).drains, ∀ a k, x.dest = .frame a k → a ≠ (u.chan c).rg 15) → ((u.chan c).rg 15).toNat % 8 = 0 →
    checkAccess u c (supervisorHow (u.chan c).key .rd false) ((u.chan c).rg 15).toNat 32 = (.ok ps, s3) →
    readOwn s3 c ((u.chan c).rg 15).toNat 32 ps = (.ok l, s2) → (s2.chan c).req = none →
    let word := fun k => BitVec.ofNat 32 (leAt l (4 * k) 4)
    ∃ r, exec (.rete c p) s = .next r ∧ OnlyChan c s2 r ∧
      (r.chan c).pc = word 0 ∧ (r.chan c).csw = word 1 &&& 0x0F0FFFFF ∧ (r.chan c).wm = word 2 ∧
      (∀ k : Fin 4, (r.chan c).rg ⟨k, by omega⟩ = word (3 + k)) ∧ (r.chan c).rg 15 = word 7 &&& 0xFFFFFFF8 ∧
      (r.chan c).lpst = (if (word 7).toNat % 8 ≤ 4 then (word 7).toNat % 8 else 0) ∧
      (∀ k : Reg, 4 ≤ k.val → k ≠ 15 → (r.chan c).rg k = (s2.chan c).rg k) ∧
      (r.chan c).resv = none ∧ (r.chan c).window = none ∧
      (r.chan c) = { s2.chan c with
        pc := (r.chan c).pc, csw := (r.chan c).csw, wm := (r.chan c).wm, g := (r.chan c).g, loads := (r.chan c).loads, lpst := (r.chan c).lpst, resv := none, fbuf := [], window := none, heldOff := (r.chan c).heldOff }) ∧
  (∀ (s s3 s2 : State) (c : Chan) (v : Nat) (a : Word) (ps : List (Nat × Nat)),
    let how := supervisorHow (s.chan c).key .rd false
    let e := ((s.chan c).rg 15).toNat
    (e % 8 ≠ 0 → returnFrom s c = lockUp s c 1 ((s.chan c).rg 15)) ∧
    (e % 8 = 0 → checkAccess s c how e 32 = (.fail v a, s2) → returnFrom s c = lockUp s2 c 8 a) ∧
    (e % 8 = 0 → checkAccess s c how e 32 = (.ok ps, s3) → readOwn s3 c e 32 ps = (.fail v a, s2) →
      returnFrom s c = lockUp s2 c 8 a)) ∧
  ((∀ (s : State) (c : Chan) (cause : Nat) (addr : Word), c ≠ bnmCore → (s.chan c).req = none →
    let r := lockUp s c cause addr
    let ch := s.chan c
    (r.chan c).st = .lockedUp ∧ (r.chan c).wait = .none ∧ (r.chan c).window = none ∧ (r.chan c).slots = [] ∧
    (r.chan c).group = none ∧ (r.chan c).heldX = none ∧
    (ch.slots ≠ [] → (r.chan c).drains = ch.drains ++ [⟨ch.nextSid, ch.slots, .nowhere⟩]) ∧
    (r.chan c).g = ch.g ∧ (r.chan c).d = ch.d ∧ (r.chan c).v = ch.v ∧ (r.chan c).m = ch.m ∧ (r.chan c).pc = ch.pc ∧
    (r.chan c).csw = ch.csw ∧ (r.chan c).fsw = ch.fsw ∧ (r.chan c).wm = ch.wm ∧ (r.chan c).slim = ch.slim ∧
    r.rbit R.evcLockStat c.val = true ∧ r.reg (R.evcLockCause c) = BitVec.ofNat 32 cause ∧ r.reg (R.evcLockAddr c) = addr ∧
    (∀ n ∈ [8 * c.val + 7, 498], bit (s.reg (R.evcfg n)) 8 = true → bit (s.reg (R.evcfg n)) 9 = false →
      r.rbit (R.evcPend (n / 32)) (n % 32) = true) ∧
    (wfld (s.reg (R.lbRate 1)) 15 0 = 0 → ∃ w, r.log.waiting.getLast? =
        some ⟨0, 1, 1, s.time.toNat, 0x200 + c.val, 0, w⟩ ∧
      w.take 6 = [ch.pc, ch.csw, ch.wm, ch.rg 15, ch.slim, BitVec.ofNat 32 cause]) ∧
    r.rst.lockup = (if s.rbit R.evcLockCfg 7 = false ∧ s.rst.lockup = none then
      some (msTicks * s.rfld R.evcLockCfg 6 0) else s.rst.lockup) ∧
    (∀ k, k ≠ c → r.chan k = s.chan k) ∧ ∀ a, r.byte a = s.byte a) ∧
  (∀ (s s1 : State) (c : Chan) (p : Prefixes),
    let u := decoded s1 c false
    Ready s s1 c { p := p, len := 1, priv := true, alone := true, reads := [15] } → c ≠ bnmCore →
    (u.chan c).frameDrains = false → ((u.chan c).rg 15).toNat % 8 ≠ 0 → (u.chan c).req = none →
    exec (.rete c p) s = .next (lockUp u c 1 ((u.chan c).rg 15))))

/-- Vector entry (R264-R267): once the checks pass and the frame is written, CSW.S is 1 and IE, SRP and LRS are 0, ATM
tells whether a window opens, an event sets HND and ILVL, G15 is the frame, the handler runs. The CSW of a handler,
bit by bit (R267). BKPT, SVC and an illegal encoding take vectors 11, 12 and 1 (R49, R57, R89, R251): SVC stacks the
address after it, the others their own, each with CSW.SRP and LRS cleared by its decode; the record names the
instruction's address and SVC's byte. Where the entry passes its checks the channel stands at the handler. What user
mode may not do, and what has no encoding (R48, R54): RETE, MTC of a control register that is privileged, LPIN and
LUNPIN in user mode raise the privilege exception; MFC of an undefined control register and MTC of an undefined or
read-only one the illegal-instruction exception, in either mode; each at the instruction, with SRP and LRS cleared. Of
the model's choosing: an SVC before LPE stacks LPE, the loop-end step left to what follows, and among the checks of
one instruction an illegal encoding comes before the privilege (log 22). -/
def Obligations.TrapsTakeTheirVectors : Prop :=
  (∀ (s t : State) (c : Chan) (v : Nat) (lvl : Option Nat) (l : List Byte) (base : Word),
    EntryOk s c v l base t →
    let opens := fld (leAt l 4 4) 11 0 ≠ 0 ∧ stillHeldOff s c = false
    ∃ r, enterVector s c v lvl false = some r ∧
      Entered c t r l base (handlerCsw (t.chan c).csw opens lvl) ∧
      ((r.chan c).window = if opens then some ⟨fld (leAt l 4 4) 11 0⟩ else none)) ∧
  (∀ (w : Word) (atm : Bool) (lvl : Option (Fin 8)) (i : Nat), i < 32 →
    (handlerCsw w atm (lvl.map (·.val))).getLsbD i =
      if i = 12 then true else if i = 13 ∨ i = 18 ∨ i = 19 then false else if i = 20 then atm
      else match lvl with
        | some l => if i = 14 then true else if 15 ≤ i ∧ i ≤ 17 then (BitVec.ofNat 3 l).getLsbD (i - 15) else w.getLsbD i
        | none => w.getLsbD i) ∧
  (∀ (s s1 : State) (c : Chan) (p : Prefixes) (imm : Byte) (l : List Byte) (base : Word) (t : State),
    let u := decoded s1 c false
    let pc := (u.chan c).pc
    let csw := fun (b : State) => handlerCsw (t.chan c).csw (fld (leAt l 4 4) 11 0 ≠ 0 ∧ stillHeldOff b c = false) none
    (let b := boundary u c { vec := 11, addr := pc } pc
     Ready s s1 c { p := p, len := 1, alone := true } → TakesNow u c → EntryOk b c 11 l base t →
      ∃ r, exec (.bkpt c p) s = .next r ∧ Entered c t r l base (csw b)) ∧
    (let b := boundary u c { vec := 12, addr := pc, svc := imm } (nextPc s c { p := p, len := 2, alone := true })
     Ready s s1 c { p := p, len := 2, alone := true } → TakesNow u c → EntryOk b c 12 l base t →
      ∃ r, exec (.svc c p imm) s = .next r ∧ Entered c t r l base (csw b)) ∧
    (let u := clearResume s1 c false
     let b := boundary u c { vec := 1, addr := (s.chan c).pc } (s.chan c).pc
     (s.chan c).decodes = true → (s.chan c).impr = [] → fetch s c 1 = (.ok, s1) → (s.chan c).group = none →
      TakesNow u c → EntryOk b c 1 l base t →
      ∃ r, exec (.illegalInstructionDecode c) s = .next r ∧ Entered c t r l base (csw b))) ∧
  (∀ (s s1 : State) (c : Chan) (p : Prefixes) (a : Reg) (cr : Byte), (s.chan c).decodes = true → (s.chan c).impr = [] →
    (s.chan c).group = none →
    let pc := (s.chan c).pc
    let refused := fun (x : Instr) (keep : Bool) (vec : Nat) =>
      exec x s = .next (raise (clearResume s1 c keep) c { vec := vec, addr := pc } pc)
    ((s.chan c).sup = false →
      (fetch s c 1 = (.ok, s1) → refused (.rete c .none) false 2) ∧
      (fetch s c 4 = (.ok, s1) → cr ∈ [(0x02 : Byte), 0x03, 0x06, 0x07, 0x14] → refused (.mtc c .none a cr) false 2) ∧
      (c ≠ bnmCore → fetch s c 2 = (.ok, s1) → refused (.lpin c .none) true 2 ∧ refused (.lunpin c .none) true 2)) ∧
    (fetch s c (prefixBytes p + 4) = (.ok, s1) →
      (0x18 ≤ cr.toNat → refused (.mfc c p a cr) false 1) ∧ (0x15 ≤ cr.toNat → refused (.mtc c p a cr) false 1)))

/-! ### Loads, stores and atomics (02 R53-R67, R523) -/

/-- LD, LDD and POP in one line of memory, with no store of the channel queued and room in the bridge (R29, R53, R56,
R61, R62): the bytes read at the address the checks give, least significant first, are what the outstanding load will
deliver, extended as the kind says; POP delivers two words and adds 8 to G15; no memory changes but the key byte's
USED bit. A misaligned LDD, STD, POP, PUSH, LDR, STC, LDADD, SWP or CAS raises the alignment exception with its
effective address and changes nothing else; the reservation of a channel ends with any STC (R61, R65).
LOAD_DATA_RETURN of a load whose request has not left the device and stands in no bridge (R29, R56): its data reach
its registers, the load is no longer outstanding, and memory and every other register stay. Of the model's choosing: a
load reads memory when it is issued (log 16). -/
def Obligations.LoadsReachTheirRegisters : Prop :=
  (∀ (s s1 s2 : State) (c : Chan) (p : Prefixes) (d a base : Reg) (pa : Nat),
    let u := decoded s1 c false
    let ch := u.chan c
    let m := markKey s2 pa false
    let how := dataHow ch p .rd false
    let room := fun (n : Nat) => s2.room (s2.bridges c [(pa, n)]) = true
    ch.stq = [] →
    (∀ (k : LdKind) (disp : Disp), Ready s s1 c { memScalar p (dispLen disp) [base] with load := true } →
      OneLine u s2 c how (ch.rg base + dispVal disp) (loadLen k) pa → room (loadLen k) →
      ∃ t, exec (.ld c p k d base disp) s = .next t ∧ (t.chan c).g = (m.chan c).g ∧
        Issued c m t (s2.bridges c [(pa, loadLen k)]) [.g d (match k with
          | .b => (s2.byte pa).signExtend 32 | .bu => (s2.byte pa).zeroExtend 32
          | .h => (s2.byte (pa + 1) ++ s2.byte pa).signExtend 32 | .hu => (s2.byte (pa + 1) ++ s2.byte pa).zeroExtend 32
          | .w => s2.word pa)]) ∧
    (∀ disp : BitVec 16, Ready s s1 c { memScalar p 4 [base] with load := true } →
      (ch.rg base + disp.signExtend 32).toNat % 16 = 0 → OneLine u s2 c how (ch.rg base + disp.signExtend 32) 16 pa → room 16 →
      ∃ t, exec (.ldd c p d base disp) s = .next t ∧ (t.chan c).g = (m.chan c).g ∧
        Issued c m t (s2.bridges c [(pa, 16)]) [.d ⟨d.val % 8, by omega⟩
          (s2.word (pa + 12) ++ s2.word (pa + 8) ++ s2.word (pa + 4) ++ s2.word pa)]) ∧
    (Ready s s1 c { memScalar p 2 [15] with load := true, legal := d != 15 && a != 15 && d != a } →
      (ch.rg 15).toNat % 8 = 0 → OneLine u s2 c how (ch.rg 15) 8 pa → room 8 →
      ∃ t, exec (.pop c p d a) s = .next t ∧ (t.chan c).rg 15 = ch.rg 15 + 8 ∧
        (∀ r, r ≠ 15 → (t.chan c).rg r = (m.chan c).rg r) ∧
        Issued c m t (s2.bridges c [(pa, 8)]) [.g d (s2.word pa), .g a (s2.word (pa + 4))])) ∧
  (∀ (s s1 : State) (c : Chan) (p : Prefixes) (d a base sr : Reg) (disp : BitVec 16),
    let u := decoded s1 c false
    let ch := u.chan c
    let e := ch.rg base + disp.signExtend 32
    let x := fun (w : Word) => raise u c { vec := 3, addr := w } ch.pc
    (e.toNat % 16 ≠ 0 →
      (Ready s s1 c { memScalar p 4 [base] with load := true } → exec (.ldd c p d base disp) s = .next (x e)) ∧
      (Ready s s1 c { memScalar p 4 [base] with readsD := [⟨d.val % 8, by omega⟩] } → exec (.std c p d base disp) s = .next (x e))) ∧
    ((ch.rg 15).toNat % 8 ≠ 0 →
      (Ready s s1 c { memScalar p 2 [15] with load := true, legal := d != 15 && a != 15 && d != a } →
        exec (.pop c p d a) s = .next (x (ch.rg 15))) ∧
      (Ready s s1 c { memScalar p 2 [15, d, a] with legal := d != 15 && a != 15 && d != a } →
        exec (.push c p d a) s = .next (x (ch.rg 15 - 8)))) ∧
    (e.toNat % 4 ≠ 0 →
      (Ready s s1 c { memScalar p 4 [base] with load := true, alone := true } → exec (.ldr c p d base disp) s = .next (x e)) ∧
      (Ready s s1 c { memScalar p 5 [base, sr] with alone := true } → exec (.stc c p d base sr disp) s =
        .next (raise (u.modChan c fun ch => { ch with resv := none }) c { vec := 3, addr := e } ch.pc)) ∧
      (∀ rs, Ready s s1 c { memScalar p 5 (base :: rs) with load := true, alone := true, atomOk := true } →
        (rs = [sr] → exec (.ldadd c p d base sr disp) s = .next (x e) ∧ exec (.swp c p d base sr disp) s = .next (x e)) ∧
        (rs = [d, sr] → exec (.cas c p d base sr disp) s = .next (x e))))) ∧
  (∀ (s : State) (c : Chan) (id : Nat) (dsts : List LDst) (via : List (Fin 9)) (sent : Bool), (sent = true ∨ via = []) →
    (s.chan c).loads.filter (·.id == id) = [⟨id, dsts, via, sent⟩] → (∀ r ∈ (s.chan c).remotes, r.id ≠ id) →
    ∃ t, exec (.loadDataReturn c id) s = .next t ∧ OnlyChan c s t ∧
      (t.chan c).loads = (s.chan c).loads.filter (·.id != id) ∧
      (∀ r v, dsts = [.g r v] → (t.chan c).rg r = v ∧ (t.chan c).d = (s.chan c).d ∧ ∀ k, k ≠ r → (t.chan c).rg k = (s.chan c).rg k) ∧
      (∀ r v, dsts = [.d r v] → (t.chan c).d = (s.chan c).d.set r v ∧ (t.chan c).g = (s.chan c).g) ∧
      (∀ r v q w, dsts = [.g r v, .g q w] → q ≠ r → (t.chan c).rg r = v ∧ (t.chan c).rg q = w ∧
        ∀ k, k ≠ r → k ≠ q → (t.chan c).rg k = (s.chan c).rg k) ∧
      (t.chan c).csw = (s.chan c).csw ∧ (t.chan c).pc = (s.chan c).pc ∧ (t.chan c).stq = (s.chan c).stq)

/-- ST, STD and PUSH post their bytes (R56, R59, R64, R523): with room in the queue the store is its youngest entry,
with the address of the instruction and the pieces the checks gave; no byte of memory changes until it is performed;
PUSH takes 8 from G15, and below SLIM it raises the stack-limit exception and changes nothing. What becomes of a
posted store (R56, R62, R288, R523): STORE_PERFORMED writes the bytes of the next piece at its address in DRAM and no
others but the key byte's bits, and the piece leaves the queue; STORE_ERROR_RESPONSE drops the store and reports its
address; STORE_ENQUEUE puts the store that waited into the queue. Of the model's choosing: one piece of a store is
performed a command (log 16), the record of a stack-limit exception names the instruction (log 22), and PUSH with G15
below 8 fails the stack-limit check (log 51). -/
def Obligations.StoresReachMemory : Prop :=
  (∀ (s s1 s2 : State) (c : Chan) (p : Prefixes) (d a base : Reg) (ps : List (Nat × Nat)),
    let u := decoded s1 c false
    let ch := u.chan c
    let how := dataHow ch p .wr true
    let post := fun (t : State) (e : Word) (bs : List Byte) =>
      OnlyChan c s2 t ∧ (∀ b, t.byte b = s2.byte b) ∧
      (t.chan c).stq = (s2.chan c).stq ++ [(s2.chan c).entry e (cutPieces ps bs)] ∧ (t.chan c).csw = (s2.chan c).csw ∧
      (t.chan c).resv = (s2.chan c).resv ∧ (t.chan c).d = (s2.chan c).d
    let may := fun (e : Word) (n : Nat) => checkAccess u c how e.toNat n = (.ok ps, s2) ∧
      (∀ q ∈ ps, s2.inMemory q.1 = true) ∧ (s2.chan c).stq.length < 8
    (∀ (k : StKind) (disp : Disp), Ready s s1 c (memScalar p (dispLen disp) [base, d]) →
      may (ch.rg base + dispVal disp) (storeLen k) →
      ∃ t, exec (.st c p k d base disp) s = .next t ∧ (t.chan c).g = (s2.chan c).g ∧
        post t (ch.rg base + dispVal disp) ((wordBytes (ch.rg d)).take (storeLen k))) ∧
    (∀ disp : BitVec 16, Ready s s1 c { memScalar p 4 [base] with readsD := [⟨d.val % 8, by omega⟩] } →
      (ch.rg base + disp.signExtend 32).toNat % 16 = 0 → may (ch.rg base + disp.signExtend 32) 16 →
      ∃ t, exec (.std c p d base disp) s = .next t ∧ (t.chan c).g = (s2.chan c).g ∧
        post t (ch.rg base + disp.signExtend 32) (leBytes 16 (ch.d[d.val % 8]'(by omega)).toNat)) ∧
    (Ready s s1 c { memScalar p 2 [15, d, a] with legal := d != 15 && a != 15 && d != a } → (ch.rg 15).toNat % 8 = 0 →
      (8 ≤ (ch.rg 15).toNat → ch.slim.toNat ≤ (ch.rg 15).toNat - 8 → may (ch.rg 15 - 8) 8 →
        ∃ t, exec (.push c p d a) s = .next t ∧ (t.chan c).rg 15 = ch.rg 15 - 8 ∧
          (∀ r, r ≠ 15 → (t.chan c).rg r = (s2.chan c).rg r) ∧
          post t (ch.rg 15 - 8) (wordBytes (ch.rg d) ++ wordBytes (ch.rg a))) ∧
      ((ch.rg 15).toNat < 8 ∨ (ch.rg 15).toNat - 8 < ch.slim.toNat →
        exec (.push c p d a) s = .next (raise u c { vec := 8, addr := ch.pc } ch.pc)))) ∧
  (∀ (s : State) (c : Chan),
    (∀ (idx : Nat) (e : StEntry) (q : Piece), (s.chan c).ready idx = some (e, q) → e.stage = 2 → (∀ r ∈ e.pieces, s.target r.pa = .dram) → s.inited q.pa = true →
      s.poison.contains (q.pa / 64) = false → s.seals = [] → q.pa % 64 + q.bytes.length ≤ 64 →
      ∃ t, exec (.storePerformed c idx) s = .next t ∧ Stores s t q.pa q.bytes ∧ t.regs = s.regs ∧ t.log = s.log ∧
        (t.chan c).g = (s.chan c).g ∧ (t.chan c).csw = (s.chan c).csw ∧ (t.chan c).stq = dropPieces (s.chan c).stq idx 1) ∧
    (∀ (idx : Nat) (e : StEntry) (q : Piece), (s.chan c).ready idx = some (e, q) → e.stage = 2 → s.target q.pa = .dflt →
      ∃ t, exec (.storeErrorResponse c idx) s = .next t ∧ (t.chan c).stq = (s.chan c).stq.eraseIdx idx ∧
        (t.chan c).impr = (s.chan c).impr ++ [e.ea] ∧ (t.chan c).g = (s.chan c).g ∧ ∀ a, t.byte a = s.byte a) ∧
    (∀ (e : StEntry) (sp : Option Word) (len : Nat), (s.chan c).wait = .storeRoom e sp len → (s.chan c).stq.length < 8 →
      ∃ t, exec (.storeEnqueue c) s = .next t ∧ OnlyChan c s t ∧ (t.chan c).stq = (s.chan c).stq ++ [e] ∧
        (t.chan c).wait = .none ∧ (sp = none → (t.chan c).g = (s.chan c).g) ∧ (∀ w, sp = some w → (t.chan c).rg 15 = w) ∧
        ∀ r, r ≠ 15 → (t.chan c).rg r = (s.chan c).rg r))

/-- LDR and STC (R65, R66): LDR reserves the line it reads; STC writes Gs and gives 0 when the reservation is for its
own line, writes nothing and gives 1 otherwise, and the reservation ends either way. LDADD, SWP and CAS in initialised
DRAM (R53, R55, R67): the old word is what the load delivers to Gd; the sum, Gs, or Gs where the old word equals Gd is
written, under ATOMIC at once and otherwise by a posted store; Z of CAS tells which. Of the model's choosing: the sum
LDADD stores is the old word plus Gs, and an STC that is refused for want of a reservation has passed its checks and
so marks its key frame DIRTY (log 22). -/
def Obligations.AtomicInstructions : Prop :=
  (∀ (s s1 s2 : State) (c : Chan) (p : Prefixes) (d base sr : Reg) (disp : BitVec 16) (pa : Nat),
    let u := decoded s1 c false
    let ch := u.chan c
    let e := ch.rg base + disp.signExtend 32
    e.toNat % 4 = 0 → s2.target pa = .dram → s2.poison.contains (pa / 64) = false → s2.seals = [] → pa % 64 ≤ 60 → ch.lineQueued (pa / 64) = false →
    (s2.room (s2.bridges c [(pa, 4)]) = true → Ready s s1 c { memScalar p 4 [base] with load := true, alone := true } →
      checkPiece u c (dataHow ch p .rw false) e.toNat = (.ok pa, s2) →
      ∃ t, exec (.ldr c p d base disp) s = .next t ∧ (t.chan c).resv = some (pa / 64) ∧
        (t.chan c).loads.getLast? = some ⟨(s2.chan c).nextId, [.g d (s2.word pa)], s2.bridges c [(pa, 4)], false⟩ ∧
        (t.chan c).g = ch.g ∧ OnlyChan c (markKey s2 pa false) t) ∧
    (Ready s s1 c { memScalar p 5 [base, sr] with alone := true } →
      checkPiece u c (dataHow ch p .rw true) e.toNat = (.ok pa, s2) →
      (ch.resv = some (pa / 64) →
        ∃ t, exec (.stc c p d base sr disp) s = .next t ∧ (t.chan c).rg d = 0 ∧ (t.chan c).resv = none ∧
          (∀ r, r ≠ d → (t.chan c).rg r = ch.rg r) ∧ (t.chan c).csw = ch.csw ∧ Stores s2 t pa (wordBytes (ch.rg sr))) ∧
      (ch.resv ≠ some (pa / 64) →
        ∃ t, exec (.stc c p d base sr disp) s = .next t ∧ (t.chan c).rg d = 1 ∧ (t.chan c).resv = none ∧
          (∀ r, r ≠ d → (t.chan c).rg r = ch.rg r) ∧ OnlyChan c (markKey s2 pa true) t))) ∧
  (∀ (s s1 s2 : State) (c : Chan) (p : Prefixes) (d base sr : Reg) (disp : BitVec 16) (pa : Nat),
    let u := decoded s1 c false
    let ch := u.chan c
    let e := ch.rg base + disp.signExtend 32
    let old := s2.word pa
    let done := fun (t : State) => (t.chan c).g = ch.g ∧
      (t.chan c).loads.getLast? = some ⟨ch.nextId, [.g d old], s2.bridges c [(pa, 4)], false⟩
    let puts := fun (t : State) (v : Word) =>
      (p.atomic = true → (t.chan c).stq = ch.stq ∧ Stores s2 t pa (wordBytes v)) ∧
      (p.atomic = false → (t.chan c).stq = ch.stq ++ [ch.entry e [⟨pa, wordBytes v⟩]] ∧ OnlyChan c (markKey s2 pa false) t)
    e.toNat % 4 = 0 → s2.target pa = .dram → s2.inited pa = true → s2.poison.contains (pa / 64) = false → s2.seals = [] → pa % 64 ≤ 60 →
    ch.lineQueued (pa / 64) = false → s2.room (s2.bridges c [(pa, 4)]) = true → (p.atomic = false → ch.stq.length < 8) →
    checkPiece u c (dataHow ch p .rw true) e.toNat = (.ok pa, s2) →
    (Ready s s1 c { memScalar p 5 [base, sr] with load := true, alone := true, atomOk := true } →
      (∃ t, exec (.ldadd c p d base sr disp) s = .next t ∧ done t ∧ (t.chan c).csw = ch.csw ∧
        puts t (old + ch.rg sr)) ∧
      (∃ t, exec (.swp c p d base sr disp) s = .next t ∧ done t ∧ (t.chan c).csw = ch.csw ∧
        puts t (ch.rg sr))) ∧
    (Ready s s1 c { memScalar p 5 [base, d, sr] with load := true, alone := true, atomOk := true } →
      ∃ t, exec (.cas c p d base sr disp) s = .next t ∧ done t ∧ (t.chan c).csw = wbit ch.csw 2 (old == ch.rg d) ∧
        (old = ch.rg d → puts t (ch.rg sr)) ∧
        (old ≠ ch.rg d → (t.chan c).stq = ch.stq ∧ OnlyChan c (markKey s2 pa p.atomic) t)))

/-- Branches and calls (R53): the target is reached through the loop-end step, CALL and CALLR leave the next address
in G14, and nothing else changes. FENCE, IFLUSH, WAIT and SYNC.S (R62, R63, R72, R95, R112, R263): FENCE goes on when
no earlier store is queued and waits otherwise, until FENCE_COMPLETE; WAIT goes on when an event routed to the channel
is pending and waits otherwise, until WAIT_WAKEUP; SYNC.S goes on when nothing is in flight and no drain is left, and
waits otherwise, until SYNC_S_COMPLETE; IFLUSH loads the caches anew. -/
def Obligations.BranchesCallsAndWaits : Prop :=
  (∀ (s s1 : State) (c : Chan) (p : Prefixes),
    let u := decoded s1 c false
    let ch := u.chan c
    (∀ (k : Cond) (rel : Rel), let i : Scalar := { p := p, len := relLen rel }
      Ready s s1 c i → ∃ t, exec (.brBcc c p k rel) s = .next t ∧ OnlyChan c u t ∧
        (let cf := ch.csw.getLsbD 0; let v := ch.csw.getLsbD 1; let z := ch.csw.getLsbD 2; let n := ch.csw.getLsbD 3
         let taken : Bool := match k with
          | .always => true | .eq => z | .ne => !z | .cs => cf | .cc => !cf | .mi => n | .pl => !n | .vs => v | .vc => !v
          | .hi => cf && !z | .ls => !cf || z | .ge => n == v | .lt => n != v | .gt => !z && n == v | .le => z || n != v
         t.chan c = ch.goTo (if taken then nextPc s c i + (match rel with | .r8 b => b.signExtend 32 | .r32 w => w) else nextPc s c i))) ∧
    (∀ (mask : BitVec 4) (rel : Byte), let i : Scalar := { p := p, len := 3 }
      Ready s s1 c i → ∃ t, exec (.bcm c p mask rel) s = .next t ∧ OnlyChan c u t ∧
        t.chan c = ch.goTo (if mask.getLsbD (ch.csw.extractLsb' 4 2).toNat then nextPc s c i + rel.signExtend 32 else nextPc s c i)) ∧
    (∀ a : Reg, Ready s s1 c { p := p, len := 2, reads := [a] } →
      (∃ t, exec (.jmp c p a) s = .next t ∧ OnlyChan c u t ∧ t.chan c = ch.goTo (ch.rg a)) ∧
      (∃ t, exec (.callr c p a) s = .next t ∧ OnlyChan c u t ∧
        t.chan c = (ch.setG 14 (nextPc s c { p := p, len := 2, reads := [a] })).goTo (ch.rg a))) ∧
    (Ready s s1 c { p := p, len := 1, reads := [14] } →
      ∃ t, exec (.ret c p) s = .next t ∧ OnlyChan c u t ∧ t.chan c = ch.goTo (ch.rg 14)) ∧
    (∀ rel : Rel, let i : Scalar := { p := p, len := relLen rel }
      Ready s s1 c i → ∃ t, exec (.call c p rel) s = .next t ∧ OnlyChan c u t ∧
        t.chan c = (ch.setG 14 (nextPc s c i)).goTo (nextPc s c i + (match rel with | .r8 b => b.signExtend 32 | .r32 w => w)))) ∧
  (∀ (s s1 : State) (c : Chan) (p : Prefixes),
    let i : Scalar := { p := p, len := 1, alone := true }
    let u := decoded s1 c false
    let ch := u.chan c
    (Ready s s1 c i →
      (ch.stq = [] → exec (.fence c p) s = .next (u.modChan c fun ch => ch.goTo (nextPc s c i)) ∧
        ∃ t, exec (.iflush c p) s = .next t ∧ t = (refetch u c).modChan c fun ch => ch.goTo (nextPc s c i)) ∧
      (ch.stq ≠ [] → exec (.fence c p) s = .next (u.modChan c fun ch => { ch with wait := .fence })) ∧
      (eventPending u c = true → exec (.wait c p) s = .next (u.modChan c fun ch => ch.goTo (nextPc s c i))) ∧
      (eventPending u c = false → exec (.wait c p) s = .next (u.modChan c fun ch => { ch with st := .waiting }))) ∧
    (Ready s s1 c { p := p, len := 2, legal := c != bnmCore } →
      (ch.slots = [] → ch.drains = [] →
        exec (.syncS c p) s = .next (u.modChan c fun ch => ch.goTo (nextPc s c { p := p, len := 2, legal := c != bnmCore }))) ∧
      (ch.slots ≠ [] ∨ ch.drains ≠ [] → exec (.syncS c p) s = .next (u.modChan c fun ch => { ch with wait := .syncS }))) ∧
    ((s.chan c).wait = .syncS → (s.chan c).slots = [] → (s.chan c).drains = [] → (s.chan c).req = none →
      exec (.syncSComplete c) s = .next (s.modChan c fun ch => ({ ch with wait := .none } : Channel).goTo (ch.pc + 2))) ∧
    ((s.chan c).wait = .fence → (s.chan c).stq = [] → (s.chan c).req = none →
      exec (.fenceComplete c) s = .next (s.modChan c fun ch => ({ ch with wait := .none } : Channel).goTo (ch.pc + 1))) ∧
    ((s.chan c).st = .waiting → eventPending s c = true →
      exec (.waitWakeup c) s = .next (s.modChan c fun ch => { ch.goTo (ch.pc + 1) with st := .running })))

/-! ### Stream instructions (03 R74-R113, 05 R142-R176) -/

/-- Every stream, register-form and signal instruction that decodes takes a slot where the channel has one of its 24
free, and waits for one otherwise: a slot of its own, or its place in the open group; with CHAIN the group stays open.
It captures FSW.RM, FSW.FTZ, CSW.TDZ, CSW.S, the count and its mask, clears CSW.SRP and CSW.LRS, and changes no
register and no byte of memory (R74, R89, R104, R237). Where no group is open, a stream instruction with an illegal
encoding raises the illegal-instruction exception, one with KEY in user mode the privilege exception, and one with no
pipe in PMASK the no-pipe exception with WM 0 and SRP 1; each names the instruction's own address, and each discards
the Ledger context where CSW.LRS is 1 (R22, R48, R49, R113, R237). On the Binnacle core every one is illegal (R370).
STREAM_SLOT_GRANT gives the decode that waits the slot that has become free; with a pipe mask that has been emptied
meanwhile the no-pipe exception is raised (R22, R74). -/
def Obligations.StreamInstructionsTakeASlot : Prop :=
  (∀ (i : Instr) (c : Chan) (p : Prefixes) (op : SOp) (f : SFields), streamOf i = some (c, p, op, f) →
    ∀ (s s1 : State) (m : Member), StreamReady s s1 c p op f m →
      ((s1.chan c).infl < 24 → ∃ t, exec i s = .next t ∧ TookSlot c s1 t ((s1.chan c).request p f m)) ∧
      (24 ≤ (s1.chan c).infl → ∃ t, exec i s = .next t ∧ OnlyChan c s1 t ∧
        t.chan c = { s1.chan c with wait := .slot ((s1.chan c).request p f m) })) ∧
  (∀ (i : Instr) (c : Chan) (p : Prefixes) (op : SOp) (f : SFields), streamOf i = some (c, p, op, f) →
    ∀ (s s1 : State), (s.chan c).decodes = true → (s.chan c).remotes = [] → (s.chan c).impr = [] →
      fetch s c (prefixBytes p + f.len) = (.ok, s1) → (s1.chan c).group = none →
      (s1.chan c).waitsOperands op f = false → (s1.chan c).waitsMask p = false →
      let pc := (s1.chan c).pc
      let s2 := discardContext s1 c
      let legal := c ≠ bnmCore ∧ streamPrefixes p f op 0 = true ∧ ∃ m, (s1.chan c).memberOf p op f = some m ∧
        angles [m] ≤ 1 ∧ (p.chain = false → wholeOk [m] ((s1.chan c).elements f) = true)
      (¬ legal → exec i s = .next (raise s2 c { vec := 1, addr := pc } pc)) ∧
      (legal → p.key = true → (s1.chan c).sup = false →
        exec i s = .next (raise s2 c { vec := 2, addr := pc } pc)) ∧
      (legal → (p.key = true → (s1.chan c).sup = true) → p.chain = false →
        (s1.chan c).pmask = 0 → ((s1.chan c).quiet = true ∨ (s1.chan c).slots ≠ []) →
        ∃ u, exec i s = .next (raise u c { vec := 13, addr := pc } pc) ∧ OnlyChan c s2 u ∧ (u.chan c).wm = 0 ∧
          (u.chan c).srp = true ∧ (u.chan c).g = (s1.chan c).g ∧ (u.chan c).pc = pc ∧ (u.chan c).group = none ∧
          (u.chan c).slots = (s1.chan c).slots)) ∧
  (∀ (s : State) (c : Chan) (r : SlotReq), (s.chan c).wait = .slot r → (s.chan c).infl < 24 →
    ((r.chain = false → (s.chan c).pmask ≠ 0) → ∃ t, exec (.streamSlotGrant c) s = .next t ∧ TookSlot c s t r) ∧
    (r.chain = false → (s.chan c).pmask = 0 → (s.chan c).group = none → (s.chan c).slots ≠ [] →
      let pc := (s.chan c).pc
      ∃ u, exec (.streamSlotGrant c) s = .next (raise u c { vec := 13, addr := pc } pc) ∧ OnlyChan c (discardContext s c) u ∧
        (u.chan c).wait = .none ∧ (u.chan c).wm = 0 ∧ (u.chan c).srp = true ∧ (u.chan c).slots = (s.chan c).slots))

/-- A stream instruction that may start begins to dispatch, its free pipes taking strips: one whose operands are
contiguous, strided or registers and that keeps no carry record reads nothing before, any other begins once what it
reads has passed its checks. A pipe whose strip's elements are all complete, and committed where the instruction
commits by strips, is free again; WM has followed. In both, every free pipe of PMASK takes the next strip that there
is for it, in ascending order and each once (R18, R21, R75, R79, R85, R99). The SMS runs its microwords at the start,
as log 61 has it. Of the model's choosing: a strip is one step (log 16), the microwords of a start and of a strip are
run in its own step (log 61), and ties between pipes have no effect (log 19). -/
def Obligations.PipesTakeStrips : Prop :=
  (∀ (s : State) (c : Chan) (sid : Nat) (sl : Slot), (s.chan c).slots.find? (·.sid == sid) = some sl →
    sl.started = false → (s.chan c).mute = false → canStart s c sl = true →
    let begun := fun (s2 : State) (sl2 : Slot) => (runSmsGroup s2 sl2.members).modChan c
      fun ch => ch.putSlot { sl2 with started := true }
    ((∀ x ∈ sl.memOperands, dMode x.2.1 < 2) → sl.record = none →
      ∃ t, exec (.streamDispatchStart c sid) s = .next t ∧ Assigned (begun s sl) t) ∧
    (∀ s2 sl2, beginSlot s c sl = (.ok sl2, s2) →
      ∃ t, exec (.streamDispatchStart c sid) s = .next t ∧ Assigned (begun s2 sl2) t)) ∧
  (∀ (s : State) (p : Pipe) (c : Chan) (sid k : Nat) (sl : Slot), s.pipes[p].work = some (c, sid, k) →
    (s.chan c).mute = false →
    (s.chan c).slots.find? (·.sid == sid) = some sl →
    let lo := max (k * sl.strip) sl.startAt
    let hi := min sl.count ((k + 1) * sl.strip)
    let leaves := fun (u : State) => ∃ t, exec (.stripComplete p) s = .next t ∧ Assigned (freePipe u p) t ∧
      (∀ a, t.byte a = u.byte a) ∧ ∀ d, (t.chan d).g = (u.chan d).g ∧ (t.chan d).csw = (u.chan d).csw ∧ (t.chan d).wm = (u.chan d).wm
    (sl.isUnit = true → sl.unitDone k = true → leaves s) ∧
    (sl.isUnit = false → (∀ j, lo ≤ j → j < hi → sl.complete j = true) →
      (sl.commits = false → sl.reduces = false → sl.scans = false → sl.last ≠ none →
        leaves (s.modChan c fun ch => ch.putSlot sl.advance)) ∧
      (sl.commits = false ∨ sl.reduces = true → leaves (putProgress s c sl false)) ∧
      (∀ m d sl2 s2, sl.commits = true → sl.reduces = false → lo ≤ sl.wm → ¬ (sl.commitsLate = true ∧ hi = sl.count) →
        sl.last = some m → m.d = .mem d →
        commitStrip s c sl m d lo hi = (.ok sl2, s2) → leaves (s2.modChan c fun ch => ch.putSlot sl2)) ∧
      (sl.commitsLate = true → sl.reduces = false → lo ≤ sl.wm → hi = sl.count → sl.last ≠ none → leaves s)))

/-- ELEMENT_COMPLETE of an element whose destination is memory: its value is stored, in the destination's format, at
the address of R118, no other byte changes, and WM moves up to the lowest element that is not complete (R85, R116,
R118). `sl` is the slot with the indices that its operands have taken up to this element (R125). A fault of an element
of an instruction that is not the head is held with it, and its dispatch stops; a complete unit counts for WM, and its
writes are those of the unit (R88, R168). Of the model's choosing: an element or a unit is one step (log 16). -/
def Obligations.ElementsAndUnits : Prop :=
  (∀ (s s1 s2 s3 s4 : State) (c : Chan) (sid k e pa : Nat) (sl0 sl : Slot) (m : Member) (d : BitVec 128) (v : Elem),
    (s.chan c).findSlot sid = some (sl0, false) → (s.chan c).mute = false → sl0.canRun k = true →
    prepareIndices c k (sl0.indexOperands k) sl0 s = (.ok (), sl, s1) → sl.writesZero k = false → sl.last = some m →
    m.d = .mem d → sl.commits = false → sl.reduces = false → sl.scans = false →
    elemOf s1 c sl k = (.ok v, s2) → destAddr s2 c sl m d k = (.ok e, s3) → e < 2 ^ 32 →
    OneLine s3 s4 c (sl.how m true) (BitVec.ofNat 32 e) (typeBytes (dType d)) pa →
    ∃ t sl2, exec (.elementComplete c sid k) s = .next t ∧
      Stores s4 t pa (leBytes (typeBytes (dType d)) (storeVal (dType d) m.sat m.uns v.val)) ∧
      (t.chan c).slots = (s4.chan c).slots.map (fun x => if x.sid = sl.sid then sl2 else x) ∧
      sl.wm ≤ sl2.wm ∧ (∀ j, sl.wm ≤ j → j < sl2.wm → (sl.put k v).complete j = true) ∧
      (sl2.wm < sl.dispatched → sl.wm ≤ sl.dispatched → (sl.put k v).complete sl2.wm = false) ∧
      (t.chan c).g = (s4.chan c).g ∧ (t.chan c).v = (s4.chan c).v ∧ (t.chan c).csw = (s4.chan c).csw) ∧
  ((∀ (s s2 : State) (c : Chan) (sid k : Nat) (sl h : Slot) (x : Exc), (s.chan c).findSlot sid = some (sl, false) →
    (s.chan c).mute = false → sl.isUnit = false → sl.canRun k = true → sl.fault = none → runElem s c sl k = (.exc x, s2) →
    let sl2 := indicesRead s c sl k
    (s2.chan c).slots.head? = some h → h.sid ≠ sl.sid →
    ∃ t, exec (.elementFault c sid k) s = .next t ∧ OnlyChan c s2 t ∧
      (t.chan c).slots = (s2.chan c).slots.map (fun y => if y.sid = sl.sid then
        { sl2 with fault := some (k, x), bad := sl2.bad ++ spoiled k x } else y) ∧
      (∀ y ∈ (t.chan c).slots, y.sid = sl.sid → y.ready true = false ∧ y.ready false = false) ∧
      (t.chan c).g = (s2.chan c).g ∧ (t.chan c).csw = (s2.chan c).csw ∧ (t.chan c).pc = (s2.chan c).pc ∧
      ∀ a, t.byte a = s2.byte a) ∧
  (∀ (s s2 : State) (c : Chan) (sid u : Nat) (sl sl2 : Slot), (s.chan c).slots.find? (·.sid == sid) = some sl →
    (s.chan c).mute = false → sl.canUnit u = true → runUnit s c sl u = (.ok sl2, s2) → u * sl.strip = sl.wm →
    ∃ t sl3, exec (.unitComplete c sid u) s = .next t ∧ OnlyChan c s2 t ∧
      (t.chan c).slots = (s2.chan c).slots.map (fun y => if y.sid = sl2.sid then sl3 else y) ∧ sl.wm < sl3.wm ∧
      (t.chan c).g = (s2.chan c).g ∧ (t.chan c).csw = (s2.chan c).csw ∧ ∀ a, t.byte a = s2.byte a))

/-- STREAM_RETIRE of a head whose elements are complete and that writes memory as it goes: its slots are free, its
floating-point flags are merged into FSW, CSW.DZ is set if an element divided by zero, and nothing else of the channel
and no byte of memory changes (R79, R84, R200). STREAM_RETIRE of a head whose result goes to registers or to a record
(R84, R108-R111, R160): a V register takes the low words of the elements, an M register their low bits, a reduction
its result, its entry 0 and under WIDE its entry 1, and no other entry changes; the record of a reduction is written
with RESULT, BLOCKS and the carries, and then the head retires. Flags are merged, those of the last folds too. The end
of a drain that a stop began: CHn_WM is W0 of the drained head with all that its dispatched elements have brought
about, its flags are merged into FSW, and the drain is gone (R92, R359). The end of a drain that an exception or an
event began (R92, R96): the final WM goes into the frame, and where an element divided by zero DZ is set in the
frame's CSW word; CHn_WM and CSW stay, the flags are merged into FSW, and the drain is gone. Of the model's choosing:
a retirement and the end of a drain are each one step (logs 16, 21). -/
def Obligations.RetirementAndDrains : Prop :=
  (∀ (s : State) (c : Chan) (sl : Slot) (rest : List Slot) (m : Member) (d : BitVec 128),
    (s.chan c).slots = sl :: rest → sl.count ≤ sl.wm → sl.fault = none → s.working c sl.sid = false →
    sl.last = some m → m.d = .mem d → sl.reduces = false → sl.scans = false → (∀ x ∈ rest, x.fault = none) →
    (s.chan c).heldX = none → (s.chan c).req = none → (s.chan c).mute = false →
    ∃ t, exec (.streamRetire c) s = .next t ∧ (t.chan c).slots.map (·.sid) = rest.map (·.sid) ∧
      (t.chan c).fsw = (s.chan c).fsw ||| sl.fl.zeroExtend 32 ∧
      (t.chan c).csw = (if sl.dz then wbit (s.chan c).csw 6 true else (s.chan c).csw) ∧
      (t.chan c).g = (s.chan c).g ∧ (t.chan c).v = (s.chan c).v ∧ (t.chan c).m = (s.chan c).m ∧
      (t.chan c).pc = (s.chan c).pc ∧ (t.chan c).wm = (s.chan c).wm ∧ (t.chan c).st = (s.chan c).st ∧
      (∀ k, k ≠ c → (t.chan k).g = (s.chan k).g ∧ (t.chan k).csw = (s.chan k).csw) ∧ ∀ a, t.byte a = s.byte a) ∧
  (∀ (s : State) (c : Chan) (sl : Slot) (rest : List Slot) (m : Member),
    (s.chan c).slots = sl :: rest → sl.finished = true → sl.mustRead = false → sl.fault = none →
    s.working c sl.sid = false → sl.last = some m → (∀ x ∈ rest, x.fault = none) → (s.chan c).heldX = none →
    (s.chan c).req = none → (s.chan c).mute = false →
    let done := fun (u t : State) (fl : BitVec 5) => (t.chan c).slots.map (·.sid) = rest.map (·.sid) ∧
      (t.chan c).fsw = (u.chan c).fsw ||| fl.zeroExtend 32 ∧ (t.chan c).g = (u.chan c).g ∧ (t.chan c).pc = (u.chan c).pc ∧
      ∀ a, t.byte a = u.byte a
    (sl.reduces = false → sl.scans = false → (sl.elems.map (·.1)).Nodup →
      (∀ r, m.d = .vreg r → ∃ t, exec (.streamRetire c) s = .next t ∧ done s t sl.fl ∧
        (∀ x ∈ sl.elems, x.1 < 256 → vword (t.chan c).v[r] x.1 = x.2.val.truncate 32) ∧
        (∀ i < 256, (∀ x ∈ sl.elems, x.1 ≠ i) → vword (t.chan c).v[r] i = vword (s.chan c).v[r] i) ∧
        (∀ k, k ≠ r → (t.chan c).v[k] = (s.chan c).v[k]) ∧ (t.chan c).m = (s.chan c).m) ∧
      (∀ r, m.d = .mreg r → ∃ t, exec (.streamRetire c) s = .next t ∧ done s t sl.fl ∧
        (∀ x ∈ sl.elems, x.1 < 256 → ((t.chan c).m[r]).getLsbD x.1 = x.2.val.getLsbD 0) ∧
        (∀ i < 256, (∀ x ∈ sl.elems, x.1 ≠ i) → ((t.chan c).m[r]).getLsbD i = ((s.chan c).m[r]).getLsbD i) ∧
        (∀ k, k ≠ r → (t.chan c).m[k] = (s.chan c).m[k]) ∧ (t.chan c).v = (s.chan c).v)) ∧
    (∀ u f v, m.op.reduces = true → sl.scans = false → sl.foldLast m = .done u → u.result m = some (f, v) →
      (∀ r, sl.record = none → m.d = .vreg r → ∃ t, exec (.streamRetire c) s = .next t ∧ done s t (u.fl ||| f) ∧
        vword (t.chan c).v[r] 0 = v.truncate 32 ∧
        (∀ i < 256, 0 < i → vword (t.chan c).v[r] i =
          if m.wide = true ∧ i = 1 then (v >>> 32).truncate 32 else vword (s.chan c).v[r] i) ∧
        ∀ k, k ≠ r → (t.chan c).v[k] = (s.chan c).v[k]) ∧
      (∀ m' base k bs s2 s3, sl.record = some (m', base, k) → u.record = some (m', base, k) →
        carryBytes s { u with fl := u.fl ||| f } = (bs, s2) → u.commitsLate = false → sl.commitsLate = false →
        writeRecord s2 c { u with fl := u.fl ||| f } m base 0
          ((if m.wide = true ∨ m.op = .drsum then leBytes 8 v.toNat else leBytes 4 v.toNat ++ leBytes 4 0) ++ bs) = (.ok, s3) →
        (s3.chan c).slots = sl :: rest → (s3.chan c).heldX = none → (s3.chan c).req = none →
        ∃ t, exec (.streamRetire c) s = .next t ∧ done s3 t (u.fl ||| f)))) ∧
  (∀ (s : State) (c : Chan) (k : Nat) (dr : Drain) (sl : Slot) (m : Member) (d : BitVec 128),
    (s.chan c).drains[k]? = some dr → (s.chan c).mute = false → dr.slots.head? = some sl → dr.dest = .stop → sl.last = some m → m.d = .mem d →
    sl.reduces = false → sl.scans = false → sl.r91 = false →
    let w := if sl.commits then sl else sl.advance
    ∃ t, exec (.drainEnd c k) s = .next t ∧ (t.chan c).wm = BitVec.ofNat 32 w.wm ∧
      (t.chan c).fsw = (s.chan c).fsw ||| w.fl.zeroExtend 32 ∧
      (t.chan c).csw = (if w.dz then wbit (s.chan c).csw 6 true else (s.chan c).csw) ∧
      (t.chan c).drains = (s.chan c).drains.filter (·.id != dr.id) ∧ (t.chan c).g = (s.chan c).g ∧
      (t.chan c).pc = (s.chan c).pc ∧ ∀ a, t.byte a = s.byte a) ∧
  (∀ (s : State) (c : Chan) (k : Nat) (dr : Drain) (sl : Slot) (m : Member) (d : BitVec 128) (addr : Word) (skey : BitVec 4),
    (s.chan c).drains[k]? = some dr → (s.chan c).mute = false → dr.slots.head? = some sl → dr.dest = .frame addr skey →
    (s.chan c).st ≠ .lockedUp → sl.last = some m → m.d = .mem d → sl.reduces = false → sl.scans = false → sl.r91 = false →
    let w := if sl.commits then sl else sl.advance
    let s1 := freePipes (s.modChan c fun ch => { ch with
      drains := ch.drains.filter (·.id != dr.id), fsw := ch.fsw ||| w.fl.zeroExtend 32 }) c dr
    let ends := fun (u : State) => ∃ t, exec (.drainEnd c k) s = .next t ∧ (t.chan c).wm = (u.chan c).wm ∧
      (t.chan c).fsw = (u.chan c).fsw ∧ (t.chan c).csw = (u.chan c).csw ∧ (t.chan c).drains = (u.chan c).drains ∧
      (t.chan c).g = (u.chan c).g ∧ (t.chan c).pc = (u.chan c).pc ∧ ∀ a, t.byte a = u.byte a
    ∀ s2, frameWrite s1 c skey (addr + 8) (BitVec.ofNat 32 w.wm) = (.ok, s2) →
      (w.dz = false → ends s2) ∧
      (∀ l s3 s4, w.dz = true → readEff s2 c (supervisorHow skey .rd false) (addr.toNat + 4) 4 = (.ok l, s3) →
        frameWrite s3 c skey (addr + 4) (bytesWord l ||| 0x40) = (.ok, s4) → ends s4))

/-- What elements compute in class I: ADD, SUB, MUL, ABS and NEG from the exact result in the operation's signedness,
clamped to its range under SAT; the logic operations, shifts by b[4:0], MIN to MAXU, MULH, MULHU, SEL, MOV and CMP;
DIV to REMU with the two special cases and the trap of a zero divisor (R152, R156, R182, R183, R185-R188). Rounding:
to a whole number of units in each mode, and of a number m × 2^e to binary32, which overflows at 2^128, is replaced by
zero under FTZ where it is tiny, and else is the rounded number itself (R191-R193). What elements compute in class F:
a NaN operand gives the first NaN, quieted; invalid operations the default NaN with NV; infinities and zeros as IEEE
754 has them; any other operands the exact result, rounded once, an operand that is subnormal being a zero under FTZ
(R157, R190-R197). What elements compute in classes X, DS and DL, and CVT, WMUL and MAG: the parts of a pair apart,
the complex product with one rounding after each addition, decimal sums and comparisons of valid operands, and the
conversions with their limits (R157, R158, R163-R165, R198, R202-R208). What units compute: FFT the transform of each
frame, of which those of 2 and 4 points are written out; BPOW the total of each band and zero for an empty one, or the
data-access error of a band that ends past the frame; ENV as many values as the frame has, from the transform that
keeps the bins lo to hi (R171, R172, R175, R176). -/
def Obligations.LaneResults : Prop :=
  (∀ (env : FpEnv) (tdz : Bool) (m : Member) (k : Nat) (a b x : Word),
    let r := laneOp env tdz m k (lw a) (lw b) (lw x)
    let num := fun (w : Word) => if m.uns then (w.toNat : Int) else w.toInt
    let (lo, hi) : Int × Int := if m.uns then (0, 2 ^ 32 - 1) else (-(2 ^ 31), 2 ^ 31 - 1)
    let exact := fun (i : Int) => ∃ w : Word, r = .ok (lw w) 0 false ∧
      if m.sat then num w = max lo (min hi i) else w = BitVec.ofInt 32 i
    let word := fun (w : Word) => r = .ok (lw w) 0 false
    let cond := m.ext.toNat / 16 % 8
    (m.op = .addSub false → exact (num a + num b)) ∧ (m.op = .addSub true → exact (num a - num b)) ∧
    (m.op = .mul → exact (num a * num b)) ∧ (m.op = .absNeg true → exact (-(num a))) ∧
    (m.op = .absNeg false → exact (if num a < 0 then -(num a) else num a)) ∧
    (m.op = .logic .and → word (a &&& b)) ∧ (m.op = .logic .or → word (a ||| b)) ∧ (m.op = .logic .xor → word (a ^^^ b)) ∧
    (m.op = .shift .shl → word (a <<< (b.toNat % 32))) ∧ (m.op = .shift .shr → word (a >>> (b.toNat % 32))) ∧
    (m.op = .shift .sar → word (a.sshiftRight (b.toNat % 32))) ∧
    (m.op = .minmax .min → word (if a.toInt ≤ b.toInt then a else b)) ∧
    (m.op = .minmax .max → word (if b.toInt ≤ a.toInt then a else b)) ∧
    (m.op = .minmax .minu → word (if a.toNat ≤ b.toNat then a else b)) ∧
    (m.op = .minmax .maxu → word (if a.toNat ≤ b.toNat then b else a)) ∧
    (m.op = .mulh true → word (BitVec.ofNat 32 (a.toNat * b.toNat / 2 ^ 32))) ∧
    (m.op = .mulh false → ∃ w : Word, word w ∧
      ∃ low : Nat, low < 2 ^ 32 ∧ a.toInt * b.toInt = w.toInt * 2 ^ 32 + low) ∧
    (m.op = .sel → r = .ok (if x ≠ 0 then lw a else lw b) 0 false) ∧ (m.op = .mov → word a) ∧
    (m.op = .cmp → cond < 6 → word (if [a == b, a != b, decide (a.toInt < b.toInt), decide (a.toInt ≤ b.toInt),
      decide (a.toNat < b.toNat), decide (a.toNat ≤ b.toNat)][cond]?.getD false then 1 else 0)) ∧
    (∀ o, m.op = .div o →
      (b = 0 → tdz = true → r = .fault 9 0) ∧
      (b = 0 → tdz = false → r = .ok (lw (if o = .div ∨ o = .divu then a else 0)) 0 true) ∧
      (b ≠ 0 → ¬ (a = 0x80000000 ∧ b = 0xFFFFFFFF) → word (match o with
        | .div => a.sdiv b | .divu => a / b | .rem => a.srem b | .remu => a % b)) ∧
      (a = 0x80000000 → b = 0xFFFFFFFF → (o = .div → word (if m.sat then 0x7FFFFFFF else 0x80000000)) ∧
        (o = .rem → word 0) ∧ (o = .divu → word 0) ∧ (o = .remu → word a)))) ∧
  (∀ (env : FpEnv) (neg : Bool) (m : Nat) (e : Int), 0 < m →
    (∀ (k : Nat), let (r, ix) := roundTo env neg m e (e + k)
      (ix = true ↔ ¬ 2 ^ k ∣ m) ∧ (2 ^ k ∣ m → r * 2 ^ k = m) ∧ r * 2 ^ k < m + 2 ^ k ∧ m < (r + 1) * 2 ^ k ∧
      (env.rm = 0 → 2 * (r * 2 ^ k) ≤ 2 * m + 2 ^ k ∧ 2 * m ≤ 2 * (r * 2 ^ k) + 2 ^ k ∧
        (¬ 2 ^ k ∣ m → 2 ^ k ∣ 2 * m → r % 2 = 0)) ∧
      (env.rm = 1 ∨ (env.rm = 2 ∧ neg = true) ∨ (env.rm = 3 ∧ neg = false) → r * 2 ^ k ≤ m) ∧
      (env.rm = 2 ∧ neg = false ∨ env.rm = 3 ∧ neg = true → m ≤ r * 2 ^ k)) ∧
    (let top : Int := m.log2 + e
     let q := max (top - 23) (-149)
     let (r, ix) := roundTo env neg m e q
     let tiny := top < -127 ∨ (top = -127 ∧ (roundTo env neg m e (top - 23)).1 < 2 ^ 24)
     let p := roundPack env neg m e
     (env.ftz = true → tiny → p = ⟨fPut neg 0, 24⟩) ∧
     (¬ (env.ftz = true ∧ tiny) →
       (q > 104 ∨ (q = 104 ∧ r = 2 ^ 24) → p = ⟨fPut neg (overflowTo env neg), 20⟩) ∧
       (q < 104 ∨ (q = 104 ∧ r < 2 ^ 24) → fSign p.val = neg ∧ fExp p.val ≠ 255 ∧
         fMant p.val * 2 ^ (fUnit p.val - q).toNat = r ∧ (p.fl.getLsbD 4 = ix) ∧
         (p.fl.getLsbD 3 = true ↔ tiny ∧ ix = true) ∧ p.fl &&& 7 = 0)))) ∧
  (∀ (env : FpEnv) (tdz : Bool) (m : Member) (k : Nat) (a b x : Word), m.cls = .F →
    let r := laneOp env tdz m k (lw a) (lw b) (lw x)
    let gives := fun (p : Fp) => r = .ok (lw p.val) p.fl false
    let inf := fun (neg : Bool) => fPut neg 0x7F800000
    let bad : Fp := ⟨0x7FC00000, 1⟩
    let fa := flush env a
    let fb := flush env b
    let fx := flush env x
    let finite := fun (w : Word) => fExp w ≠ 255
    let neg := fSign a != fSign b
    (∀ sub, m.op = .fadd sub →
      let sb := fSign b != sub
      (fNaN a = true ∨ fNaN b = true → gives (nanOf [a, b])) ∧
      (fInf a = true → fInf b = true → gives (if fSign a = sb then ⟨a, 0⟩ else bad)) ∧
      (fInf a = true → finite b → gives ⟨a, 0⟩) ∧ (finite a → fInf b = true → gives ⟨inf sb, 0⟩) ∧
      (finite a → finite b →
        let p := sumExact (fInt fa) (fUnit fa) (if sub then -(fInt fb) else fInt fb) (fUnit fb)
        gives (roundInt env p.1 p.2 (if fSign a = sb then fSign a else env.rm = 3)))) ∧
    (m.op = .fmul →
      (fNaN a = true ∨ fNaN b = true → gives (nanOf [a, b])) ∧
      (fInf a = true ∧ fZero fb = true ∨ fZero fa = true ∧ fInf b = true → gives bad) ∧
      (fNaN a = false → fNaN b = false → fInf a = true ∨ fInf b = true → fZero fa = false → fZero fb = false →
        gives ⟨inf neg, 0⟩) ∧
      (finite a → finite b → gives (roundInt env (fInt fa * fInt fb) (fUnit fa + fUnit fb) neg))) ∧
    (m.op = .fdiv →
      (fNaN a = true ∨ fNaN b = true → gives (nanOf [a, b])) ∧
      (fInf a = true ∧ fInf b = true ∨ fZero fa = true ∧ fZero fb = true → gives bad) ∧
      (fInf a = true → finite b → gives ⟨inf neg, 0⟩) ∧ (finite a → fInf b = true → gives ⟨fPut neg 0, 0⟩) ∧
      (finite a → fZero fa = false → fZero fb = true → gives ⟨inf neg, 2⟩) ∧
      (fZero fa = true → finite b → fZero fb = false → gives ⟨fPut neg 0, 0⟩) ∧
      (∀ q rem, finite a → finite b → fZero fa = false → fZero fb = false → fMant fa * 2 ^ 64 = q * fMant fb + rem →
        rem < fMant fb →
        gives (roundPack env neg (2 * q + if rem = 0 then 0 else 1) (fUnit fa - fUnit fb - 65)))) ∧
    (m.op = .fma →
      let invalid := fInf a = true ∧ fZero fb = true ∨ fZero fa = true ∧ fInf b = true
      (fNaN a = true ∨ fNaN b = true ∨ fNaN x = true →
        gives ⟨(nanOf [a, b, x]).val, if invalid then (nanOf [a, b, x]).fl ||| 1 else (nanOf [a, b, x]).fl⟩) ∧
      (fNaN a = false → fNaN b = false → fNaN x = false →
        (invalid → gives bad) ∧
        (¬ invalid → fInf a = true ∨ fInf b = true →
          gives (if fInf x = true ∧ fSign x ≠ neg then bad else ⟨inf neg, 0⟩)) ∧
        (finite a → finite b → fInf x = true → gives ⟨x, 0⟩) ∧
        (finite a → finite b → finite x →
          let p := sumExact (fInt fa * fInt fb) (fUnit fa + fUnit fb) (fInt fx) (fUnit fx)
          gives (roundInt env p.1 p.2 (if neg = fSign x then neg else env.rm = 3))))) ∧
    (m.op = .fsqrt →
      (fNaN a = true → gives (nanOf [a])) ∧ (fZero fa = true → gives ⟨fa, 0⟩) ∧
      (fNaN a = false → fZero fa = false → fSign a = true → gives bad) ∧
      (fInf a = true → fSign a = false → gives ⟨a, 0⟩) ∧
      (∀ root, finite a → fZero fa = false → fSign a = false →
        let s : Nat := if fUnit fa % 2 = 0 then 90 else 91
        root * root ≤ fMant fa * 2 ^ s → fMant fa * 2 ^ s < (root + 1) * (root + 1) →
        gives (roundPack env false (2 * root + if root * root = fMant fa * 2 ^ s then 0 else 1) ((fUnit fa - s) / 2 - 1)))) ∧
    (∀ isMax, m.op = .fminmax isMax →
      (fNaN a = true → fNaN b = true → gives (nanOf [a, b])) ∧
      (fNaN a = true → fNaN b = false → gives ⟨fb, if fSNaN a then 1 else 0⟩) ∧
      (fNaN a = false → fNaN b = true → gives ⟨fa, if fSNaN b then 1 else 0⟩) ∧
      (fNaN a = false → fNaN b = false →
        let before := if fZero fa = true ∧ fZero fb = true then fSign a && !fSign b else fLess fa fb
        gives ⟨if before = true ↔ isMax = false then fa else fb, 0⟩)) ∧
    (m.op = .fabs → gives ⟨a &&& 0x7FFFFFFF, 0⟩) ∧ (m.op = .fneg → gives ⟨a ^^^ 0x80000000, 0⟩) ∧
    (m.op = .fcmp →
      let cond := m.ext.toNat / 16 % 8
      let nan := fNaN a || fNaN b
      let eq := !nan && (fa == fb || (fZero fa && fZero fb))
      let lt := !nan && fLess fa fb
      cond < 6 → gives ⟨if [eq, !eq, lt, lt || eq, nan, !nan][cond]?.getD false then 1 else 0,
        if fSNaN a = true ∨ fSNaN b = true ∨ (nan = true ∧ (cond = 2 ∨ cond = 3)) then 1 else 0⟩)) ∧
  (∀ (env : FpEnv) (tdz : Bool) (m : Member) (k : Nat) (v w z : BitVec 64),
    let r := laneOp env tdz m k v w z
    let ar := v.truncate 32
    let ai := (v >>> 32).truncate 32
    let br := w.truncate 32
    let bi := (w >>> 32).truncate 32
    let pair := fun (p q : Fp) => r = .ok (vpair p.val q.val) (p.fl ||| q.fl) false
    let gives := fun (p : Fp) => r = .ok (lw p.val) p.fl false
    let num := if m.uns then (ar.toNat : Int) else ar.toInt
    (m.cls = .X → (m.op = .fadd false → pair (fadd env ar br) (fadd env ai bi)) ∧
      (m.op = .fadd true → pair (fsub env ar br) (fsub env ai bi)) ∧
      (m.op = .fmul → pair (fmul env ar br) (fmul env ai br)) ∧
      (m.op = .fneg → pair ⟨ar ^^^ 0x80000000, 0⟩ ⟨ai ^^^ 0x80000000, 0⟩)) ∧
    (∀ conj, m.op = .cmul conj →
      let p := fmul env ai bi
      let re := ffma env ar br (if conj then p.val else p.val ^^^ 0x80000000)
      let q := if conj then fmul env ar bi else fmul env ai br
      let im := if conj then ffma env ai br (q.val ^^^ 0x80000000) else ffma env ar bi q.val
      r = .ok (vpair re.val im.val) (p.fl ||| re.fl ||| q.fl ||| im.fl) false) ∧
    (∀ sub, m.op = .dadd sub → m.cls = .DS ∨ m.cls = .DL →
      (∀ n, lowCause (decBad m.cls v) (decBad m.cls w) = some n → r = .fault 14 n) ∧
      (decBad m.cls v = none → decBad m.cls w = none →
        let i := if sub then decVal m.cls v - decVal m.cls w else decVal m.cls v + decVal m.cls w
        (10 ^ decDigits m.cls ≤ i.natAbs → r = .fault 14 2) ∧
        (i.natAbs < 10 ^ decDigits m.cls → ∃ u, r = .ok u 0 false ∧ decBad m.cls u = none ∧ decVal m.cls u = i ∧
          u.toNat % 16 = (if i < 0 then 13 else 12)))) ∧
    (m.op = .dcmp → m.cls = .DS ∨ m.cls = .DL → m.ext.toNat / 16 % 8 < 4 → decBad m.cls v = none → decBad m.cls w = none →
      let i := decVal m.cls v
      let j := decVal m.cls w
      r = .ok (lw (if [i == j, i != j, decide (i < j), decide (i ≤ j)][m.ext.toNat / 16 % 8]?.getD false then 1 else 0)) 0 false) ∧
    (m.op = .mag →
      let p := power env ar ai
      let s := fsqrt env p.val
      gives (if m.ext.toNat / 16 % 8 = 0 then p else ⟨s.val, p.fl ||| s.fl⟩)) ∧
    (m.op = .wmul →
      let c := if m.ext.toNat / 32 = 0 then br else window (m.ext.toNat / 32) (k % 2 ^ (m.ext.toNat % 32)) (2 ^ (m.ext.toNat % 32))
      (m.cls = .X → pair (fmul env ar c) (fmul env ai c)) ∧ (m.cls = .F → gives (fmul env ar c))) ∧
    (m.op = .cvt → let t := clsOf m.rty
      (m.cls = .I → t = .I → r = .ok v 0 false) ∧
      (m.cls = .I → t = .F → gives (roundInt { env with ftz := false } num 0 false)) ∧
      (m.cls = .F → t = .I →
        let (lo, hi) := typeRange m.rty
        let u := flush env ar
        let (n, ix) := roundTo (if m.ext.getLsbD 4 then { env with rm := 1 } else env) (fSign ar) (fMant u) (fUnit u) 0
        let i : Int := if fSign ar then -n else n
        (fNaN ar = true → gives ⟨0, 1⟩) ∧
        (fInf ar = true → gives ⟨BitVec.ofInt 32 (if fSign ar then lo else hi), 1⟩) ∧
        (fExp ar ≠ 255 → gives (if i < lo then ⟨BitVec.ofInt 32 lo, 1⟩ else if hi < i then ⟨BitVec.ofInt 32 hi, 1⟩
          else ⟨BitVec.ofInt 32 i, if ix then 16 else 0⟩))) ∧
      (m.cls = .F → t = .X → r = .ok (vpair ar 0) 0 false) ∧
      (m.cls = .X → t = .F → r = .ok (lw (if m.ext.getLsbD 5 then ai else ar)) 0 false) ∧
      (m.cls = .I ∨ m.cls = .L → t = .DS ∨ t = .DL → (m.cls = .I ↔ t = .DS) →
        let i := if m.cls = .L then v.toInt else num
        (10 ^ decDigits t ≤ i.natAbs → r = .fault 14 3) ∧
        (i.natAbs < 10 ^ decDigits t → ∃ u, r = .ok u 0 false ∧ decBad t u = none ∧ decVal t u = i)) ∧
      (m.cls = .DS ∨ m.cls = .DL →
        (∀ n, decBad m.cls v = some n → r = .fault 14 n) ∧
        (decBad m.cls v = none →
          (m.cls = .DS → t = .I → r = .ok (lw (BitVec.ofInt 32 (decVal .DS v))) 0 false) ∧
          (m.cls = .DL → t = .L → ∃ u, r = .ok u 0 false ∧ u.toInt = decVal .DL v) ∧
          (m.cls = .DS → t = .DL → ∃ u, r = .ok u 0 false ∧ decBad t u = none ∧ decVal t u = decVal .DS v) ∧
          (m.cls = .DL → t = .DS →
            (10 ^ 7 ≤ (decVal .DL v).natAbs → r = .fault 14 3) ∧
            ((decVal .DL v).natAbs < 10 ^ 7 → ∃ u, r = .ok u 0 false ∧ decBad t u = none ∧ decVal t u = decVal .DL v)))))) ∧
  ((∀ (env : FpEnv) (inv : Bool) (h : Nat) (y : List Cx), 1 ≤ h → h ≤ 16 → y.length = 2 ^ h →
    (transform env inv y).1.length = 2 ^ h) ∧
  (∀ (env : FpEnv) (inv : Bool) (a b : Cx), (transform env inv [a, b]).1 =
    [⟨(fadd env a.re b.re).val, (fadd env a.im b.im).val⟩, ⟨(fsub env a.re b.re).val, (fsub env a.im b.im).val⟩]) ∧
  (∀ (env : FpEnv) (inv : Bool) (a b c d : Cx),
    let sum := fun (x y : Cx) => (⟨(fadd env x.re y.re).val, (fadd env x.im y.im).val⟩ : Cx)
    let dif := fun (x y : Cx) => (⟨(fsub env x.re y.re).val, (fsub env x.im y.im).val⟩ : Cx)
    let t3 := if inv then (⟨fneg (dif b d).im, (dif b d).re⟩ : Cx) else ⟨(dif b d).im, fneg (dif b d).re⟩
    (transform env inv [a, b, c, d]).1 =
      [sum (sum a c) (sum b d), sum (dif a c) t3, dif (sum a c) (sum b d), dif (dif a c) t3]) ∧
  (∀ (sl : Slot) (m : Member) (first : Nat) (x : List (BitVec 64)) (table : List Nat),
    let n := 2 ^ m.logN
    let r := unitResult sl m first x table
    (m.op = .fft → ∃ out fl, r = .ok (out, fl) ∧ (x.length = n → 1 ≤ m.logN → m.logN ≤ 16 → out.length = n ∧
      ∀ k < n, out[k]? = ((transform sl.env (m.ext.getLsbD 5) (x.map fun (v : BitVec 64) =>
        if m.cls = .X then (⟨v.truncate 32, (v >>> 32).truncate 32⟩ : Cx) else ⟨v.truncate 32, 0⟩)).1[k]?).map fun c =>
          (first + k, vpair c.re c.im))) ∧
    (m.op = .env → ∃ out fl, r = .ok (out, fl) ∧ (x.length = n → ∀ k, out[k]? =
      ((envelope sl.env m.logN (wfld m.gval 15 0) (wfld m.gval 31 16) (x.map (·.truncate 32))).1[k]?).map fun w =>
        (first + k, lw w))) ∧
    (m.op = .bpow →
      ((∃ b < m.gval.toNat, n < table.getD (2 * b) 0 + table.getD (2 * b + 1) 0) → ∃ e, r = .exc e ∧ e.vec = 6 ∧
        e.elem = some (BitVec.ofNat 32 first)) ∧
      ((∀ b < m.gval.toNat, table.getD (2 * b) 0 + table.getD (2 * b + 1) 0 ≤ n) → x.length = n →
        ∃ out fl, r = .ok (out, fl) ∧ ∀ b < m.gval.toNat, ∃ v, out[b]? = some (first / n * m.gval.toNat + b, v) ∧
          (table.getD (2 * b + 1) 0 = 0 → v = 0) ∧
          (∀ f t, table.getD (2 * b + 1) 0 ≤ 256 → 0 < table.getD (2 * b + 1) 0 →
            blockTotal sl.env m (((x.drop (table.getD (2 * b) 0)).take (table.getD (2 * b + 1) 0)).map some) = some (f, some t) →
            v = t)))))

/-- The total of a block of RSUM without WIDE and SAT is the sum of its elements modulo 2^32, whatever their number up
to 256: the tree of R108 loses none and counts none twice (R108, R161). -/
def Obligations.BlockSumIsTheSum : Prop :=
  ∀ (env : FpEnv) (m : Member) (xs : List Word), m.op = .rsum → m.wide = false → m.sat = false → xs ≠ [] →
    xs.length ≤ 256 →
    blockTotal env m (xs.map fun x => some (lw x)) = some (0, some (lw (xs.foldr (· + ·) 0)))

/-! ### The Ledger Engine (07 R210-R248) -/

/-- A Ledger instruction that executes waits for the engine with its fields, its mode and its key; CSW.LRS, which the
decode clears, says whether a slot-class instruction continues from its context. Nothing but its channel changes, and
no byte of memory (R210, R211, R237). -/
def Obligations.LedgerInstructionsWaitForTheEngine : Prop :=
  ∀ (k : Instr) (c : Chan) (i : Scalar) (ins : LIns), ledgerOf k = some (c, i, ins) →
    ∀ (s s1 : State), Ready s s1 c i → (s1.chan c).stq = [] →
      ∃ t r, exec k s = .next t ∧ OnlyChan c s1 t ∧ (t.chan c).wait = .ledger r ∧
        r.ins = { ins with key := i.p.key, len := i.bytes } ∧ r.sup = (s1.chan c).sup ∧
        r.key = dataKey (s1.chan c) i.p ∧ r.resume = ((s.chan c).lrs && slotClass ins.opc) ∧ r.expired = false ∧
        (t.chan c).csw =
          (if (s1.chan c).fed then (s1.chan c).csw else wbit (wbit (s1.chan c).csw 19 false) 18 false) ∧
        (t.chan c).g = (s1.chan c).g ∧
        (t.chan c).pc = (s1.chan c).pc ∧ ∀ a, t.byte a = s1.byte a

/-- The free engine takes the channel whose turn it is; an instruction that needs no slot is then worked on, and a
slot-class one that starts takes a free slot; nothing interrupts PACK and UNPK from then on (R226). The end of a slice
is noted for the next boundary. Neither changes a register or memory (R24, R239, R246). The boundary of the last unit
of a slot-class instruction, whose stores and registers pass: they are made, CSW.CC is written if the unit gives it,
the pc moves past the instruction, its context is gone and the engine is free. LUNPIN leaves the channel no pinned
slot (R212, R233, R235, R240, R245). LPIN pins the slot it has been given. A unit that is not the last is committed
and leaves the rest of its context in the slot: the engine goes on, or, when the slice has ended, is given up and the
instruction continues later. An instruction decoded with LRS = 1 continues from the context that its slot holds for
its address, or raises the ledger-state exception where the opcode is another; without one in a slot the reload from
the save area begins (R233, R237, R239, R240, R245, R246). Of the model's choosing: a unit is computed at its boundary
(logs 16, 31). -/
def Obligations.LedgerEngineSteps : Prop :=
  ((∀ (s : State) (c : Chan) (r : LRun), s.lrun c = some r → s.lge.cur = none → s.lge.spill = none → s.lge.load = none →
    ledgerTurn s = some c →
    ((slotClass r.ins.opc = false ∧ r.ins.opc ≠ 0x20) → ∃ t, exec (.ledgerEngineGrant c) s = .next t ∧
      t.lrun c = some { r with locked := r.locked || decide (r.ins.opc = 0x0A ∨ r.ins.opc = 0x0B) } ∧ t.lge.cur = some c ∧ t.lge.turn = c ∧ t.lge.slots = s.lge.slots ∧ SameProgram s t) ∧
    (∀ i, slotClass r.ins.opc = true → r.resume = false → s.lge.pinOf c = none → s.lge.slotOf c = none →
      ((List.finRange 4).find? fun j => !s.lge.slots[j].pin && s.lge.slots[j].ctx.isNone) = some i →
      ∃ t, exec (.ledgerEngineGrant c) s = .next t ∧ t.lge.cur = some c ∧ t.lge.using_ = some i ∧
        t.lge.slots = s.lge.slots ∧ t.lge.order.getLast? = some i ∧ SameProgram s t)) ∧
  (∀ (s : State) (c : Chan) (r : LRun), s.lworking c = some r →
    ∃ t, exec (.ledgerSliceExpiry c) s = .next t ∧ (t.chan c).wait = .ledger { r with expired := true } ∧
      OnlyChan c s t ∧ SameProgram s t)) ∧
  ((∀ (s s2 : State) (c : Chan) (r : LRun) (x : LCtx) (u : LUnit), s.lworking c = some r → slotClass r.ins.opc = true →
    s.lge.work = some x → x.units = [u] → x.exc = none → commitUnit s c r u = (.ok, s2) → (s2.chan c).req = none →
    (s2.chan c).lpst = 0 → s2.lge = s.lge →
    ∃ t, exec (.ledgerUnitBoundary c) s = .next t ∧ (t.chan c).wait = .none ∧
      (t.chan c).pc = (s2.chan c).pc + BitVec.ofNat 32 r.ins.len ∧ (t.chan c).g = (s2.chan c).g ∧
      (t.chan c).csw = (match u.cc with | some k => wset (s2.chan c).csw 5 4 k.val | none => (s2.chan c).csw) ∧
      t.lge.cur = none ∧ t.lge.work = none ∧
      (∀ i, s.lge.loc[c] = .inSlot i → t.lge.slots[i].ctx = none) ∧ ∀ a, t.byte a = s2.byte a) ∧
  (∀ (s : State) (c : Chan) (r : LRun), s.lworking c = some r → r.ins.opc = 0x21 → (s.chan c).req = none →
    (s.chan c).lpst = 0 →
    ∃ t, exec (.ledgerUnitBoundary c) s = .next t ∧ (t.chan c).wait = .none ∧ t.lge.cur = none ∧
      (t.chan c).pc = (s.chan c).pc + BitVec.ofNat 32 r.ins.len ∧ (t.chan c).g = (s.chan c).g ∧
      (t.chan c).csw = (s.chan c).csw ∧
      (∀ i : Fin 4, t.lge.slots[i].pin = true → t.lge.slots[i].owner ≠ c) ∧ ∀ a, t.byte a = s.byte a)) ∧
  ((∀ (s : State) (c : Chan) (r : LRun) (i : Fin 4), s.lworking c = some r → r.ins.opc = 0x20 → s.lge.using_ = some i →
    (s.chan c).req = none → (s.chan c).lpst = 0 →
    ∃ t, exec (.ledgerUnitBoundary c) s = .next t ∧ (t.chan c).wait = .none ∧ t.lge.cur = none ∧
      t.lge.slots[i].pin = true ∧ t.lge.slots[i].owner = c ∧ (∀ j, j ≠ i → t.lge.slots[j] = s.lge.slots[j]) ∧
      (t.chan c).pc = (s.chan c).pc + BitVec.ofNat 32 r.ins.len ∧ (t.chan c).g = (s.chan c).g ∧
      (t.chan c).csw = (s.chan c).csw ∧ ∀ a, t.byte a = s.byte a) ∧
  (∀ (s s2 : State) (c : Chan) (r : LRun) (x : LCtx) (u v : LUnit) (us : List LUnit) (i : Fin 4), s.lworking c = some r →
    slotClass r.ins.opc = true → s.lge.work = some x → x.units = u :: v :: us → commitUnit s c r u = (.ok, s2) →
    s2.lge = s.lge → s.lge.using_ = some i → (s2.chan c).req = none →
    ∃ t y, exec (.ledgerUnitBoundary c) s = .next t ∧ y.units = v :: us ∧ y.done = x.done + 1 ∧ y.pc = x.pc ∧
      y.opc = x.opc ∧ y.home = x.home ∧ t.lge.slots[i].ctx = some y ∧ t.lge.loc[c] = .inSlot i ∧ SameProgram s2 t ∧
      (r.expired = false → t.lge.work = some y ∧ t.lge.cur = s.lge.cur ∧ t.chans = s2.chans) ∧
      (r.expired = true → s.lge.cur = some c → t.lge.cur = none ∧
        (t.chan c).wait = .ledger { r with resume := true, check := false, expired := false })) ∧
  (∀ (s : State) (c : Chan) (r : LRun) (i : Fin 4), s.lrun c = some r → s.lge.cur = none → s.lge.spill = none →
    s.lge.load = none → ledgerTurn s = some c → slotClass r.ins.opc = true → r.resume = true →
    (∀ x, s.lge.loc[c] = .inSlot i → s.lge.ctxOf c = some x → x.pc = (s.chan c).pc →
      (x.opc = r.ins.opc → r.check = false ∨ unchanged s (s.chan c) x = true →
        ∃ t, exec (.ledgerEngineGrant c) s = .next t ∧ t.lge.cur = some c ∧ t.lge.using_ = some i ∧
          t.lge.work = some x ∧ SameProgram s t) ∧
      (x.opc ≠ r.ins.opc → ∃ t, exec (.ledgerEngineGrant c) s =
          .next (raiseLedger t c { vec := 17, addr := (s.chan c).pc, sub := 0 } false) ∧ SameProgram s t ∧
        t.lge.slots[i].ctx = none ∧ t.lge.slots[i].pin = s.lge.slots[i].pin)) ∧
    (s.lge.loc[c] = .none ∨ s.lge.loc[c] = .saved → s.lge.pinOf c = none → s.lge.slotOf c = none →
      ((List.finRange 4).find? fun j => !s.lge.slots[j].pin && s.lge.slots[j].ctx.isNone) = some i →
      ∃ t, exec (.ledgerEngineGrant c) s = .next t ∧ t.lge.cur = some c ∧ SameProgram s t ∧
        t.lge.load = some ⟨c, i, (s.chan c).pc, r.ins.opc, if r.check then (s.chan c).lsav &&& 0xFFFFFF00 else s.lge.home[c]⟩)))

/-- A spill moves the context from its slot to memory, and counts in LGE_SPILLCNT, which stops at its end; one whose
write fails leaves it lost. A reload whose save area passes its checks puts the context that STATE stands for into its
slot, with the home it was created with, and counts (R241, R242, R243). Of the model's choosing: a spill is counted in
LGE_SPILLCNT whether or not its write succeeds, and STATE is bytes of the model (log 31). -/
def Obligations.SpillsAndReloads : Prop :=
  (∀ (s t1 t2 : State) (o : Chan) (x : LCtx) (i : Fin 4) (bs : List Byte) (res : Stored), s.lge.spill = some (o, x, i) →
    (s.chan o).mute = false → s.lge.loc[o] = .inSlot i → s.lge.cur = none → (s.count R.lgeSpillCnt).freeBytes 240 = (bs, t1) →
    writeLong 5 t1 o (supervisorHow 0 .wr true) x.home.toNat (saveArea o x (t1.reg R.lgeSpillCnt) bs) = (res, t2) →
    t2.lge = s.lge → res ≠ .wait →
    t1.reg R.lgeSpillCnt = (if s.reg R.lgeSpillCnt = 0xFFFFFFFF then 0xFFFFFFFF else s.reg R.lgeSpillCnt + 1) ∧
    ∃ t, exec (.ledgerSpillComplete o) s = .next t ∧ t.reg R.lgeSpillCnt = t2.reg R.lgeSpillCnt ∧ t.lge.spill = none ∧ t.lge.slots[i].ctx = none ∧
      t.lge.loc[o] = (if res = .ok then .saved else .lost) ∧
      t.reg R.lgeLostCnt = (if res = .ok then t2.reg R.lgeLostCnt
        else if t2.reg R.lgeLostCnt = 0xFFFFFFFF then 0xFFFFFFFF else t2.reg R.lgeLostCnt + 1) ∧
      (∀ c, (t.chan c) = (t2.chan c)) ∧ ∀ a, t.byte a = t2.byte a) ∧
  (∀ (s t1 : State) (d : LLoad) (l : List Byte) (y : Saved), s.lge.load = some d → s.lge.cur ≠ some d.chan →
    (s.chan d.chan).mute = false →
    readLong 5 s d.chan (supervisorHow 0 .rd false) d.area.toNat 256 = (.ok l, t1) → saveCause d l = none →
    (t1.lge.saved[d.chan]).find? (fun z => z.state == l.drop 16) = some y →
    ∃ t, exec (.ledgerReloadComplete d.chan) s = .next t ∧ t.lge.load = none ∧ t.lge.loc[d.chan] = .inSlot d.slot ∧
      t.lge.slots[d.slot].ctx = some { y.ctx with pc := d.pc, opc := d.opc } ∧
      t.reg R.lgeReloadCnt =
        (if t1.reg R.lgeReloadCnt = 0xFFFFFFFF then 0xFFFFFFFF else t1.reg R.lgeReloadCnt + 1) ∧
      SameProgram t1 t) ∧
  (∀ (s t1 : State) (d : LLoad) (r : LRun) (l : List Byte) (k : Nat), s.lge.load = some d → s.lge.cur = some d.chan →
    s.lrun d.chan = some r → readLong 5 s d.chan (supervisorHow 0 .rd false) d.area.toNat 256 = (.ok l, t1) →
    saveCause d l = some k →
    exec (.ledgerReloadComplete d.chan) s = .next (raiseLedger { t1 with lge := { t1.lge with load := none } } d.chan
      { vec := 17, addr := (t1.chan d.chan).pc, sub := k } false))

/-- The value of a packed operand that the device writes is the value it was given, and its digits and sign are valid:
15 digits in 8 bytes, and so for each of 1 to 32 bytes, when the value has no more digits than the field (R213, R214).
PADD, PSUB and PMUL (R212, R220, R222): the unit stores the sum, the difference or the product in the first operand,
with CC 0, 1 or 2 by its sign; a result with more digits than the field gives CC 3, and with TOV, or in PMUL, the
decimal data exception with cause 2. PSET, PDIV, PSCL, PCVB and PCVD (R212, R220, R221, R223, R225): the value with
the digits of the first operand, CC 3 and under TOV cause 2 where it has more; the remainder and the truncated
quotient, with cause 5 where the quotient has more digits than its field; the digits moved and rounded as RND says;
the binary of a packed value in a register or pair, with cause 3 where it does not fit; and the packed value of a
register or pair. PACK and UNPK, the strings, and EDIT (R226-R231): PACK of the bytes that UNPK writes gives the value
back; a unit of MVL moves up to 256 bytes and fills, CLL finds the first difference, TRL stores the table's bytes and
TRTL stops at the first that meets the class mask; a pattern byte of EDIT prints a digit, the fill byte or itself;
EDTM leaves the mark with its last unit. A unit that is not the last leaves the instruction at work or, at the end of
a slice, waiting; the last moves on. Of the model's choosing: the store of a result with an exception is left to the
boundary (log 31). -/
def Obligations.DecimalArithmetic : Prop :=
  (∀ (n : Nat) (v : Int), 1 ≤ n → n ≤ 32 → v.natAbs < 10 ^ (2 * n - 1) →
    packedVal (packBytes n v) = v ∧ packedCause (packBytes n v) = none ∧ (packBytes n v).length = n) ∧
  (∀ (i : LIns) (ch : Channel) (x y : Int),
    let e := (ch.rg i.d).toNat
    let n := i.b1.toNat % 32 + 1
    let fits := fun (v : Int) => v.natAbs < 10 ^ (2 * n - 1)
    let cc := fun (v : Int) => if v = 0 then (0 : Fin 4) else if v < 0 then 1 else 2
    let sum := fun (v : Int) => (fits v → decResult i ch [x, y] = (⟨[(e, packBytes n v)], [], some (cc v)⟩, none)) ∧
      (¬ fits v → decResult i ch [x, y] =
        (⟨[(e, packBytes n v)], [], some 3⟩, if i.b1.getLsbD 7 then some 2 else none))
    (i.opc = 0x00 → sum (x + y)) ∧ (i.opc = 0x01 → sum (x - y)) ∧
    (i.opc = 0x04 → (fits (x * y) → decResult i ch [x, y] = (⟨[(e, packBytes n (x * y))], [], some (cc (x * y))⟩, none)) ∧
      (¬ fits (x * y) → (decResult i ch [x, y]).2 = some 2)) ∧
    (i.opc = 0x03 → decResult i ch [x, y] = (⟨[], [], some (if x = y then 0 else if x < y then 1 else 2)⟩, none))) ∧
  (∀ (i : LIns) (ch : Channel) (x y : Int),
    let e := (ch.rg i.d).toNat
    let n := i.b1.toNat % 32 + 1
    let n3 := i.b3.toNat % 32 + 1
    let cc := fun (v : Int) => if v = 0 then (0 : Fin 4) else if v < 0 then 1 else 2
    let field := fun (vs : List Int) (v : Int) =>
      (v.natAbs < 10 ^ (2 * n - 1) → decResult i ch vs = (⟨[(e, packBytes n v)], [], some (cc v)⟩, none)) ∧
      (10 ^ (2 * n - 1) ≤ v.natAbs → decResult i ch vs =
        (⟨[(e, packBytes n v)], [], some 3⟩, if i.b1.getLsbD 7 then some 2 else none))
    let w64 := i.b1.getLsbD 6
    (i.opc = 0x02 → field [x] x) ∧
    (i.opc = 0x05 → decResult i ch [x, y] =
      (⟨[(e, packBytes n (x.tmod y)), ((ch.rg i.m).toNat, packBytes n3 (x.tdiv y))], [], some (cc (x.tdiv y))⟩,
       if 10 ^ (2 * n3 - 1) ≤ (x.tdiv y).natAbs then some 5 else none)) ∧
    (i.opc = 0x06 → ∀ k : Nat,
      (i.b2.toInt = k → field [x] (x * 10 ^ k)) ∧
      (i.b2.toInt = -k → 0 < k →
        let q := x.natAbs / 10 ^ k
        let rem := x.natAbs % 10 ^ k
        let up := [false, decide (10 ^ k ≤ 2 * rem), decide (10 ^ k < 2 * rem ∨ (2 * rem = 10 ^ k ∧ q % 2 = 1)),
          decide (0 < x ∧ rem ≠ 0), decide (x < 0 ∧ rem ≠ 0), decide (rem ≠ 0)].getD (i.b3.toNat % 8) true
        let m : Int := if up then q + 1 else q
        i.b3.toNat % 8 < 6 → field [x] (if x < 0 then -m else m))) ∧
    (i.opc = 0x08 →
      (w64 = false → (decResult i ch [x]).1 = ⟨[], [(i.d, BitVec.ofInt 32 x)], some (cc x)⟩ ∧
        ((decResult i ch [x]).2 = if -(2 ^ 31) ≤ x ∧ x < 2 ^ 31 then none else some 3)) ∧
      (w64 = true → (∃ lo hi : Word, (decResult i ch [x]).1 = ⟨[], [(i.d, lo), (nextReg i.d, hi)], some (cc x)⟩ ∧
          hi ++ lo = BitVec.ofInt 64 x) ∧
        ((decResult i ch [x]).2 = if -(2 ^ 63) ≤ x ∧ x < 2 ^ 63 then none else some 3))) ∧
    (i.opc = 0x09 →
      let v : Int := if w64 then (ch.rg (nextReg i.a) ++ ch.rg i.a).toInt else (ch.rg i.a).toInt
      decResult i ch [] = (⟨[(e, packBytes n v)], [], some (cc v)⟩, if 10 ^ (2 * n - 1) ≤ v.natAbs then some 3 else none))) ∧
  ((∀ (lpk lzn : Byte) (l : List Byte), lzn.toNat / 64 < 2 → (lzn.toNat / 64 = 1 → 0 < lzn.toNat % 64) → packedCause l = none →
    let v := packedVal l
    let k := if lzn.toNat / 64 = 1 then lzn.toNat % 64 else lzn.toNat % 64 + 1
    (10 ^ k ≤ v.natAbs → unpkRes lzn l = .inl 2) ∧
    (v.natAbs < 10 ^ k → ∃ z, unpkRes lzn l = .inr z ∧ z.length = lzn.toNat % 64 + 1 ∧
      (v.natAbs < 10 ^ (2 * (lpk.toNat % 32 + 1) - 1) → packRes lpk lzn z = .inr (packBytes (lpk.toNat % 32 + 1) v)) ∧
      (10 ^ (2 * (lpk.toNat % 32 + 1) - 1) ≤ v.natAbs → packRes lpk lzn z = .inl 2))) ∧
  (∀ (s s2 : State) (c : Chan) (r : LRun),
    let ch := s.chan c
    let i := r.ins
    let gd := (ch.rg i.d).toNat
    let ld := (ch.rg (nextReg i.d)).toNat
    let ga := (ch.rg i.a).toNat
    let la := (ch.rg (nextReg i.a)).toNat
    let word := fun (n : Nat) => BitVec.ofNat 32 n
    ld ≤ 0x1000000 →
    (∀ data, i.opc = 0x10 → la ≤ 0x1000000 → ¬ (ga < gd ∧ gd < ga + min ld la) → aliased ch gd ld ga (min ld la) = false →
      let k := min ld 256
      let m := min k la
      readOps s c r.rd [(ga, m)] = (.ok [data], s2) →
      liveUnit s c r = (.ok ⟨[(gd, data ++ List.replicate (k - m) i.b1)],
        [(i.d, word (gd + k)), (nextReg i.d, word (ld - k)), (i.a, word (ga + m)), (nextReg i.a, word (la - m))],
        some (if ld = la then 0 else if ld < la then 1 else 2)⟩ (k == ld), s2)) ∧
    (∀ x y, i.opc = 0x11 → la ≤ 0x1000000 →
      let k := min (max ld la) 256
      let px := x ++ List.replicate (k - x.length) i.b1
      let py := y ++ List.replicate (k - y.length) i.b1
      x.length = min ld k → y.length = min la k → readOps s c r.rd [(gd, min ld k), (ga, min la k)] = (.ok [x, y], s2) →
      ∃ e cc, e ≤ k ∧ px.take e = py.take e ∧ (e < k → px[e]? ≠ py[e]?) ∧
        cc = (if e = k then (0 : Fin 4) else if px.getD e 0 < py.getD e 0 then 1 else 2) ∧
        liveUnit s c r = (.ok ⟨[], [(i.d, word (gd + min e ld)), (nextReg i.d, word (ld - min e ld)),
          (i.a, word (ga + min e la)), (nextReg i.a, word (la - min e la))], some cc⟩ (e < k || k == max ld la), s2)) ∧
    (∀ x ts s3, i.opc = 0x12 → readOps s c r.rd [(gd, min ld 256)] = (.ok [x], s2) →
      tableBytes s2 c r.rd ga none x = (.ok [ts], s3) →
      liveUnit s c r = (.ok ⟨[(gd, ts)], [(i.d, word (gd + min ld 256)), (nextReg i.d, word (ld - min ld 256))], none⟩
        (min ld 256 == ld), s3)) ∧
    (∀ x ts t s3, i.opc = 0x13 → readOps s c r.rd [(gd, min ld 256)] = (.ok [x], s2) →
      tableBytes s2 c r.rd ga (some i.b1) x = (.ok [ts ++ [t]], s3) →
      (t &&& i.b1 = 0 → liveUnit s c r = (.ok ⟨[], [(i.d, word (gd + min ld 256)), (nextReg i.d, word (ld - min ld 256))],
        some 0⟩ (min ld 256 == ld), s3)) ∧
      (t &&& i.b1 ≠ 0 → liveUnit s c r = (.ok ⟨[], [(i.d, word (gd + ts.length)), (nextReg i.d, word (ld - ts.length)),
        (i.m, (t &&& i.b1).zeroExtend 32)], some (if ld - ts.length = 1 then 2 else 1)⟩ true, s3)))) ∧
  (∀ (s s2 s3 : State) (c : Chan) (r : LRun) (u : LUnit) (last : Bool), s.lworking c = some r →
    r.ins.opc ∈ [(0x0A : Byte), 0x0B, 0x10, 0x11, 0x12, 0x13] → liveUnit s c r = (.ok u last, s2) →
    commitUnit s2 c r u = (.ok, s3) → (s3.chan c).req = none → s3.lge.cur = some c →
    (last = false → r.expired = false → exec (.ledgerUnitBoundary c) s = .next s3) ∧
    (last = false → r.expired = true → ∃ t, exec (.ledgerUnitBoundary c) s = .next t ∧ SameProgram s3 t ∧ t.lge.cur = none ∧
      (t.chan c).wait = .ledger { r with resume := false, check := false, expired := false }) ∧
    (last = true → (s3.chan c).lpst = 0 → ∃ t, exec (.ledgerUnitBoundary c) s = .next t ∧ (t.chan c).wait = .none ∧
      t.lge.cur = none ∧ (t.chan c).pc = (s3.chan c).pc + BitVec.ofNat 32 r.ins.len ∧ (t.chan c).g = (s3.chan c).g ∧
      (t.chan c).csw = (match u.cc with | some k => wset (s3.chan c).csw 5 4 k.val | none => (s3.chan c).csw) ∧
      ∀ a, t.byte a = s3.byte a)) ∧
  (∀ (fill : Byte) (neg : Bool) (pa : Nat) (st : EdSt) (b : Byte),
    let (o, t) := editByte fill neg pa st b
    let d := st.digs.headD 0
    let prints := st.sig = true ∨ d ≠ 0
    (b = 0x80 ∨ b = 0x81 → o = (if prints then BitVec.ofNat 8 (0x30 + d) else fill) ∧ t.digs = st.digs.drop 1 ∧
      (t.sig = true ↔ b = 0x81 ∨ prints) ∧ t.cond = none ∧
      (t.mark = if prints ∧ st.pr = false then some (BitVec.ofNat 32 pa - 1) else st.mark)) ∧
    (b = 0x83 ∨ b = 0x84 → o = fill ∧ t.cond = some (b == 0x83) ∧ t.sig = st.sig ∧ t.digs = st.digs) ∧
    (b ∉ [(0x80 : Byte), 0x81, 0x83, 0x84] → t = st ∧
      o = if (st.cond = none ∧ st.sig = true) ∨ st.cond = some neg then b else fill)) ∧
  (∀ (fill : Byte) (pa src : Nat) (cc : Fin 4) (mark : Option Word) (f : List Byte) (sep : Bool) (l : List Byte),
    let (out, k, _) := editFields fill pa src cc mark [(f, sep)] [l]
    out.length = f.length + (if sep then 1 else 0) ∧
    k = if selects f = 0 then cc else if (packedDigits l).all (· == 0) then 0
      else if packedSign l = 0xB ∨ packedSign l = 0xD then 1 else 2) ∧
  (∀ (i : LIns) (cc : Fin 4) (mark : Option Word) (pa p : Nat) (us : List (List (Byte × Bool × Nat))) (u : LUnit),
    (editUnits i cc mark pa p us).getLast? = some u → u.cc = some cc ∧
    (∀ w, i.opc = 0x19 → mark = some w → u.regs.getLast? = some (i.m, w)) ∧
    (i.opc ≠ 0x19 ∨ mark = none → u.regs.length = 3)))

/-! ### Events (08 R255-R274, 02 R47) -/

/-- An assertion of an event by its source or by a write of EVC_SET (R255-R259, R406): with EN 0 it changes nothing;
with EN 1 its pending bit is set; routed to the host its message is sent, which clears both bits, or the pending-bit
array holds it while MSI-X is off, the vector is masked or the link is down. No channel and no byte of memory changes.
An event whose LB_TRIG bit is set forms an EVENT record, class 3 with its number as code and source, whatever its
enable and its routing, where class 3 has no rate limit (R445). -/
def Obligations.EventAssertions : Prop :=
  (∀ (s : State) (n : Ev) (m : Master) (v : Word), debugOk s m → v.toNat % 512 = n.val →
    eventReserved n.val = false → s.rbit (R.lbTrig (n.val / 32)) (n.val % 32) = false →
    let pend := R.evcPend (n.val / 32)
    let pba := R.msixPba (n.val / 32)
    let b := n.val % 32
    let en := bit (s.reg (R.evcfg n)) 8
    let toHost := bit (s.reg (R.evcfg n)) 9
    let sends := s.ifc.msixEn && !s.ifc.fmask && !s.rbit (R.msixTable n 3) 0 && s.rbit R.pxLink 0
    ∀ x ∈ [Instr.eventAssert n, Instr.evcSetWrite m v], ∃ t, exec x s = .next t ∧ DeviceOnly s t ∧ t.log = s.log ∧
      (en = false → t = s) ∧
      (en = true → toHost = false → t.reg pend = wbit (s.reg pend) b true ∧ RegsBut [pend] s t ∧ t.ifc = s.ifc) ∧
      (en = true → toHost = true → sends = true → t.ifc.msgs = n.val :: s.ifc.msgs ∧ RegsBut [pend, pba] s t ∧
        t.reg pend = wbit (s.reg pend) b false ∧ t.reg pba = wbit (s.reg pba) b false) ∧
      (en = true → toHost = true → sends = false → t.ifc = s.ifc ∧ RegsBut [pend, pba] s t ∧
        t.reg pend = wbit (s.reg pend) b true ∧ t.reg pba = wbit (s.reg pba) b true)) ∧
  (∀ (s : State) (n : Ev), eventReserved n.val = false → s.rbit (R.lbTrig (n.val / 32)) (n.val % 32) = true →
    wfld (s.reg (R.lbRate 3)) 15 0 = 0 →
    ∃ t w, exec (.eventAssert n) s = .next t ∧ DeviceOnly s t ∧
      t.log.waiting = s.log.waiting ++ [⟨0, 3, n.val, s.time.toNat, n.val, 0, w⟩])

/-- Recognition at a running channel with nothing due before it (R260-R267): the eligible event of the lowest level,
and among those of the lowest number, is taken through vector 512 + n; its pending bit is cleared and CSW.HND and ILVL
are set. Of the model's choosing: recognition with its entry is one step (log 16). -/
def Obligations.EventsAreTakenInOrder : Prop :=
  ∀ (s t : State) (c : Chan) (n : Nat) (l : List Byte) (base : Word),
    (s.chan c).st = .running → (s.chan c).wait = .none → (s.chan c).slots = [] → (s.chan c).group = none →
    (s.chan c).remotes = [] → (s.chan c).mute = false → (s.chan c).window = none → (s.chan c).heldX = none → (s.chan c).impr = [] → (s.chan c).req = none →
    haltAsked s c = false → n ∈ eligibleEvents s c →
    (∀ k ∈ eligibleEvents s c, evLevel s n < evLevel s k ∨ (evLevel s n = evLevel s k ∧ n ≤ k)) →
    let u := (s.modChan c Channel.deliverAll).setBit (R.evcPend (n / 32)) (n % 32) false
    EntryOk u c (512 + n) l base t →
    ∃ r, exec (.eventRecognition c) s = .next r ∧
      Entered c t r l base (handlerCsw (t.chan c).csw (fld (leAt l 4 4) 11 0 ≠ 0 ∧ stillHeldOff u c = false)
        (some (evLevel s n)))

/-- The event controller's registers (R256-R259): EVCFGn takes the bits it has, and clearing EN clears a pending bit;
ones written to EVC_PENDk clear pending bits and what the pending-bit array holds; a write of EVC_SET naming a
reserved number does nothing. MSIX_UNMASK clears the mask bit of its vector, and sends the message that the
pending-bit array held. -/
def Obligations.EventRegisterWrites : Prop :=
  ∀ (s : State) (m : Master), debugOk s m →
    (∀ (n : Ev) (v : Word), (asBnm m = true ∨ m = .host) →
      let pend := R.evcPend (n.val / 32)
      let pba := R.msixPba (n.val / 32)
      (s.rbit pend (n.val % 32) = false →
        ∃ t, exec (.evcfgWrite m n v) s = .next t ∧ t.reg (R.evcfg n) = masked 0x37F (s.reg (R.evcfg n)) v ∧
          RegsBut [R.evcfg n] s t ∧ DeviceOnly s t) ∧
      (bit v 8 = false →
        ∃ t, exec (.evcfgWrite m n v) s = .next t ∧ t.reg (R.evcfg n) = masked 0x37F (s.reg (R.evcfg n)) v ∧
          t.rbit pend (n.val % 32) = false ∧ RegsBut [R.evcfg n, pend, pba] s t ∧ DeviceOnly s t)) ∧
    (∀ (k : Fin 16) (v : Word), (asBnm m = true ∨ m = .host) →
      ∃ t, exec (.evcPendWrite m k v) s = .next t ∧ t.reg (R.evcPend k) = s.reg (R.evcPend k) &&& ~~~ v ∧
        t.reg (R.msixPba k) = s.reg (R.msixPba k) &&& ~~~ v ∧ RegsBut [R.evcPend k, R.msixPba k] s t ∧ DeviceOnly s t) ∧
    (∀ v : Word, eventReserved (v.toNat % 512) = true → exec (.evcSetWrite m v) s = .next s) ∧
    (∀ n : Ev,
      let pend := R.evcPend (n.val / 32)
      let pba := R.msixPba (n.val / 32)
      let ctl := R.msixTable n 3
      let b := n.val % 32
      let sends := s.rbit pba b && bit (s.reg (R.evcfg n)) 8 && bit (s.reg (R.evcfg n)) 9 && s.ifc.msixEn && !s.ifc.fmask && s.rbit R.pxLink 0
      ∃ t, exec (.msixUnmask n) s = .next t ∧ DeviceOnly s t ∧ t.log = s.log ∧ t.rbit ctl 0 = false ∧
        (sends = false → RegsBut [ctl] s t ∧ t.ifc = s.ifc) ∧
        (sends = true → RegsBut [ctl, pend, pba] s t ∧ t.ifc.msgs = n.val :: s.ifc.msgs ∧ t.rbit pend b = false ∧
          t.rbit pba b = false))

/-- A window that expires is closed, CSW.ATM is 0, and what it has held off is noted (R270, R271); a step counter that
passes FFFF_FFFF_FFFFh starts at 0 and counts the wrap, which saturates, and the event of its channel or pipe is
asserted (R47, R490, R494). A read of STEPCNTL answers the low word and latches the high half; the Sextant's read
latches nothing (R47, R494). Of the model's choosing: the word read stands in the field answer (log 9). -/
def Obligations.WindowsAndCounters : Prop :=
  ((∀ (s : State) (c : Chan), (s.chan c).window.isSome = true → (s.chan c).req = none →
    ∃ t, exec (.atomWindowExpiry c) s = .next t ∧ OnlyChan c s t ∧ (t.chan c).window = none ∧
      (t.chan c).csw = wbit (s.chan c).csw 20 false ∧ (t.chan c).g = (s.chan c).g ∧ (t.chan c).pc = (s.chan c).pc ∧
      (t.chan c).heldOff.halt = ((s.chan c).heldOff.halt || haltAsked s c) ∧
      ∀ n, n ∈ (t.chan c).heldOff.events ↔ n ∈ (s.chan c).heldOff.events ∨ n ∈ eligibleEvents s c) ∧
  (∀ (s : State) (c : Chan), (s.chan c).st = .running ∨ (s.chan c).st = .waiting → (s.chan c).steps = BitVec.allOnes 48 →
    ∃ u, exec (.stepCounterWrap c) s = .next (if c = bnmCore then u else assertEvent u (8 * c.val + 3)) ∧ OnlyChan c s u ∧
      u.chan c = { s.chan c with steps := 0, wraps := if (s.chan c).wraps = 0xFFFF then 0xFFFF else (s.chan c).wraps + 1 }) ∧
  (∀ (s : State) (p : Pipe), s.rst.hold = none → 8 ≤ s.rst.stage → (s.pipes[p]).steps = BitVec.allOnes 48 →
    ∃ u, exec (.pipeStepCounterWrap p) s = .next (assertEvent u (131 + 4 * p.val)) ∧
      u = { s with pipes := u.pipes } ∧ (∀ q, q ≠ p → u.pipes[q] = s.pipes[q]) ∧
      u.pipes[p] = { s.pipes[p] with steps := 0, wraps := if (s.pipes[p]).wraps = 0xFFFF then 0xFFFF else (s.pipes[p]).wraps + 1 })) ∧
  (∀ (s : State) (k : Fin 16) (p : Pipe),
    let c : Chan := k.castSucc
    (∀ m, m ≠ .sextant →
      (∃ t, exec (.stepcntlRead m (.chan k)) s = .next t ∧ t.answer = .word ((s.chan c).steps.truncate 32) ∧
        t.chan c = { s.chan c with stepsH := ((s.chan c).steps >>> 32).truncate 16 } ∧
        OnlyChan c { s with answer := t.answer } t) ∧
      (∃ t, exec (.stepcntlRead m (.pipe p)) s = .next t ∧ t.answer = .word ((s.pipes[p]).steps.truncate 32) ∧
        t.pipes = s.pipes.set p { s.pipes[p] with stepsH := ((s.pipes[p]).steps >>> 32).truncate 16 } ∧
        t = { s with answer := t.answer, pipes := t.pipes })) ∧
    (s.rbit R.bnmLcs 8 = true → exec (.stepcntlRead .sextant (.chan k)) s =
      .next { s with answer := .word ((s.chan c).steps.truncate 32) }))

/-! ### Memory (10 R304-R337, 09 R289-R296) -/

/-- Reads of a DRAM line that is initialised and not poisoned, by a master with a route to DRAM (R306, R321, R322,
R325): what the read finds follows from its beats and from the seal the line holds. A clean line is answered and
changes nothing; a corrected one is answered and counted, and its address recorded; an uncorrectable one, and one with
another line's seal, is poisoned and answered as such. A retry that finds no uncorrectable beat, or the last, gives
its own outcome, and one before it changes nothing. Memory and channels stay. Writes of initialised DRAM by a master
with a route to it (R306, R321, R323, R327): a full line takes its 64 bytes and is no longer poisoned, whichever line
it was meant for, and holds the seal of that one; a partial write of a good line takes its bytes, one of a poisoned
line changes no byte; an atomic operation answers the old word and stores the sum, the value, or, in a CAS that
matches, the value. Of the model's choosing: a line read by a master with no route to DRAM does nothing (log 6), what
is read stands in the field answer (log 9), and a corrected error leaves a record (log 28). -/
def Obligations.DramAccesses : Prop :=
  (∀ (s : State) (m : Master) (pa : BitVec 48), pa.toNat < s.dramSize → s.inited pa.toNat = true →
    s.poison.contains (pa.toNat / 64) = false →
    let ln := pa.toNat / 64
    let line := s.bytes (ln * 64) 64
    let q := mcOf pa.toNat
    let spoilt := fun (t : State) (kind : Nat) => DeviceOnly s t ∧ t.answer = .abort ∧
      (∀ l, l ∈ t.poison ↔ l = ln ∨ l ∈ s.poison) ∧
      t.reg (R.mcErrAddrH q) = BitVec.ofNat 32 (pa.toNat / 2 ^ 32 + kind * 0x10000)
    let reads := fun (x : Instr) (cond : LineCond) =>
      (s.readCond ln cond = .clean → exec x s = .next { s with answer := .bytes line }) ∧
      (s.readCond ln cond = .corrected → ∃ t, exec x s = .next t ∧ DeviceOnly s t ∧ t.answer = .bytes line ∧
        t.poison = s.poison ∧ wfld (t.reg (R.mcEccCnt q)) 15 0 = min 0xFFFF (wfld (s.reg (R.mcEccCnt q)) 15 0 + 1) ∧
        t.sealOf ln = addrSeal pa.toNat ∧ t.reg (R.mcErrAddrL q) = BitVec.ofNat 32 (ln * 64) ∧
        t.reg (R.mcErrAddrH q) = BitVec.ofNat 32 (pa.toNat / 2 ^ 32 + 0x10000)) ∧
      (s.readCond ln cond = .uncorrectable → ∃ t, exec x s = .next t ∧ spoilt t 2 ∧
        wfld (t.reg (R.mcEccCnt q)) 31 16 = min 0xFFFF (wfld (s.reg (R.mcEccCnt q)) 31 16 + 1)) ∧
      (s.readCond ln cond = .sealMismatch → ∃ t, exec x s = .next t ∧ spoilt t 3 ∧
        wfld (t.reg (R.mcSealCnt q)) 15 0 = min 0xFFFF (wfld (s.reg (R.mcSealCnt q)) 15 0 + 1))
    (∀ cond, (dramRoute m = true → reads (.dramLineRead m pa cond) cond) ∧
      (dramRoute m = false → exec (.dramLineRead m pa cond) s = .next s)) ∧
    (∀ (k : Fin 3) (cond : LineCond),
      (cond ≠ .uncorrectable ∨ k = 2 → reads (.dramReadRetry pa k cond) cond) ∧
      (cond = .uncorrectable → k.val < 2 → exec (.dramReadRetry pa k cond) s = .next s)) ∧
    (∀ cond, cond ≠ .uncorrectable → cond ≠ .sealMismatch →
      let d := (List.range 16).countP fun i => (s.sealOf ln).getLsbD i != (addrSeal pa.toNat).getLsbD i
      s.readCond ln cond = if 2 ≤ d then .sealMismatch else if d = 1 then .corrected else cond)) ∧
  (∀ (s : State) (m : Master) (pa : BitVec 48), pa.toNat < s.dramSize → s.inited pa.toNat = true → dramRoute m = true →
    let ln := pa.toNat / 64
    let poisoned := s.poison.contains ln
    s.inited (ln * 64) = true →
    (∀ (data : BitVec 512) (meant : BitVec 48), ∃ t, exec (.dramLineWrite m ⟨meant, pa⟩ data) s = .next t ∧
      Puts s t (ln * 64) (leBytes 64 data.toNat) ∧ t.sealOf ln = addrSeal meant.toNat ∧
      (∀ l, l ∈ t.poison ↔ l ∈ s.poison ∧ l ≠ ln) ∧ ∀ c, (t.chan c).resv ≠ some ln) ∧
    (∀ data : List Byte, data.length < 64 → pa.toNat % 64 + data.length ≤ 64 →
      (poisoned = false → s.readCond ln .clean = .clean →
        ∃ t, exec (.dramPartialWrite m pa data .clean) s = .next t ∧ Puts s t pa.toNat data ∧ t.poison = s.poison) ∧
      (poisoned = true → ∃ t, exec (.dramPartialWrite m pa data .clean) s = .next t ∧ (∀ b, t.byte b = s.byte b) ∧
        t.poison = s.poison)) ∧
    (∀ (cmp val : Word), poisoned = false → s.readCond ln .clean = .clean →
      let w := pa.toNat / 4 * 4
      (∃ t, exec (.dramAtomic m .ldadd pa cmp val .clean) s = .next t ∧ t.answer = .word (s.word w) ∧
        Puts s t w (wordBytes (s.word w + val))) ∧
      (∃ t, exec (.dramAtomic m .swp pa cmp val .clean) s = .next t ∧ t.answer = .word (s.word w) ∧
        Puts s t w (wordBytes val)) ∧
      (∃ t, exec (.dramAtomic m .cas pa cmp val .clean) s = .next t ∧ t.answer = .word (s.word w) ∧
        (s.word w = cmp → Puts s t w (wordBytes val)) ∧ (s.word w ≠ cmp → t = { s with answer := t.answer }))))

/-- Initialisation, the key cache, scrubbing and the DIMM's reports (R289, R317, R326, R328-R330): the sweep writes
zeros over the next 16 MiB and moves the watermark, DONE being set at the end of installed DRAM; a chunk is written
ahead of it. Of the model's choosing: a CA parity error writes KIND 5 (log 28). -/
def Obligations.SweepScrubAndDimm : Prop :=
  ∀ s : State,
    (let wm := s.rfld R.smsMinit 18 0
     s.rbit R.smsMinit 31 = false → s.chunks = [] → wm * 2 ^ 24 < s.dramSize →
      ∃ t, exec .memoryInitSweepStep s = .next t ∧ Zeroes s t (wm * 2 ^ 24) ((wm + 1) * 2 ^ 24) ∧
        t.rfld R.smsMinit 18 0 = wm + 1 ∧ t.rbit R.smsMinit 31 = decide (s.dramSize ≤ (wm + 1) * 2 ^ 24)) ∧
    (∀ k : Nat, s.rbit R.smsMinit 31 = false → k * 2 ^ 30 < s.dramSize → s.chunks.contains k = false →
      s.rfld R.smsMinit 18 0 ≤ k * 64 →
      ∃ t, exec (.chunkInitComplete k) s = .next t ∧ Zeroes s t (k * 2 ^ 30) ((k + 1) * 2 ^ 30) ∧
        ∀ j, j ∈ t.chunks ↔ j = k ∨ j ∈ s.chunks) ∧
    (∀ l : Nat, s.ktBase / 64 ≤ l → l * 64 < s.ktBase + s.ktBytes → l * 64 < s.dramSize → s.poison.contains l = false →
      s.readCond l .clean = .clean →
      ∃ t, exec (.keyCacheFill l .clean) s = .next t ∧ t = { s with kcache := t.kcache } ∧ t.kcache.head? = some l) ∧
    (∀ (m : Fin 8) (l : Nat), l * 64 < s.dramSize → mcOf (l * 64) = m → s.inited (l * 64) = true →
      s.rfld (R.mcCtl m) 15 8 ≠ 0 → s.readCond l .clean = .clean →
      exec (.patrolScrubLine m l .clean false) s = .next s ∧
      exec (.patrolScrubLine m l .clean true) s =
        .next (assertEvent (s.setReg (R.mcScrubCnt m) (raised (s.reg (R.mcScrubCnt m)))) (259 + 8 * m.val))) ∧
    (∀ (m : Fin 8) (pa : BitVec 48), s.dramSize ≠ 0 → ∃ t, exec (.dimmCaParityError m pa) s = .next t ∧ DeviceOnly s t ∧
      t.reg (R.mcErrAddrH m) = BitVec.ofNat 32 (pa.toNat / 2 ^ 32 + 0x50000)) ∧
    (∀ m : Fin 8, exec (.dimmSensorRead m true) s = .next (assertEvent s (262 + 8 * m.val)) ∧
      exec (.dimmSensorRead m false) s = .next s) ∧
    (∀ m : Master, asBnm m = true → debugOk s m → ∀ k : Fin 8,
      (∃ t, exec (.eccCounterClear m (.mcEcc k)) s = .next t ∧ t.reg (R.mcEccCnt k) = 0 ∧
        RegsBut [R.mcEccCnt k] s t ∧ DeviceOnly s t) ∧
      (∃ t, exec (.eccCounterClear m (.mcSeal k)) s = .next t ∧ t.reg (R.mcSealCnt k) = 0 ∧
        RegsBut [R.mcSealCnt k] s t ∧ DeviceOnly s t) ∧
      (∃ t, exec (.eccCounterClear m .cbc) s = .next t ∧ t.reg R.cbcEccCnt = 0 ∧ RegsBut [R.cbcEccCnt] s t ∧ DeviceOnly s t))

/-- Chart memory (R292-R296, R334): an access by the owner reads the row or writes the bytes enabled; another master's
is refused and recorded and changes no byte; CBn_OWNER written by the Binnacle names the new owner, and a changed
owner or a wipe makes a handover; a wipe ends with a bank of zeros. Of the model's choosing: what is read stands in
the field answer (log 9). -/
def Obligations.ChartBanks : Prop :=
  ∀ (s : State),
    (∀ (m : Master) (b : Fin 33) (row : BitVec 16) (be : BitVec 32) (w : Fin 8), row.toNat * 32 < bankSize b →
      let a := bankBase b + row.toNat * 32
      (s.owns b (ownerCode m) = .pass → s.anyPoison a 32 = false →
        exec (.chartAccess m b row none be w .clean) s = .next { s with answer := .bytes (s.bytes a 32) } ∧
        ∀ d : BitVec 256, ∃ t, exec (.chartAccess m b row (some d) be w .clean) s = .next t ∧
          (∀ k : Fin 32, t.byte (a + k) = if be.getLsbD k then d.extractLsb' (8 * k) 8 else s.byte (a + k)) ∧
          (∀ x, x < a ∨ a + 32 ≤ x → t.byte x = s.byte x) ∧ ResvOnly s t) ∧
      (s.owns b (ownerCode m) = .refuse → ∀ d, ∃ t, exec (.chartAccess m b row d be w .clean) s = .next t ∧
        DeviceOnly s t ∧ t.answer = .abort ∧ t.reg R.cbcDeny = BitVec.ofNat 32 (ownerCode m + b.val * 256) ∧
        t.reg R.cbcDenyCnt = raised (s.reg R.cbcDenyCnt))) ∧
    (∀ (b : Fin 33) (row : BitVec 16) (w : Fin 8), row.toNat * 32 < bankSize b →
      s.cpoison.contains ((bankBase b + row.toNat * 32 + 4 * w.val) / 4) = false →
      ∃ t, exec (.chartScrubRow b row w .corrected) s = .next t ∧ DeviceOnly s t ∧ t.cpoison = s.cpoison ∧
        RegsBut [R.cbcEccCnt, R.cbcErrInfo] s t ∧
        wfld (t.reg R.cbcEccCnt) 15 0 = min 0xFFFF (wfld (s.reg R.cbcEccCnt) 15 0 + 1)) ∧
    (∀ (m : Master) (b : Fin 32) (v : Word), asBnm m = true → debugOk s m → s.wiping.contains b.val = false →
      let cur := s.rfld (R.cbOwner b) 4 0
      let new := v.toNat % 32
      ∃ t, exec (.cbnOwnerWrite m b v) s = .next t ∧ DeviceOnly s t ∧ t.reg (R.cbOwner b) = BitVec.ofNat 32 new ∧
        RegsBut [R.cbOwner b] s t ∧ (new = cur → bit v 8 = false → t.handover = s.handover) ∧
        (new ≠ cur ∨ bit v 8 = true → ∃ wipe, t.handover.getLast? = some (b.val, new, wipe) ∧
          (bit v 8 = true → wipe = true))) ∧
    (∀ (b : Fin 32) (o : Nat) (wipe : Bool), s.handover.find? (·.1 == b.val) = some (b.val, o, wipe) →
      ∃ t, exec (.chartHandoverEffect b) s = .next t ∧ DeviceOnly s t ∧ (∀ h ∈ t.handover, h.1 ≠ b.val) ∧
        (wipe = true → b.val ∈ t.wiping) ∧ (wipe = false → t.wiping = s.wiping)) ∧
    (∀ b : Fin 32, s.wiping.contains b.val = true →
      ∃ t, exec (.chartWipeComplete b) s = .next t ∧ t.wiping.contains b.val = false ∧
        Zeroes s t (0x800000000000 + b.val * 0x200000) (0x800000000000 + (b.val + 1) * 0x200000)) ∧
    (s.wiping.contains 32 = true → ∃ t, exec .sealedBankWipeComplete s = .next t ∧ t.wiping.contains 32 = false ∧
      Zeroes s t 0x800004000000 0x800004080000) ∧
    (∀ (m : Master) (pa : BitVec 48) (wr : Bool), s.target pa.toNat = .dflt →
      ∃ t, exec (.defaultTargetAnswer m pa wr) s = .next t ∧ DeviceOnly s t ∧ t.answer = .abort ∧
        t.reg R.xbDefAddrL = BitVec.ofNat 32 pa.toNat ∧ t.reg R.xbDefCnt = raised (s.reg R.xbDefCnt) ∧
        t.reg R.xbDefAddrH = BitVec.ofNat 32 (pa.toNat / 2 ^ 32 + port m * 65536 + wr.toNat * 0x100000))

/-! ### Command rings (11 R340-R369, 12 R400) -/

/-- The doorbells (R343, R344): a CTAIL that repeats the current value does nothing; another announces entries and
asserts EV(387 + n), an index past the ring halts it with code 1, and more entries than are free with code 4; an SHEAD
releases status entries, and a final status that has waited for space is written, on a halted ring too (R349, R367);
one past the ring halts it with code 1, and more than stand there with code 5; EVINJ asserts EV(400 + EVENT). EN of a
ring going to 1 clears its indices, with PHASE 1, and its status; going to 0 it discards what has not started, and the
status of what runs (R342). Progress replies go to the status ring without ending the command (R366); a device that
does not answer a forwarded packet ends it with 0070h (R368). What a halt of a ring leaves (R343): ERR is 1 with
ECODE, EV497 is pending where it is enabled for no host, a record of class 6 and code 1 holds the code, and no
command, channel or byte of memory changes; a ring that is halted stays as it is. Of the model's choosing: a doorbell
of a ring that is disabled or halted is only stored (log 23). -/
def Obligations.DoorbellsAndRings : Prop :=
  (∀ (s : State) (n : Fin 4) (v : Word),
    let new := v.toNat % 65536
    let old := s.rfld (R.ringCtail n) 15 0
    let head := (s.cmds.rings[n]).head
    let wrote := s.modRing n fun x => { x with dbC := new }
    let ct := assertEvent (wrote.setReg (R.ringCtail n) (BitVec.ofNat 32 new)) (387 + n.val)
    let sh := (s.modRing n fun x => { x with dbS := new }).setReg (R.ringShead n) (BitVec.ofNat 32 new)
    let on := s.rbit (R.ringCfg n) 16 = true ∧ s.rbit (R.ringStat n) 1 = false
    let tooMany := (s.rfld (R.ringChead n) 15 0 + s.cSize n - 1 - old + s.cSize n) % s.cSize n <
      (new + s.cSize n - old) % s.cSize n
    let tooFar := (s.rfld (R.ringStail n) 15 0 + s.sSize n - head) % s.sSize n < (new + s.sSize n - head) % s.sSize n
    (new = old → exec (.dbCtailWrite n v) s = .next wrote) ∧
    (new ≠ old → (¬ on ∨ (new < s.cSize n ∧ ¬ tooMany)) → exec (.dbCtailWrite n v) s = .next ct ∧ DeviceOnly s ct ∧
      ct.reg (R.ringCtail n) = BitVec.ofNat 32 new) ∧
    (new ≠ old → on → s.cSize n ≤ new → exec (.dbCtailWrite n v) s = .next (haltRing ct n 1)) ∧
    (new ≠ old → on → new < s.cSize n → tooMany → exec (.dbCtailWrite n v) s = .next (haltRing ct n 4)) ∧
    (new = head ∨ s.rbit (R.ringCfg n) 16 = false → exec (.dbSheadWrite n v) s = .next sh) ∧
    (s.rbit (R.ringStat n) 1 = true → s.sSize n ≤ new ∨ tooFar → exec (.dbSheadWrite n v) s = .next sh) ∧
    (on → new ≠ head → s.sSize n ≤ new → exec (.dbSheadWrite n v) s = .next (haltRing sh n 1)) ∧
    (on → new ≠ head → new < s.sSize n → tooFar → exec (.dbSheadWrite n v) s = .next (haltRing sh n 5)) ∧
    (s.rbit (R.ringCfg n) 16 = true → new ≠ head → new < s.sSize n → ¬ tooFar → (s.cmds.rings[n]).run = none →
      ∃ t, exec (.dbSheadWrite n v) s = .next t ∧ DeviceOnly s t ∧ (t.cmds.rings[n]).head = new ∧
        t.reg (R.ringShead n) = BitVec.ofNat 32 new ∧ RegsBut [R.ringShead n, R.ringStat n] s t) ∧
    (∀ r st, s.rbit (R.ringCfg n) 16 = true → new ≠ head → new < s.sSize n → ¬ tooFar →
      (s.rfld (R.ringStail n) 15 0 + 1) % s.sSize n ≠ new → s.rbit R.pxLink 0 = true →
      s.rbit (R.evcfg 496) 9 = false → (s.cmds.rings[n]).run = some r → r.final = some st →
      ∃ t, exec (.dbSheadWrite n v) s = .next t ∧ (t.cmds.rings[n]).run = none ∧ t.rbit (R.ringStat n) 0 = false ∧
        t.hbytes (s.sBase n + 16 * s.rfld (R.ringStail n) 15 0) 4 = leBytes 2 r.pkt.tag ++ leBytes 2 st.code) ∧
    exec (.dbEvinjWrite v) s = .next (assertEvent s (400 + v.toNat % 16))) ∧
  (∀ (s : State) (n : Fin 4),
    (∀ m : Master, (asBnm m = true ∨ m = .host) → debugOk s m →
      (s.rbit (R.ringCfg n) 16 = false → ∃ t, exec (.ringEnable m n) s = .next t ∧ DeviceOnly s t ∧
        t.rbit (R.ringCfg n) 16 = true ∧ t.reg (R.ringChead n) = 0 ∧ t.reg (R.ringCtail n) = 0 ∧
        t.reg (R.ringShead n) = 0 ∧ t.reg (R.ringStail n) = 0x10000 ∧ t.rbit (R.ringStat n) 1 = false ∧
        (t.cmds.rings[n]).prev = none ∧ (t.cmds.rings[n]).head = 0) ∧
      (s.rbit (R.ringCfg n) 16 = true → ∃ t, exec (.ringDisable m n) s = .next t ∧ DeviceOnly s t ∧
        t.rbit (R.ringCfg n) 16 = false ∧ RegsBut [R.ringCfg n, R.ringStat n] s t ∧
        (∀ r, (s.cmds.rings[n]).run = some r → r.final = none → (t.cmds.rings[n]).drop = true))) ∧
    (∀ (r : Running) (frac : BitVec 16), (s.cmds.rings[n]).run = some r → r.final = none → r.pkt.prog = true →
      r.pkt.long = true → (s.cmds.rings[n]).fwd = none → (s.cmds.rings[n]).drop = false → s.sFull n = false →
      s.rbit R.pxLink 0 = true →
      ∃ t, exec (.progressReply n frac) s = .next t ∧ DeviceOnly s t ∧ (t.cmds.rings[n]).run = some r ∧
        t.hbytes (s.sBase n + 16 * s.rfld (R.ringStail n) 15 0) 8 =
          leBytes 2 r.pkt.tag ++ [1, 0] ++ wordBytes (frac.zeroExtend 32)) ∧
    (∀ p : Packet, (s.cmds.rings[n]).fwd = some p →
      ∃ u, exec (.forwardTimeout n) s = .next (finishCmd u (.ring n) p ⟨0x70, BitVec.ofNat 32 p.dev, 0⟩) ∧
        DeviceOnly s u ∧ u.regs = s.regs ∧ (u.cmds.rings[n]).fwd = none ∧ (u.cmds.rings[n]).run = (s.cmds.rings[n]).run)) ∧
  (∀ (s : State) (n : Fin 4) (e : Nat), e < 256 →
    (s.rbit (R.ringStat n) 1 = true → haltRing s n e = s) ∧
    (s.rbit (R.ringStat n) 1 = false →
      let r := haltRing s n e
      r.rbit (R.ringStat n) 1 = true ∧ r.rfld (R.ringStat n) 15 8 = e ∧ r.rbit (R.ringStat n) 0 = s.rbit (R.ringStat n) 0 ∧
      (bit (s.reg (R.evcfg 497)) 8 = true → bit (s.reg (R.evcfg 497)) 9 = false → r.rbit (R.evcPend 15) 17 = true) ∧
      (wfld (s.reg (R.lbRate 6)) 15 0 = 0 → s.rbit (R.lbTrig 15) 17 = false → ∃ w, r.log.waiting.getLast? =
        some ⟨0, 6, 1, s.time.toNat, 0x213 + n.val, 0, w⟩ ∧ w.head? = some (BitVec.ofNat 32 e)) ∧
      r.cmds = s.cmds ∧ r.chans = s.chans ∧ ∀ a, r.byte a = s.byte a))

/-- The head packet of a ring starts (R341, R351, R355): its entries are consumed and counted, and it runs, or ends
with the status of the first check it fails; only a refused proposal or confirmation is an outcome beside (R302). A
read that host memory refuses halts the ring (R343). MBX_CTL.GO while MBX_STAT.BUSY is 0 (R354, R400): EV391 is
asserted; while a ring is enabled the mailbox answers 0030h at once; otherwise the packet in MBX_REQ is launched, or
waits while it cannot start. Of the model's choosing: the order of the checks (log 13) and of a refused GO (log 23).
-/
def Obligations.PacketsStart : Prop :=
  (∀ (s : State) (n : Fin 4), s.startable n = true → (∀ m, m < n → s.startable m = false) →
    let head := s.rfld (R.ringChead n) 15 0
    let k := entriesOf (parsePacket (entryBytes s n head 1)).len
    let l := entryBytes s n head k
    let p := parsePacket l
    let u := ((s.setReg (R.ringChead n) (BitVec.ofNat 32 ((head + k) % s.cSize n))).modReg (R.ringCmdCnt n) (· + 1)).setBit
      (R.ringStat n) 0 true
    exec (.packetStart n false) s = .next (haltRing s n 2) ∧
    (s.rbit R.pxLink 0 = true → routeOf u (.ring n) p = .here →
      (checkPacket u (.ring n) (s.cmds.rings[n]).prev l = none → p.opcode ≠ 0x0105 → p.opcode ≠ 0x0106 →
        p.opcode ≠ 0x0108 → ∃ t, exec (.packetStart n true) s = .next t ∧ DeviceOnly s t ∧
          (t.cmds.rings[n]).run = some ⟨p, fastPath u (.ring n) p, none, none⟩ ∧
          t.reg (R.ringCmdCnt n) = s.reg (R.ringCmdCnt n) + 1 ∧
          t.reg (R.ringChead n) = BitVec.ofNat 32 ((head + k) % s.cSize n) ∧ t.rbit (R.ringStat n) 0 = true ∧
          RegsBut [R.ringChead n, R.ringCmdCnt n, R.ringStat n] s t) ∧
      (∀ st, checkPacket u (.ring n) (s.cmds.rings[n]).prev l = some st →
        ∃ v, exec (.packetStart n true) s = .next (finishCmd v (.ring n) p st) ∧ DeviceOnly s v ∧
          (p.cls ≠ 3 ∨ n = 0 → v.regs = u.regs)))) ∧
  (∀ (s : State) (v : Word), bit v 0 = true → s.mbxBusy = false → s.rst.hold = none →
    let l := s.cmds.mbxReq ++ List.replicate (1040 - s.cmds.mbxReq.length) 0
    let w : WaitPkt := ⟨.mailbox, l, 0, 0⟩
    let u := assertEvent { s with cmds := { s.cmds with mbxDone := false } } 391
    ((∃ n : Fin 4, s.rbit (R.ringCfg n) 16 = true) → ∃ t, exec (.mbxGo v) s = .next t ∧ DeviceOnly s t ∧
      t.cmds.mbxReply = statusBytes (parsePacket l) ⟨0x30, 0, 0⟩ false true true ∧ t.cmds.mbxDone = true ∧
      t.cmds.mbx = s.cmds.mbx ∧ t.regs = u.regs) ∧
    ((∀ n : Fin 4, s.rbit (R.ringCfg n) 16 = false) →
      (u.mayStart w = true → exec (.mbxGo v) s = .next (launch u .mailbox none l)) ∧
      (u.mayStart w = false → exec (.mbxGo v) s =
        .next { u with cmds := { u.cmds with waiting := u.cmds.waiting ++ [w] } })))

/-! ### Channel commands (11 R357-R359) -/

/-- The channel commands on a stopped channel (R357-R359): LOADCTX writes G0 to G15 and the control registers from the
record, SETREGION the region map, GRANT PMASK and WEIGHT unless a pipe lies outside XBG_GPOLn, START runs the channel.
In another state LOADCTX and START give 0030h with the state. CH_STOP and CH_QUIESCE (R359): a running channel with
nothing in flight stops at its pc; a channel already stopped answers DETAIL bit 1 with its WM or pc; CH_STOP takes a
channel out of lockup and releases its Ledger context. -/
def Obligations.ChannelCommands : Prop :=
  (∀ (s : State) (src : CmdSrc) (p : Packet),
    let c := p.chan
    let ch := s.chan c
    let wrong : Status := ⟨0x30, BitVec.ofNat 32 ch.st.code, 0⟩
    (Runs s src 0x0101 p →
      (ch.st = .stopped → ∃ u, exec (.chLoadctx src) s = .next (finishCmd u src p ⟨0, 0, 0⟩) ∧ OnlyChan c s u ∧
        (∀ r : Reg, (u.chan c).rg r = p.pw (4 * r.val)) ∧ (u.chan c).pc = p.pw 64 ∧
        (u.chan c).csw = masked 0x0F0FFFFF ch.csw (p.pw 68) ∧ (u.chan c).fsw = p.pw 72 &&& 0x71F ∧
        (u.chan c).slim = p.pw 76 &&& 0xFFFFFFF8 ∧ (u.chan c).lsav = p.pw 80 &&& 0xFFFFFF00 ∧
        (u.chan c).vbar = p.pw 84 &&& 0xFFFFC000 ∧ (u.chan c).vl = min (p.pw 88).toNat 256 ∧ (u.chan c).sc = p.pw 92 ∧
        (u.chan c).wm = p.pw 96 ∧ (u.chan c).st = .stopped) ∧
      (ch.st ≠ .stopped → exec (.chLoadctx src) s = .next (finishCmd s src p wrong))) ∧
    (Runs s src 0x0102 p → wfld p.p0 11 8 + wfld p.p0 19 16 < 16 →
      ∃ u, exec (.chSetregion src) s = .next (finishCmd u src p ⟨0, 0, 0⟩) ∧ OnlyChan c s u ∧
        (∀ i, i ≤ wfld p.p0 19 16 → (u.chan c).rbase.toList[wfld p.p0 11 8 + i]? = some (p.pw (8 * i)) ∧
          (u.chan c).rattr.toList[wfld p.p0 11 8 + i]? = some (p.pw (8 * i + 4) &&& 0x1F0FFF)) ∧
        u.chan c = { ch with rbase := (u.chan c).rbase, rattr := (u.chan c).rattr }) ∧
    (Runs s src 0x0103 p →
      let bad := p.p1 &&& ~~~ s.reg (R.xbgGpol c)
      let w := wfld p.p0 11 8
      (bad = 0 → ∃ u, exec (.chGrant src) s = .next (finishCmd u src p ⟨0, 0, ch.pmask⟩) ∧ OnlyChan c s u ∧
        u.chan c = { ch with pmask := p.p1, weight := if w = 0 then ch.weight else w }) ∧
      (bad ≠ 0 → exec (.chGrant src) s = .next (finishCmd s src p ⟨0x32, bad, 0⟩))) ∧
    (Runs s src 0x0104 p →
      (ch.st = .stopped → ∃ u, exec (.chStart src) s = .next (finishCmd u src p ⟨0, 0, 0⟩) ∧ (u.chan c).st = .running ∧
        (u.chan c).pc = ch.pc ∧ (u.chan c).csw = ch.csw ∧ (u.chan c).g = ch.g ∧ (u.chan c).icache = [] ∧
        (u.chan c).fbuf = [] ∧ ∀ d, d ≠ c → (u.chan d).st = (s.chan d).st) ∧
      (ch.st ≠ .stopped → exec (.chStart src) s = .next (finishCmd s src p wrong)))) ∧
  (∀ (s : State) (src : CmdSrc) (p : Packet),
    let c := p.chan
    let ch := s.chan c
    let still := ch.st = .running ∧ ch.wait = .none ∧ ch.window = none ∧ ch.slots = [] ∧ ch.group = none ∧
      ch.drains = [] ∧ ch.heldX = none ∧ ch.remotes = []
    let halts := fun (t : State) => (t.chan c).st = .stopped ∧ (t.chan c).req = none ∧ (t.chan c).pc = ch.pc ∧
      (t.chan c).wm = ch.wm ∧ (t.chan c).lrs = false ∧ t.lge.loc[c] = .none ∧ (∀ a, t.byte a = s.byte a) ∧
      ∀ d, d ≠ c → t.chan d = s.chan d
    (Runs s src 0x0105 p →
      (still → ∃ t, exec (.chStop src) s = .next t ∧ halts t) ∧
      (ch.st = .stopped → ch.req = none → exec (.chStop src) s = .next (finishCmd s src p ⟨0, 2, ch.wm⟩)) ∧
      (ch.st = .halted → exec (.chStop src) s = .next (finishCmd s src p ⟨0x30, 3, 0⟩)) ∧
      (ch.st = .lockedUp → ∃ u, exec (.chStop src) s = .next (finishCmd u src p ⟨0, 0, ch.wm⟩) ∧
        u.chan c = { ch with st := .stopped } ∧ u.rbit R.evcLockStat c.val = false ∧ u.lge.loc[c] = .none)) ∧
    (Runs s src 0x0106 p →
      (still → ∃ t, exec (.chQuiesce src) s = .next t ∧ halts t) ∧
      (ch.st = .stopped → ch.req = none → exec (.chQuiesce src) s = .next (finishCmd s src p ⟨0, 2, ch.pc⟩)) ∧
      (ch.st = .halted ∨ ch.st = .lockedUp → exec (.chQuiesce src) s =
        .next (finishCmd s src p ⟨0x30, BitVec.ofNat 32 ch.st.code, 0⟩))))

/-- The end of a ring's command while its status ring has space and the link is up (R347-R349): the 16 bytes of the
status go to the entry at STAIL, which moves on, PHASE turning where it wraps; the ring runs nothing and keeps the
code for COND. CH_READCTX writes the context record of a channel that does not run to host memory, 128 bytes with G0
first, or ends with 0040h while the link is down; DEV_RESET asks for its reset; MEM_STATUS, LB_STATUS, XB_STATUS and
CAS_SETROLE answer what they name (R356, R357, R359, R360). Of the model's choosing: host memory is a memory of the
model (log 8), and the reset of DEV_RESET is asked for and not yet begun (log 23). -/
def Obligations.StatusCommands : Prop :=
  (∀ (s : State) (n : Fin 4) (r : Running) (p : Packet) (st : Status),
    (s.cmds.rings[n]).run = some r → (s.cmds.rings[n]).drop = false → s.sFull n = false → s.rbit R.pxLink 0 = true →
    s.rbit (R.evcfg 496) 9 = false →
    let tail := s.rfld (R.ringStail n) 15 0
    let phase := s.rbit (R.ringStail n) 16
    let t := finishCmd s (.ring n) p st
    DeviceOnly s t ∧ (t.cmds.rings[n]).run = none ∧ (t.cmds.rings[n]).prev = some st.code ∧
      t.rfld (R.ringStail n) 15 0 = (tail + 1) % s.sSize n ∧
      t.rbit (R.ringStail n) 16 = (phase != ((tail + 1) % s.sSize n == 0)) ∧ t.rbit (R.ringStat n) 0 = false ∧
      t.hbytes (s.sBase n + 16 * tail) 16 =
        leBytes 2 r.pkt.tag ++ leBytes 2 st.code ++ wordBytes st.detail ++ wordBytes st.result ++ leBytes 2 r.pkt.opcode ++
        [BitVec.ofNat 8 (phase.toNat + 2 + 4 * r.fast.toNat), 0]) ∧
  (∀ (s : State) (src : CmdSrc) (p : Packet),
    let ch := s.chan p.chan
    (Runs s src 0x0107 p → ch.st ≠ .running → ch.st ≠ .waiting →
      (s.rbit R.pxLink 0 = true → ∃ u, exec (.chReadctx src) s = .next (finishCmd u src p ⟨0, 0, 0⟩) ∧
        u.regs = s.regs ∧ DeviceOnly s u ∧ (∀ r : Reg, leAt (u.hbytes (p.pq 0) 128) (4 * r.val) 4 = (ch.rg r).toNat) ∧
        leAt (u.hbytes (p.pq 0) 128) 64 4 = ch.pc.toNat ∧ leAt (u.hbytes (p.pq 0) 128) 68 4 = ch.csw.toNat ∧
        leAt (u.hbytes (p.pq 0) 128) 96 4 = ch.wm.toNat) ∧
      (s.rbit R.pxLink 0 = false → exec (.chReadctx src) s =
        .next (finishCmd s src p ⟨0x40, BitVec.ofNat 32 (p.pq 0), 0⟩))) ∧
    (Runs s src 0x0108 p → exec (.devReset src) s = .next (finishCmd
      { s with cmds := { s.cmds with asked := some (bit p.p0 0) } } src p ⟨0, 0, 0⟩)) ∧
    (Runs s src 0x0205 p → exec (.memStatus src) s = .next (finishCmd s src p ⟨0, 0, s.reg R.smsMinit⟩)) ∧
    (Runs s src 0x0504 p → exec (.lbStatus src) s =
      .next (finishCmd s src p ⟨0, s.reg R.lbLostCnt, BitVec.ofNat 32 s.log.recs.length⟩)) ∧
    (Runs s src 0x0303 p → exec (.xbStatus src) s =
      .next (finishCmd s src p ⟨0, s.reg R.xbgNonce, s.reg R.xbgStat⟩)) ∧
    (Runs s src 0x0702 p → exec (.casSetrole src) s = .next (finishCmd
      { s with bnm := { s.bnm with role := bit p.p0 0 } } src p ⟨0, 0, if s.bnm.role then 1 else 0⟩)) ∧
    (Runs s src 0x0701 p → ∃ up, exec (.casStatus src) s = .next (finishCmd s src p ⟨0, up, BitVec.ofNat 32
      (s.ifc.casc.index % 8 + s.ifc.casc.lodestar.toNat * 8 + s.ifc.casc.devices % 16 * 16)⟩) ∧
      ∀ q : Fin 4, up.getLsbD q.val = s.rbit (R.klStat q) 0))

/-- A copy within one line of good DRAM with key 0 (R360): MEM_WRITE stores the host's bytes, MEM_FILL the pattern in
every aligned word, MEM_READ writes memory's bytes to the host; RESULT is the number of bytes. MEM_PPR poisons every
line of the row. BANK_OWNER of a bank being wiped ends with 0030h, one that changes nothing answers the owner, and one
that changes it waits for the handover. Of the model's choosing: the pattern of MEM_FILL stands at aligned words (log
13), and host memory is a memory of the model (log 8). -/
def Obligations.MemoryCommands : Prop :=
  ∀ (s : State) (src : CmdSrc) (p : Packet),
    (∀ (pa n : Nat), s.sx.all = false → memFields p = (pa, n, 0) → foreignBank s pa n = none → s.target pa = .dram → s.inited pa = true →
      s.poison.contains (pa / 64) = false → s.seals = [] → s.keyWritable pa = true → 1 ≤ n → pa % 64 + n ≤ 64 →
      s.rbit R.pxLink 0 = true →
      (Runs s src 0x0201 p → ∃ u, exec (.memWrite src) s = .next (finishCmd u src p ⟨0, 0, BitVec.ofNat 32 n⟩) ∧
        Stores s u pa (s.hbytes (p.pq 0) n)) ∧
      (Runs s src 0x0203 p → ∃ u, exec (.memFill src) s = .next (finishCmd u src p ⟨0, 0, BitVec.ofNat 32 n⟩) ∧
        Stores s u pa ((List.range n).map fun k => (wordBytes p.p1).getD ((pa + k) % 4) 0)) ∧
      (Runs s src 0x0202 p → ∃ u, exec (.memRead src) s = .next (finishCmd u src p ⟨0, 0, BitVec.ofNat 32 n⟩) ∧
        (s.keyByte pa < pa / 64 * 64 ∨ pa / 64 * 64 + 64 ≤ s.keyByte pa →
          u.hbytes (p.pq 0) n = s.bytes pa n) ∧
        ∀ a, a ≠ s.keyByte pa → u.byte a = s.byte a)) ∧
    (Runs s src 0x0206 p → ∃ u, exec (.memPpr src) s = .next (finishCmd u src p ⟨0, 0, 0⟩) ∧
      (∀ l, l ∈ u.poison ↔ l ∈ s.poison ∨ l ∈ rowLines s ⟨p.p0.toNat % 8, by omega⟩ (wfld p.p0 3 3) (wfld p.p0 7 4)
        (wfld p.p0 12 8) (leAt p.payload 0 4)) ∧ (∀ a, u.byte a = s.byte a) ∧ ResvOnly s u) ∧
    (Runs s src 0x0204 p →
      let b : Fin 32 := ⟨p.p0.toNat % 32, by omega⟩
      let was := s.rfld (R.cbOwner b) 4 0
      let new := wfld p.p0 12 8
      (s.wiping.contains b.val = true → exec (.bankOwner src) s = .next (finishCmd s src p ⟨0x30, 1, 0⟩)) ∧
      (s.wiping.contains b.val = false → new = was → bit p.p0 16 = false → s.handover.any (·.1 == b.val) = false →
        ∃ u, exec (.bankOwner src) s = .next (finishCmd u src p ⟨0, 0, BitVec.ofNat 32 was⟩) ∧ u.handover = s.handover ∧
          DeviceOnly s u) ∧
      (s.wiping.contains b.val = false → new ≠ was → ∃ t r, exec (.bankOwner src) s = .next t ∧
        t.running src = some r ∧ r.pkt = p ∧ r.final = none ∧ r.waits = some (.bank b was (bit p.p0 16)) ∧
        t.reg (R.cbOwner b) = BitVec.ofNat 32 new ∧ DeviceOnly s t ∧ ∃ h ∈ t.handover, h.1 = b.val ∧ h.2.1 = new))

/-- Cross-bearing by packet (R299-R303): an accepted proposal is pending, raises XBG_NONCE and answers it; a
confirmation by another party that names it applies the change, here the OWNHO and wipe policy; one by the proposing
party ends it with outcome 6; once two seconds of Chronometer time have passed a timeout ends it with outcome 7, and
before that the command changes nothing (log 6). Of the model's choosing: the order of the refusals (log 24). -/
def Obligations.CrossBearing : Prop :=
  (∀ (s : State) (src : CmdSrc) (p : Packet) (q : Party), (∀ b, src ≠ .console b) → partyOfSrc s src = some q →
    (∀ x, s.bnm.prop = some x → s.time.toNat < x.time + 2000000000) →
    let item := leAt p.payload 0 1
    let nonce := p.pw 4
    let dig := p.pw 8
    (Runs s src 0x0301 p → s.reg R.xbgNonce ≠ 0xFFFFFFFF → nonce = s.reg R.xbgNonce →
      dig = bearingDigest item nonce (p.payload.drop 16) → validValue s item (p.payload.drop 16) = true →
      s.bnm.prop = none →
      ∃ u, exec (.xbPropose src) s = .next (finishCmd u src p ⟨0, 0, nonce + 1⟩) ∧ DeviceOnly s u ∧
        u.reg R.xbgNonce = nonce + 1 ∧
        u.bnm.prop = some ⟨q, item, nonce, dig, p.payload.drop 16, s.time.toNat⟩) ∧
    (∀ x, s.bnm.prop = some x → Runs s src 0x0302 p → item = x.item → nonce = x.nonce → dig = x.digest →
      (q = x.party → ∃ u, exec (.xbConfirm src) s = .next (finishCmd u src p ⟨0x50, 6, 0⟩) ∧ DeviceOnly s u ∧
        u.bnm.prop = none ∧ u.rfld R.xbgStat 19 16 = 6) ∧
      (q ≠ x.party → x.item = 2 → ∃ u, exec (.xbConfirm src) s = .next (finishCmd u src p ⟨0, 0, 0⟩) ∧ DeviceOnly s u ∧
        u.bnm.prop = none ∧ u.reg R.cbcPolicy = valWord x.value 0 ∧ u.rfld R.xbgStat 19 16 = 0))) ∧
  (∀ (s : State) x, s.bnm.prop = some x → s.time.toNat < x.time + 2000000000 → exec .crossBearingTimeout s = .next s) ∧
  (∀ (s : State) x, s.bnm.prop = some x → x.time + 2000000000 ≤ s.time.toNat → ∃ t, exec .crossBearingTimeout s = .next t ∧ DeviceOnly s t ∧ t.bnm.prop = none ∧
      t.rfld R.xbgStat 19 16 = 7)

/-- Telemetry and Logbook commands (R362, R372-R376, R450-R453): TLM_READ answers the item it names, temperatures
signed, TLM_SNAPSHOT writes 320 bytes, VCORE_SET answers the old target and sets the new, to which the set-point then
steps; LB_FREEZE sets the Binnacle's freeze bit, LB_READ writes the records, LB_CLEAR counts the clearing and leaves
one record. Of the model's choosing: host memory is a memory of the model (log 8). -/
def Obligations.TelemetryAndLogCommands : Prop :=
  ∀ (s : State) (src : CmdSrc) (p : Packet),
    (Runs s src 0x0401 p →
      (wfld p.p0 11 8 = 0 → exec (.tlmRead src) s = .next (finishCmd s src p
        ⟨0, 0, (s.bnm.sensors.temps.getD (p.p0.toNat % 256) 0).signExtend 32⟩)) ∧
      (wfld p.p0 11 8 = 1 → exec (.tlmRead src) s = .next (finishCmd s src p
        ⟨0, 0, (s.bnm.sensors.rails.getD (p.p0.toNat % 256) 0).zeroExtend 32⟩)) ∧
      (wfld p.p0 11 8 = 4 → exec (.tlmRead src) s = .next (finishCmd s src p ⟨0, 0, s.bnm.sensors.power⟩))) ∧
    (Runs s src 0x0402 p → s.rbit R.pxLink 0 = true → ∃ u, exec (.tlmSnapshot src) s =
      .next (finishCmd u src p ⟨0, 0, 320⟩) ∧ DeviceOnly s u ∧ u.regs = s.regs ∧ (snapshot s).length = 320 ∧
      u.hbytes (p.pq 0) 320 = snapshot s) ∧
    (Runs s src 0x0403 p → p.p0.toNat < 1024 → ∃ u, exec (.vcoreSet src) s = .next (finishCmd u src p
        ⟨0, if p.p0.toNat < 760 then 1 else 0, BitVec.ofNat 32 (s.rfld R.bnmVctl 9 0)⟩) ∧ DeviceOnly s u ∧
      u.rfld R.bnmVctl 9 0 = p.p0.toNat ∧
      u.bnm.sensors.setpoint = s.bnm.sensors.setpoint ∧
      u.bnm.sensors.goal = if s.bnm.sensors.throttle then s.bnm.sensors.goal else p.p0.toNat) ∧
    (Runs s src 0x0501 p → s.log.hold = [] → ∃ u, exec (.lbFreeze src) s =
      .next (finishCmd u src p ⟨0, 0, s.reg R.lbHoldLostCnt⟩) ∧ DeviceOnly s u ∧
      u.reg R.lbFrzMask = wbit (s.reg R.lbFrzMask) 16 (bit p.p0 0)) ∧
    (Runs s src 0x0502 p → s.rbit R.pxLink 0 = true →
      let rs := s.log.recs.reverse.filter fun r => p.pq 8 ≤ r.seq && r.seq < p.pq 8 + leAt p.payload 16 4
      ∃ u, exec (.lbRead src) s = .next (finishCmd u src p ⟨0, 0, BitVec.ofNat 32 rs.length⟩) ∧ DeviceOnly s u ∧
        u.log = s.log ∧ u = s.setHbytes (p.pq 0) (rs.flatMap LogRec.bytes)) ∧
    (Runs s src 0x0503 p → s.log.seq ≠ 0xFFFFFFFFFFFF → ∃ u, exec (.lbClear src) s =
      .next (finishCmd u src p ⟨0, 0, s.reg R.lbClrCnt + 1⟩) ∧ DeviceOnly s u ∧ u.reg R.lbClrCnt = s.reg R.lbClrCnt + 1 ∧
      u.reg R.lbLostCnt = 0 ∧ ∃ r, u.log.recs = [r] ∧ r.cls = 0 ∧ r.code = 1 ∧ r.seq = s.log.seq + 1)

/-- Firmware, attestation and debug commands (R288, R363, R380, R387, R391, R458-R464): FW_WRITE of an image that does
not verify answers 0041h with the stage and leaves the inactive slot invalid; FW_ACTIVATE of a valid slot makes it
active for the next start; ATT_MEAS writes its report with the signature of its digest; DBG_PEEK of good DRAM answers
the word and marks its key byte as used; DBG_HALT and DBG_RELEASE act on the channels they name. Of the model's
choosing: FW_ACTIVATE writes the boot descriptor at once (log 25), DBG_HALT ends when its halts are taken (log 27),
and signatures are functions without a body (log 1). -/
def Obligations.ServiceCommands : Prop :=
  ∀ (s : State) (src : CmdSrc) (p : Packet),
    let patch := bit p.p0 0
    let other := !runsB s patch
    (Runs s src 0x0601 p → s.rbit R.pxLink 0 = true →
      let l := s.hbytes (p.pq 0) (leAt p.payload 8 4)
      (∀ k, verifyImage s patch l = .fail k → ∃ u, exec (.fwWrite src) s =
        .next (finishCmd u src p ⟨0x41, BitVec.ofNat 32 k, 0⟩) ∧ DeviceOnly s u ∧
          u.fuses = s.fuses ∧ ((bootDesc s).seq + 1 < 2 ^ 32 → (bootDesc u).valid patch other = false)) ∧
      (∀ x, verifyImage s patch l = .ok x → ∃ u, exec (.fwWrite src) s =
        .next (finishCmd u src p ⟨0, 0, imgVersion l⟩) ∧ DeviceOnly s u ∧ u.fuses = s.fuses ∧
          ((bootDesc s).seq + 2 < 2 ^ 32 → (bootDesc u).valid patch other = true))) ∧
    (Runs s src 0x0602 p →
      ((bootDesc s).valid patch other = false → exec (.fwActivate src) s = .next (finishCmd s src p ⟨0x41, 0, 0⟩)) ∧
      ((bootDesc s).valid patch other = true → ∃ u, exec (.fwActivate src) s =
        .next (finishCmd u src p ⟨0, 0, imgVersion (slotBytes s patch other)⟩) ∧ DeviceOnly s u ∧
        (if patch then u.bnm.freshP else u.bnm.freshFw) = true ∧
        ((bootDesc s).seq + 1 < 2 ^ 32 → (if patch then (bootDesc u).pB else (bootDesc u).fwB) = other))) ∧
    (Runs s src 0x0603 p → exec (.fwInfo src) s = .next (finishCmd s src p
      ⟨0, imgVersion (slotBytes s patch other), imgVersion (slotBytes s patch (runsB s patch))⟩)) ∧
    (Runs s src 0x0801 p → s.rbit R.pxLink 0 = true → 
      let body := reportBody s ((p.payload.drop 8).take 32)
      let sig := Config.ecdsaSign s.fuses.attKey (sha384 body) s.free
      ∃ u, exec (.attMeas src) s = .next (finishCmd u src p ⟨0, 0, BitVec.ofNat 32 (body.length + 96)⟩) ∧
        DeviceOnly s u ∧ u.regs = s.regs ∧
        u.hbytes (p.pq 0) (body.length + 96) = body ++ beBytes 48 sig.1.toNat ++ beBytes 48 sig.2.toNat) ∧
    (Runs s src 0x0802 p → s.rbit R.pxLink 0 = true → ∃ u, exec (.attCert src) s = .next (finishCmd u src p
      ⟨0, 0, BitVec.ofNat 32 (min (leAt p.payload 8 4) Config.certChain.length)⟩) ∧ DeviceOnly s u ∧ u.regs = s.regs) ∧
    (Runs s src 0x0903 p → s.target (p.pq 0) = .dram → s.anyPoison (p.pq 0) 4 = false → s.seals = [] → ∃ u, exec (.dbgPeek src) s =
      .next (finishCmd u src p ⟨0, 0, u.word (p.pq 0)⟩) ∧ ResvOnly s u ∧ u.regs = s.regs ∧
      (∀ a, a ≠ s.keyByte (p.pq 0) → u.byte a = s.byte a) ∧
      (p.pq 0 / 4096 < s.ktBytes → s.poisoned (s.keyByte (p.pq 0)) = false →
        u.byte (s.keyByte (p.pq 0)) = s.byte (s.keyByte (p.pq 0)) ||| 2)) ∧
    (∀ k : Fin 16, p.p0 = BitVec.ofNat 32 (2 ^ k.val) →
      let c : Chan := k.castSucc
      (Runs s src 0x0901 p → (s.chan c).st = .running → (s.rbit R.sxHaltReq 16 = false) →
        ∃ t r, exec (.dbgHalt src) s = .next t ∧ t.rbit R.sxHaltReq c.val = true ∧ t.running src = some r ∧ r.pkt = p ∧
          r.waits = some (.halts p.p0) ∧ DeviceOnly s t) ∧
      (Runs s src 0x0902 p → (s.chan c).st = .halted → (s.chan c).drains = [] →
        ∃ u, exec (.dbgRelease src) s = .next (finishCmd u src p ⟨0, 0, p.p0⟩) ∧ (u.chan c).st = .running ∧
          (u.chan c).pc = (s.chan c).pc ∧ (u.chan c).g = (s.chan c).g ∧ ∀ d, d ≠ c → (u.chan d).st = (s.chan d).st))

/-! ### The Binnacle and the responder (12) -/

/-- The sensors and the voltage loop (R372-R377): a sample is kept and throttling begins at THROT; the step-rate
register takes its calibrated mean and its largest reading; while throttling downwards the set-point aimed at moves 10
mV and ends at FLOOR, while raising it ends at TARGET; a trip asks for a system reset with cause 10; a READ_VOUT more
than 15 mV off, or no acknowledgement, raises EV497 and is recorded. Of the model's choosing: the calibration factor
is in 65,536ths, and EST is rounded down (log 58); READ_VOUT of an unacknowledged command is free (log 1). -/
def Obligations.SensorsAndVoltage : Prop :=
  ∀ s : State,
    let x := s.bnm.sensors
    (∀ temps rails power, s.rst.hold = none →
      let hot := hottest temps
      ∃ t, exec (.sensorSample temps rails power) s = .next t ∧ DeviceOnly s t ∧
        t.bnm.sensors.temps = temps ∧ t.bnm.sensors.rails = rails ∧ t.bnm.sensors.power = power ∧
        t.bnm.sensors.time = s.time.toNat ∧ t.bnm.sensors.setpoint = x.setpoint ∧
        (sixteenths (s.rfld R.bnmTherm 7 0) ≤ hot → t.bnm.sensors.warned = true) ∧
        (hot ≤ sixteenths (s.rfld R.bnmTherm 7 0) - 80 → t.bnm.sensors.warned = false) ∧
        (sixteenths (s.rfld R.bnmTherm 15 8) ≤ hot → t.bnm.sensors.throttle = true ∧ t.bnm.sensors.rising = false) ∧
        (hot < sixteenths (s.rfld R.bnmTherm 15 8) → t.bnm.sensors.throttle = x.throttle) ∧
        (hot < sixteenths (s.rfld R.bnmTherm 7 0) → hot < sixteenths (s.rfld R.bnmTherm 15 8) → t.regs = s.regs)) ∧
    (∀ l, s.rst.hold = none → ∃ t, exec (.stepRateSample l) s = .next t ∧ DeviceOnly s t ∧ RegsBut [R.bnmTstep] s t ∧
      t.rfld R.bnmTstep 31 16 = l.foldl (fun n y => max n y.toNat) 0 ∧
      t.rfld R.bnmTstep 15 0 = l.foldl (fun n y => n + y.toNat) 0 * s.fuses.calib / (32 * 65536) % 65536 ∧
      t.bnm.sensors.srm = l ∧ t.bnm.sensors.hist = (t.rfld R.bnmTstep 15 0 :: x.hist).take 10000) ∧
    (x.throttle = true → x.rising = false → x.fault = false → s.rfld R.bnmVctl 25 16 < x.goal →
      ∃ t, exec (.throttleStep false) s = .next t ∧ DeviceOnly s t ∧ t.bnm.sensors.throttle = true ∧
        t.bnm.sensors.setpoint = x.setpoint ∧ t.bnm.sensors.goal = max (x.goal - 10) (s.rfld R.bnmVctl 25 16)) ∧
    (x.throttle = true → x.rising = true → x.fault = false →
      ∃ t, exec (.throttleStep true) s = .next t ∧ DeviceOnly s t ∧
        t.bnm.sensors.setpoint = x.setpoint ∧ t.bnm.sensors.goal = min (x.goal + 10) (s.rfld R.bnmVctl 9 0) ∧
        t.bnm.sensors.throttle = decide (x.goal + 10 < s.rfld R.bnmVctl 9 0)) ∧
    (s.rst.hold = none → ∃ t, exec .thermalTrip s = .next t ∧ DeviceOnly s t ∧ t.rst.therm = true ∧
      t.rst.req = some (joined s.rst.req .system 10 0)) ∧
    (s.rst.hold = none →
      let told := fun (u : State) (w : Word) => formRecord
        (assertEvent { u with bnm := { u.bnm with sensors := { x with fault := true } } } 497) 5 2 0x210
        [BitVec.ofNat 32 x.setpoint, w]
      (∀ v : BitVec 16, (x.setpoint + 15 < v.toNat ∨ v.toNat + 15 < x.setpoint) →
        exec (.regulatorFault (some v)) s = .next (told s (v.zeroExtend 32))) ∧
      (∀ v : BitVec 16, x.setpoint ≤ v.toNat + 15 → v.toNat ≤ x.setpoint + 15 → exec (.regulatorFault (some v)) s = .next s) ∧
      (exec (.regulatorFault none) s = .next (told { s with free := s.free + 1 } (Config.freeWord s.free))))

/-- The Binnacle's watchdog, tamper and life cycle (R395-R397): an expiry asks for a system reset with cause 7, and
the key 5A5Ah reloads the count; a tamper sets and counts its source, destroys the management key, starts the wipe of
the sealed bank and ends a pending proposal; item 07h is followed by a system reset with cause 13. Of the model's
choosing: a tamper is one step (log 16). -/
def Obligations.WatchdogTamperLifeCycle : Prop :=
  ∀ s : State,
    (s.rst.hold = none → s.bnm.halted = false → exec .binnacleWatchdogExpiry s = .next (asked s .system 7 0)) ∧
    (∀ (m : Master) (v : Word), asBnm m = true → debugOk s m →
      exec (.bnmWdgkickWrite m v) s = .next (if v.extractLsb' 0 16 = 0x5A5A then
        { s with bnm := { s.bnm with wdg := s.rfld R.bnmWdgCfg 13 0 * 1000000 } } else s)) ∧
    (∀ k : TamperSrc, (k = .pin → .io33 ∉ s.rst.rails) → (∀ src r, s.running src = some r → r.pkt.opcode ≠ 0x0601) → ∃ t, exec (.tamper k) s = .next t ∧
      DeviceOnly s t ∧ t.rbit R.bnmTamper (tamperBit k) = true ∧
      t.rfld R.bnmTamper 31 16 = (if s.rfld R.bnmTamper 31 16 = 0xFFFF then 0xFFFF else s.rfld R.bnmTamper 31 16 + 1) ∧
      t.bnm.mgmtKey = none ∧ t.wiping.contains 32 = true ∧ t.reg R.cbcSblend = 0 ∧ t.bnm.prop = none ∧
      (s.bnm.prop.isSome = true → t.rfld R.xbgStat 19 16 = 8) ∧ t.fuses = s.fuses) ∧
    (s.bnm.lcReset = true → s.rst.hold = none →
      exec .lifeCycleReset s = .next (asked { s with bnm := { s.bnm with lcReset := false } } .system 13 0))

/-- Settings, the console and the management VLAN (R382-R385, R484): a record is written when a mirrored field has
changed, and with one it is the newest; a credential whose digest a slot holds makes the console a party for ten
minutes, a third wrong one locks it; a key and a verifier are taken only from a party; a packet with no key or an old
counter is dropped and recorded, and an accepted one starts or waits. Of the model's choosing: an expiry of the
console's party or lock that comes before its time changes nothing (logs 6, 10), as a record does within 60 s of the
last one (R484); what is answered stands in the field answer (log 9), and decryption is a free function (log 1). -/
def Obligations.ConsoleAndSettings : Prop :=
  ∀ s : State,
    let con := s.bnm.console
    let put := fun k : Console => { s with bnm := { s.bnm with console := k } }
    (∀ n, newest s.nor.settings = some n → n.val ≠ settingsOf s → (∀ t, s.bnm.lastSet = some t → t + 60000000000 ≤ s.ticks) →
      ∃ t, exec (.settingsRecordWrite true) s = .next t ∧ t = { s with nor := t.nor, bnm := t.bnm } ∧
        ∃ r ∈ t.nor.settings, r.crcOk = true ∧ r.val = settingsOf s ∧ r.seq = n.seq + 1 ∧ r.pos = (n.pos + 1) % 85) ∧
    (∀ n ok, newest s.nor.settings = some n → n.val = settingsOf s → exec (.settingsRecordWrite ok) s = .next s) ∧
    (∀ t ok, s.bnm.lastSet = some t → s.ticks < t + 60000000000 → exec (.settingsRecordWrite ok) s = .next s) ∧
    (∀ d : BitVec 256, con.lock = none →
      let h := digest (beBytes 32 d.toNat)
      ((∃ i : Fin 4, s.fuses.verifiers[i] = some h) → ∃ t, exec (.operatorCredential d) s = .next t ∧ t.consoleIs3 = true ∧
        t = { put ⟨some (s.ticks + 600 * 1000000000), 0, none⟩ with answer := .bits [true] }) ∧
      ((∀ i : Fin 4, s.fuses.verifiers[i] ≠ some h) → ∃ t, exec (.operatorCredential d) s = .next t ∧
        t = { put t.bnm.console with answer := .bits [false] } ∧ t.bnm.console.party = con.party ∧
        t.bnm.console.fails = con.fails + 1 ∧ (con.fails < 2 → t.bnm.console.lock = none) ∧
        (con.fails = 2 → t.bnm.console.lock = some (s.ticks + 60 * 1000000000)))) ∧
    (∀ n, con.lock = some n → exec .consoleLockExpiry s = .next (if n ≤ s.ticks then put { con with lock := none } else s)) ∧
    (∀ n, con.party = some n → exec .consolePartyExpiry s = .next (if n ≤ s.ticks then put { con with party := none } else s)) ∧
    (exec .consoleLogout s = .next (put { con with party := none })) ∧
    (∀ k, s.consoleIs3 = true → s.wiping.contains 32 = false →
      exec (.managementKeyLoad k) s = .next { s with bnm := { s.bnm with mgmtKey := some k } }) ∧
    (∀ (i : Fin 4) v, s.consoleIs3 = true → ∃ t, exec (.verifierProgram i v) s = .next t ∧
      t = { s with fuses := t.fuses } ∧ t.fuses.verifiers[i] = some ((s.fuses.verifiers[i]).getD 0 ||| v) ∧
      ∀ j, j ≠ i → t.fuses.verifiers[j] = s.fuses.verifiers[j]) ∧
    (∀ k, s.consoleIs3 = false → exec (.managementKeyLoad k) s = .next s) ∧
    (∀ (p : NxPort) l, ((s.ifc.nx[p]).up && s.rbit (R.nxCfg p) 5) = false → exec (.managementPacket p l) s = .next s) ∧
    (∀ (p : NxPort) l, (s.ifc.nx[p]).up = true → s.rbit (R.nxCfg p) 5 = true → s.rst.hold = none → s.bnm.mgmtKey = none → exec (.managementPacket p l) s =
      .next (formRecord s 5 4 0x218 [BitVec.ofNat 32 p.val, BitVec.ofNat 32 (leAt l 4 8)])) ∧
    (∀ (p : NxPort) l k, (s.ifc.nx[p]).up = true → s.rbit (R.nxCfg p) 5 = true → s.rst.hold = none → s.bnm.mgmtKey = some k → leAt l 4 8 ≤ s.bnm.rxLast →
      exec (.managementPacket p l) s =
        .next (formRecord s 5 4 0x218 [BitVec.ofNat 32 p.val, BitVec.ofNat 32 (leAt l 4 8)])) ∧
    (∀ (p : NxPort) l k plain, (s.ifc.nx[p]).up = true → s.rbit (R.nxCfg p) 5 = true → s.bnm.mgmtKey = some k → leAt l 1 1 = 0 → 28 ≤ l.length →
      Config.gcmOpen k (vlanIv 0 (leAt l 4 8)) (l.take 12) (l.drop 12) = some plain →
      s.bnm.rxLast < leAt l 4 8 → leAt l 4 8 ≤ s.bnm.rxCeil → s.rst.hold = none →
      (s.cmds.vlan = none → (∀ w ∈ s.cmds.waiting, w.src ≠ .vlan) → s.packetsOk = true → s.bnm.halted = false →
        objBusy s .vlan (parsePacket plain).objs = false → (parsePacket plain).fence = false →
        exec (.managementPacket p l) s = .next (launch { s with
          bnm := { s.bnm with rxLast := leAt l 4 8 }
          cmds := { s.cmds with vlanPort := p, vlanKey := l.headD 0, vlanData := [] } } .vlan none plain)) ∧
      (s.cmds.vlan ≠ none → exec (.managementPacket p l) s = .next { s with
        bnm := { s.bnm with rxLast := leAt l 4 8 }
        cmds := { s.cmds with waiting := s.cmds.waiting ++ [⟨.vlan, plain, p, l.headD 0⟩] } }))

/-- The responder (R381, R402): a request raises EV395; GET_VERSION answers version 1.2 and begins the negotiation,
which GET_CAPABILITIES and NEGOTIATE_ALGORITHMS carry on; digests, certificate, challenge and measurements answer once
the algorithms stand, the last two signed with the attestation key; an unknown request and one out of order are
answered with ERROR. Of the model's choosing: the reply stands in the field answer (log 9), nonces are free values
(log 1), and signatures cover an opaque digest of the messages (log 63). -/
def Obligations.ResponderAnswers : Prop :=
  ∀ s : State, s.rst.hold = none → s.rbit R.pxLink 0 = true → s.bnm.halted = false →
    let u := assertEvent s 395
    let at_ := fun k : Spdm => { u with bnm := { u.bnm with spdm := k } }
    (∀ i : Byte, exec (.doeDiscovery i) s = .next { u with answer := .bytes (if i = 0 then [1, 0, 0, 1]
      else if i = 1 then [1, 0, 1, 0] else [0xFF, 0xFF, 0, 0]) }) ∧
    let reply := fun (req resp : List Byte) =>
      ({ at_ { u.bnm.spdm with msgs := resp :: req :: s.bnm.spdm.msgs } with answer := .bytes resp } : State)
    let signed := fun (req body : List Byte) =>
      let sig := Config.ecdsaSign s.fuses.attKey (Config.spdmDigest s.bnm.spdm.msgs req body) (u.free + 1)
      body ++ beBytes 48 sig.1.toNat ++ beBytes 48 sig.2.toNat
    (exec .getVersion s = .next { at_ ⟨true, false, false, [[0x10, 0x04, 0, 0, 0, 1, 0, 0x12], [0x10, 0x84, 0, 0]]⟩ with
      answer := .bytes [0x10, 0x04, 0, 0, 0, 1, 0, 0x12] }) ∧
    (s.bnm.spdm.version = true → ∃ t l, exec .getCapabilities s = .next t ∧ t.bnm.spdm.caps = true ∧ t.answer = .bytes l ∧
      l.take 2 = [0x12, 0x61] ∧ leAt l 8 4 = 0x16 ∧ DeviceOnly s t ∧ t.regs = u.regs) ∧
    (s.bnm.spdm.version = false → exec .getCapabilities s = .next { u with answer := .bytes [0x12, 0x7F, 4, 0] }) ∧
    (s.bnm.spdm.caps = true → ∃ t l, exec (.negotiateAlgorithms true true) s = .next t ∧ t.bnm.spdm.algs = true ∧
      t.answer = .bytes l ∧ l.take 2 = [0x12, 0x63] ∧ leAt l 8 4 = 4 ∧ leAt l 12 4 = 0x80 ∧ leAt l 16 4 = 2 ∧
      DeviceOnly s t ∧ t.regs = u.regs) ∧
    (∀ c : Byte, exec (.spdmUnsupportedRequest c) s = .next { u with answer := .bytes [0x12, 0x7F, 7, c] }) ∧
    (s.bnm.spdm.algs = false → exec .getDigests s = .next { u with answer := .bytes [0x12, 0x7F, 4, 0] }) ∧
    (s.bnm.spdm.algs = true →
      (exec .getDigests s = .next (reply [0x12, 0x81, 0, 0] ([0x12, 0x01, 0, 1] ++ sha384 spdmChain))) ∧
      (∀ (off len : BitVec 16), off.toNat < spdmChain.length →
        let part := (spdmChain.drop off.toNat).take len.toNat
        exec (.getCertificate 0 off len) s = .next (reply ([0x12, 0x82, 0, 0] ++ leBytes 2 off.toNat ++ leBytes 2 len.toNat)
          ([0x12, 0x02, 0, 0] ++ leBytes 2 part.length ++ leBytes 2 (spdmChain.length - off.toNat - part.length) ++
            part))) ∧
      (∀ n, ∃ t f, exec (.challenge 0 n) s = .next t ∧ f.length = 32 ∧
        t.answer = .bytes (signed ([0x12, 0x83, 0, 0] ++ leBytes 32 n.toNat)
          ([0x12, 0x03, 0, 1] ++ sha384 spdmChain ++ f ++ [0, 0])) ∧ DeviceOnly s t ∧ t.regs = u.regs) ∧
      (∀ (i : Fin 8) n, ∃ t l, exec (.getMeasurements (BitVec.ofNat 8 (i.val + 1)) n) s = .next t ∧
        t.answer = .bytes (signed ([0x12, 0xE0, 1, BitVec.ofNat 8 (i.val + 1)] ++ leBytes 32 n.toNat ++ [0]) l) ∧
        (l.drop 15).take 48 = leBytes 48 (s.bnm.meas[i]).toNat ∧ DeviceOnly s t ∧ t.regs = u.regs))

/-! ### The host and the network ports (13) -/

/-- Host accesses (R403-R405): one that does not lie within an aligned word sets the AER bit, raises EV393, and a read
of it ends with Completer Abort; a hidden block reads 0 and discards a write, an offset in no block is answered by the
default target, and any other BAR0 access is one of the control space; BAR4 reads and writes a chart bank whose owner
is 11h, and a read of a bank with another owner completes with Completer Abort. A write of BAR2 or of the control
space by REGISTER_WRITE does what the register's own command does. Outbound reads, resets and the link (R402, R407,
R408): a completion delivers its data to its load, an unsuccessful one or a timeout raises EV396, undoes what followed
the load, and takes the load's data exception; PERST and hot reset raise EV385 and ask for the level of RSTLVL; a
function-level reset disables the rings and clears the MSI-X table; a link change raises EV384. Of the model's
choosing: what is read stands in the field answer (log 9); configuration words that no rule states are free (log 35),
the bits of the capability registers are those of PCI Express Base 5.0 (log 59), how a load of more than one piece or
line ends is free (log 68), and what follows a load that fails is undone (log 50). -/
def Obligations.HostAccesses : Prop :=
  (∀ s : State, s.rst.hold = none → s.rbit R.pxLink 0 = true →
    (∀ a : WordAccess,
      let o := a.offset.toNat / 4 * 4
      let bad := assertEvent { s with ifc := { s.ifc with aer := wbit s.ifc.aer 15 true } } 393
      (a.beyond = true → a.wdata = none → exec (.bar0Access a) s = .next { bad with answer := .abort }) ∧
      (a.beyond = true → a.wdata.isSome = true → exec (.bar0Access a) s = .next bad) ∧
      (a.beyond = false → inBlock o = true → barHidden o = true → a.wdata = none →
        exec (.bar0Access a) s = .next { s with answer := .word 0 }) ∧
      (a.beyond = false → inBlock o = true → barHidden o = true → a.wdata.isSome = true → exec (.bar0Access a) s = .next s) ∧
      (a.beyond = false → inBlock o = false → a.wdata = none → exec (.bar0Access a) s =
        .next { defaultAnswer s .host (0x900000000000 + o) false with answer := .abort }) ∧
      (a.beyond = false → inBlock o = true → barHidden o = false → a.wdata = none → exec (.bar0Access a) s =
        .next { (ctlRead s .host o).2 with answer := .word (ctlRead s .host o).1 }) ∧
      (∀ w, a.beyond = false → inBlock o = true → barHidden o = false → a.wdata = some w →
        exec (.bar0Access a) s = .next (ctlWrite s .host o a.be w))) ∧
    (∀ off : BitVec 26,
      let pa := 0x800000000000 + off.toNat / 4 * 4
      let b := off.toNat / 0x200000
      s.bankWaits b = false →
      (s.rfld (R.cbOwner b) 4 0 = 0x11 → s.anyPoison pa 4 = false →
        (∃ t, exec (.bar4Access off none 15) s = .next t ∧ t.answer = .word (s.word pa) ∧ t = { s with answer := t.answer }) ∧
        ∀ w, ∃ t, exec (.bar4Access off (some w) 15) s = .next t ∧ Puts s t pa (wordBytes w) ∧ t.regs = s.regs) ∧
      (s.rfld (R.cbOwner b) 4 0 ≠ 0x11 → ∃ t, exec (.bar4Access off none 15) s = .next t ∧ t.answer = .abort ∧
        DeviceOnly s t)) ∧
    (∀ (a : WordAccess) (w : Word), a.wdata = some w →
      (∀ m, inBlock (a.offset.toNat / 4 * 4) = true → a.offset.toNat / 4 * 4 ≠ R.sxFeedCtl → exec (.registerWrite m false a) s =
        .next (ctlWrite s m (a.offset.toNat / 4 * 4) a.be w)) ∧
      (∀ m, debugOk s m → inBlock (a.offset.toNat / 4 * 4) = false → exec (.registerWrite m false a) s =
        .next (defaultAnswer s m (0x900000000000 + a.offset.toNat / 4 * 4) true)) ∧
      (∀ m (n : Fin 4), a.beyond = false → a.offset.toNat / 4 * 4 = 8 * n.val → a.be = 15 →
        exec (.registerWrite m true a) s = .next (dbCtailWrite n w s)) ∧
      (∀ m (n : Fin 4), a.beyond = false → a.offset.toNat / 4 * 4 = 8 * n.val + 4 → a.be = 15 →
        exec (.registerWrite m true a) s = .next (dbSheadWrite n w s)))) ∧
  (∀ s : State, s.rst.hold = none →
    let lvl : Level := if s.rbit R.bnmLcs 4 = true ∨ s.rbit R.pxCfg 0 = false then .system else .core
    (∀ (c : Chan) (x : RLoad) (addr : Nat),
      s.ifc.remote = [⟨x.tag, c, false, addr⟩] → (s.chan c).remotes = [x] →
      let u := { s with ifc := { s.ifc with remote := [] } }
      let back := fun (v : State) (cause : Nat) =>
        tryExc (v.modChan c fun ch => ch.rewind x) c (dataExc x.base cause x.ea) x.pc
      (∀ w d v0 via sent, (s.chan c).loads = [⟨x.id, [.g d v0], via, sent⟩] → (s.chan c).heldX = none → (s.chan c).req = none →
        ∃ t, exec (.outboundCompletion x.tag (.success w)) s = .next t ∧ OnlyChan c u t ∧
          (t.chan c).rg d = loadVal x.kind (w.toNat % 2 ^ (8 * loadLen x.kind)) ∧
          (∀ r, r ≠ d → (t.chan c).rg r = (s.chan c).rg r) ∧
          t.chan c = { s.chan c with g := (t.chan c).g, loads := [], remotes := [], slots := (t.chan c).slots,
                                     group := (t.chan c).group }) ∧
      (∀ t, back (assertEvent u 396) 6 = some t → exec (.outboundCompletion x.tag .unsuccessful) s = .next t) ∧
      (timeoutDisabled s = true → exec (.outboundCompletionTimeout x.tag) s = .next s) ∧
      (∀ t, timeoutDisabled s = false → back (assertEvent (aerLog u 14) 396) 6 = some t →
        exec (.outboundCompletionTimeout x.tag) s = .next t) ∧
      (∀ t, back (assertEvent (aerLog u 12) 397) 7 = some t → exec (.outboundCompletion x.tag .poisoned) s = .next t)) ∧
    (exec .perst s = .next (asked (assertEvent s 385) lvl 4 0)) ∧
    (exec .hotReset s = .next (asked (assertEvent s 385) lvl 5 0)) ∧
    (s.rbit R.pxLink 0 = true → ∃ t u, exec .functionLevelReset s = .next t ∧ t = assertEvent u 386 ∧ DeviceOnly s u ∧
      (∀ n : Fin 4, t.rbit (R.ringCfg n) 16 = false) ∧ (∀ n : Ev, t.reg (R.msixTable n 3) = 1 ∧ t.reg (R.msixTable n 0) = 0) ∧
      t.ifc.cfg = [] ∧ t.ifc.aer = 0 ∧ t.ifc.msixEn = false ∧ t.ifc.fmask = false) ∧
    (∀ (sp : BitVec 3) (wd : BitVec 5), s.ifc.cfgMode ≠ 0 → s.rbit R.bnmLcs 4 = false →
      (s.rbit R.pxLink 0 = false → 1 ≤ sp.toNat → sp.toNat ≤ 5 → wd.toNat ∈ [1, 2, 4, 8, 16] →
        exec (.pcieLinkStateChange true sp wd) s =
        .next (assertEvent (s.setReg R.pxLink (BitVec.ofNat 32 (1 + sp.toNat * 2 + wd.toNat * 16))) 384)) ∧
      (s.rbit R.pxLink 0 = true → exec (.pcieLinkStateChange false sp wd) s =
        .next (assertEvent (s.setReg R.pxLink 0) 384))) ∧
    (∀ k : BitVec 12,
      (s.ifc.cfgMode = 1 → s.rbit R.bnmLcs 4 = false →
        exec (.configurationRequest k none) s = .next { s with answer := .retry }) ∧
      (s.ifc.cfgMode = 2 → k.toNat / 4 = 0 →
        exec (.configurationRequest k none) s = .next { s with answer := .word 0x74201E9D }) ∧
      (s.ifc.cfgMode = 2 → ∀ w, k.toNat / 4 * 4 ≠ 0 → k.toNat / 4 * 4 ≠ 8 → k.toNat / 4 * 4 ≠ 0x2C →
        k.toNat / 4 * 4 ≠ Config.msixCap → k.toNat / 4 * 4 ≠ Config.aerCap + 4 →
        k.toNat / 4 * 4 ≠ Config.pcieCap + 8 → k.toNat / 4 * 4 ≠ Config.pcieCap + 0x28 → ∃ t, exec (.configurationRequest k (some w)) s = .next t ∧
          t = { s with ifc := { s.ifc with cfg := t.ifc.cfg } } ∧ look cfgInit t.ifc.cfg (k.toNat / 4 * 4) =
            masked (cfgDesc (k.toNat / 4 * 4)).rw (look cfgInit s.ifc.cfg (k.toNat / 4 * 4)) w) ∧
      (s.ifc.cfgMode = 2 → ∀ w : Word, k.toNat / 4 * 4 = Config.pcieCap + 8 → bit w 15 = false → ∃ t, exec (.configurationRequest k (some w)) s = .next t ∧ t = { s with ifc := { s.ifc with cfg := t.ifc.cfg } } ∧
          (2 < wfld w 7 5 → (look cfgInit t.ifc.cfg (Config.pcieCap + 8)) &&& 0xE0 =
            (look cfgInit s.ifc.cfg (Config.pcieCap + 8)) &&& 0xE0)) ∧
      (s.ifc.cfgMode = 2 → k.toNat / 4 * 4 = 0x10 → ∃ w, w &&& 0x0FFFFFFF = 4 ∧
        exec (.configurationRequest k none) s = .next { s with answer := .word w })))

/-- Frames (R409-R418): a good frame is counted with its bytes; one that no rule takes, a pause frame and a bad one
are counted as such; a management packet raises its event and goes to the Binnacle; one that a rule takes, with a
valid header and a ring that is enabled, owns its bank and is not full, is written behind its descriptor into the next
slot. The ports' other steps (R409, R410, R416-R418): WIDX advances past a written slot and its threshold raises an
event; RIDX takes an index of the ring; enabling a ring clears its indices; a low read latches the high half; a sent
frame is counted and raises its event; a link change raises its event, and a port switched off loses its link. Of the
model's choosing: every frame a running port sees is counted (log 30), a management frame that a port receives is a
whole packet (log 14), and a sent frame stands in the field answer (log 9). -/
def Obligations.NetworkPorts : Prop :=
  (∀ (s : State) (p : NxPort) (f : EthFrame), (s.ifc.nx[p]).up = true → s.sx.all = false →
    let u := countNx (countNx s p 0 1) p 1 f.bytes
    (frameBad f = true → exec (.frameReceive p f) s = .next (countNx u p 2 1)) ∧
    (frameBad f = false → f.pause = true → exec (.frameReceive p f) s = .next (countNx u p 9 1)) ∧
    (frameBad f = false → f.pause = false →
      (isManagement s p f = true → exec (.frameReceive p f) s = .next (vlanPacket p f.payload (assertEvent u (320 + 16 * p.val + 9)))) ∧
      (isManagement s p f = false →
        ((∀ r, ruleMatches s p f r = false) → exec (.frameReceive p f) s = .next (countNx u p 3 1)) ∧
        (∀ r : Fin 16, ruleMatches s p f r = true → (∀ q, q < r → ruleMatches s p f q = false) →
          let g : Fin 4 := ⟨s.rfld (R.nxRuleMatch p r) 15 14 % 4, by omega⟩
          let cfg := s.reg (R.nxRingCfg p g)
          s.bankWaits (wfld cfg 4 0) = false →
          (headerOk f.payload = false → exec (.frameReceive p f) s = .next (countNx u p 4 1)) ∧
          (headerOk f.payload = true → bit cfg 16 = true → 16 + frameLen f.payload ≤ s.nxSlotBytes p g →
            (s.nxFull p g = true → exec (.frameReceive p f) s =
              .next (assertEvent (countNx u p 5 1) (320 + 16 * p.val + 6))) ∧
            (s.nxFull p g = false → s.rfld (R.cbOwner (wfld cfg 4 0)) 4 0 ≠ wfld cfg 8 5 →
              exec (.frameReceive p f) s = .next (countNx u p 6 1)) ∧
            (s.nxFull p g = false → s.rfld (R.cbOwner (wfld cfg 4 0)) 4 0 = wfld cfg 8 5 →
              seqGap s p r (BitVec.ofNat 32 (leAt f.payload 8 4)) = false →
              ∃ t, exec (.frameReceive p f) s = .next t ∧ Puts s t (s.nxSlotAddr p g (s.nxNext p g))
                (rxDescriptor s f (frameLen f.payload) r false ++ f.payload.take (frameLen f.payload)) ∧
                t.regs = s.regs ∧ (t.ifc.nx[p]).full[g] = (s.ifc.nx[p]).full[g] + 1)))))) ∧
  (∀ (s : State) (p : NxPort),
    (∀ g : Fin 4, (s.ifc.nx[p]).full[g] ≠ 0 →
      let n := s.nxSlots p g
      let w := (s.rfld (R.nxRingWidx p g) 10 0 + 1) % n
      let thr := s.rfld (R.nxRingThr p g) 10 0
      ∃ t, exec (.widxAdvance p g) s = .next t ∧ DeviceOnly s t ∧ t.reg (R.nxRingWidx p g) = BitVec.ofNat 32 w ∧
        (t.ifc.nx[p]).full[g] = (s.ifc.nx[p]).full[g] - 1 ∧ (thr = 0 → RegsBut [R.nxRingWidx p g] s t) ∧
        (thr ≠ 0 → thr ≤ (w + n - s.rfld (R.nxRingRidx p g) 10 0) % n →
          ∃ u, t = assertEvent u (320 + 16 * p.val + (2 + g.val)) ∧ RegsBut [R.nxRingWidx p g] s u)) ∧
    (∀ (m : Master) (g : Fin 4) (v : Word), (asBnm m = true ∨ m = .host) → debugOk s m →
      (v.toNat < s.nxSlots p g → v.toNat < 2048 → exec (.nxRidxWrite m p g v) s = .next (s.setReg (R.nxRingRidx p g) v)) ∧
      (s.rbit (R.nxRingCfg p g) 16 = false → bit v 16 = true → nxRingFits v = true →
        ∃ t, exec (.nxRingCfgWrite m p g v) s = .next t ∧ DeviceOnly s t ∧ t.reg (R.nxRingCfg p g) = v ∧
          t.reg (R.nxRingWidx p g) = 0 ∧ t.reg (R.nxRingRidx p g) = 0 ∧
          RegsBut [R.nxRingCfg p g, R.nxRingWidx p g, R.nxRingRidx p g] s t) ∧
      (s.rbit (R.nxRingCfg p g) 16 = true → bit v 16 = false → exec (.nxRingCfgWrite m p g v) s =
        .next (s.setReg (R.nxRingCfg p g) (wbit (s.reg (R.nxRingCfg p g)) 16 false))) ∧
      ((∀ q : Fin 4, q ≠ p → s.rbit (R.nxCfg q) 4 = false) →
        let w := masked 0x0FFF003F (s.reg (R.nxCfg p)) v
        ((s.ifc.nx[p]).up = false ∨ nxTrains w = true → exec (.nxCfgWrite m p v) s = .next (s.setReg (R.nxCfg p) w)) ∧
        ((s.ifc.nx[p]).up = true → wfld v 1 0 = 0 ∨ wfld v 1 0 = 3 →
          ∃ u, exec (.nxCfgWrite m p v) s = .next (assertEvent u (320 + 16 * p.val)) ∧ u.reg (R.nxCfg p) = w ∧
            (u.ifc.nx[p]).up = false ∧ u = { s with regs := u.regs, ifc := u.ifc }))) ∧
    (∀ (m : Master) (k : Fin 11), m ≠ .sextant → ∃ t, exec (.nxStatLowRead m p k) s = .next t ∧
      t.answer = .word ((s.ifc.nx[p]).stats[k].truncate 32) ∧ RegsBut [R.nxStatH p k] s t ∧
      t.reg (R.nxStatH p k) = ((s.ifc.nx[p]).stats[k] >>> 32).truncate 32 ∧ t = { s with regs := t.regs, answer := t.answer }) ∧
    (∀ x xs, (s.ifc.nx[p]).up = true → (s.ifc.nx[p]).tx = x :: xs → ∃ t, exec (.frameTransmit p false) s = .next t ∧
      t.answer = .bytes x.bytes ∧ (t.ifc.nx[p]).tx = xs ∧ DeviceOnly s t ∧
      (t.ifc.nx[p]).stats[(10 : Fin 11)] = (s.ifc.nx[p]).stats[(10 : Fin 11)] + 1) ∧
    ((s.ifc.nx[p]).up = true → ∃ u, exec (.ethernetLinkStateChange p false) s =
      .next (assertEvent u (320 + 16 * p.val)) ∧ u = { s with ifc := u.ifc } ∧ (u.ifc.nx[p]).up = false) ∧
    ((s.ifc.nx[p]).up = false → s.rst.hold = none → 4 ≤ s.rst.stage → s.rfld (R.nxCfg p) 1 0 = 1 → s.rfld (R.nxCfg p) 3 2 ≤ 1 →
      ∃ u, exec (.ethernetLinkStateChange p true) s = .next (assertEvent u (320 + 16 * p.val)) ∧
        u = { s with ifc := u.ifc } ∧ (u.ifc.nx[p]).up = true))

/-! ### Time, phase references, timers, pins and SMB1 (13 R419-R429) -/

/-- The Chronometer (R419, R420, R433): a message of the gPTP port more than 10 µs ahead steps it forward, any other
is removed by running fast or slow, and CHR_STAT shows the source; a loss clears SYNC and raises the port's event; an
armed alarm is disarmed and raises EV(506 + k); a read of the low word latches the high one. Timers (R421): an advance
to the compare value raises EV(8n + 2); the count returns to 0 when PER is 1, and otherwise stops at the compare value
with EN cleared; a wrap goes to 0 and raises nothing. A written value waits for the advance and takes effect. Of the
model's choosing: a compare value of 0 is met by the wrap (log 64), and an alarm that is due fires in its own step
(logs 10, 33). -/
def Obligations.TimeAndTimers : Prop :=
  (∀ s : State,
    (∀ (p : Fin 4) (g : GptpMsg), gptpPort s = some p → (s.ifc.nx[p]).up = true → s.follows = false →
      (g.offset ≤ 10000 → exec (.gptpMessage g) s =
        .next ({ s with ifc := { s.ifc with slew := g.offset } }.setReg R.chrStat 5)) ∧
      (10000 < g.offset → (∀ k, k < 4 → s.rbit R.chrArm k = false) → exec (.gptpMessage g) s =
        .next ({ s with time := s.time + BitVec.ofInt 64 g.offset, ifc := { s.ifc with slew := 0 } }.setReg R.chrStat 5))) ∧
    (∀ p : Fin 4, gptpPort s = some p → s.follows = false → exec .timeSynchronisationLost s =
      .next (assertEvent ({ s with ifc := { s.ifc with slew := 0 } }.setBit R.chrStat 2 false) (320 + 16 * p.val + 11))) ∧
    (∀ k : Fin 4, s.rbit R.chrArm k.val = true → s.time.toNat ≤ s.almTime k.val → s.almTime k.val ≤ s.time.toNat + 1 →
      (∀ j : Fin 4, j ≠ k → s.rbit R.chrArm j.val = true → s.almTime k.val < s.almTime j.val) →
      exec (.chronometerAlarm k) s = .next (assertEvent
        ({ s with time := BitVec.ofNat 64 (s.almTime k.val) }.setBit R.chrArm k.val false) (506 + k.val))) ∧
    (∀ (m : Master) (v : Word), debugOk s m →
      (∀ k, k < 4 → s.rbit R.chrArm k = true ∨ bit v k = true → s.time.toNat < s.almTime k) →
      exec (.chrArmWrite m v) s = .next (s.setReg R.chrArm (s.reg R.chrArm ||| (v &&& 0xF)))) ∧
    (∀ m : Master, m ≠ .sextant → exec (.chrTimelRead m) s = .next { s.setReg R.chrTimeH ((s.time >>> 32).truncate 32) with
      answer := .word (s.time.truncate 32) })) ∧
  (∀ (s : State) (n : Fin 16), s.rbit (R.tmrCfg n) 0 = true → (s.chan n.castSucc).st ≠ .halted → s.sx.all = false →
    let new := s.ifc.tmrNew[n]
    let cmp := new.1.getD (s.reg (R.tmrCmp n))
    (new.2.getD (s.reg (R.tmrCnt n) + 1) = cmp →
      let u := assertEvent ((takeTimer s n).setReg (R.tmrCnt n) cmp) (8 * n.val + 2)
      ∃ t, exec (.timerCompareMatch n) s = .next t ∧ DeviceOnly s t ∧ t.reg (R.tmrCmp n) = cmp ∧
        RegsBut [R.tmrCnt n, R.tmrCfg n] u t ∧
        (s.rbit (R.tmrCfg n) 1 = true → t.reg (R.tmrCnt n) = 0 ∧ t.rbit (R.tmrCfg n) 0 = true) ∧
        (s.rbit (R.tmrCfg n) 1 = false → t.reg (R.tmrCnt n) = cmp ∧ t.rbit (R.tmrCfg n) 0 = false)) ∧
    (s.reg (R.tmrCnt n) = 0xFFFFFFFF → new.2.getD 0 = 0 → cmp ≠ 0 →
      ∃ t, exec (.timerWrap n) s = .next t ∧ DeviceOnly s t ∧ t.reg (R.tmrCnt n) = 0 ∧
        RegsBut [R.tmrCnt n, R.tmrCmp n] s t ∧ t.reg (R.tmrCmp n) = cmp))

/-- Phase references and GPIO (R422, R423, R428): an edge outside the hold-off is counted, raises EV(416 + i) and is
stamped into the FIFO, or into its overrun count when the FIFO is full; one inside it is counted as rejected; a read
takes the oldest stamp. A selected edge of a pin raises EV(432 + i); SET and CLR change the pins they name. Of the
model's choosing: the stamp read stands in the field answer (log 9). -/
def Obligations.CapturesAndPins : Prop :=
  ∀ s : State,
    (∀ (i : Fin 16) (f : Bool), s.rst.hold = none → 4 ≤ s.rst.stage → s.rbit (R.kpCfg i) 0 = true → s.rbit (R.kpCfg i) 1 = f →
      (s.kpHeldOff i = false → ∃ t, exec (.phaseReferenceCapture i f) s = .next t ∧ DeviceOnly s t ∧
        t.reg (R.kpRevCnt i) = s.reg (R.kpRevCnt i) + 1 ∧ t.ifc.kpLast[i] = some s.ticks ∧
        ((s.ifc.kpFifo[i]).length < 16 → t.ifc.kpFifo[i] = s.ifc.kpFifo[i] ++ [s.time]) ∧
        (16 ≤ (s.ifc.kpFifo[i]).length → t.ifc.kpFifo[i] = s.ifc.kpFifo[i] ∧
          t.rfld (R.kpStat i) 19 8 = min 4095 (s.rfld (R.kpStat i) 19 8 + 1)) ∧
        (s.rbit (R.evcfg (416 + i.val)) 8 = true → s.rbit (R.evcfg (416 + i.val)) 9 = false →
          t.rbit (R.evcPend 13) i.val = true)) ∧
      (s.kpHeldOff i = true → ∃ t, exec (.phaseReferenceCapture i f) s = .next t ∧ t = { s with regs := t.regs } ∧
        RegsBut [R.kpStat i] s t ∧ t.rfld (R.kpStat i) 31 20 = min 4095 (s.rfld (R.kpStat i) 31 20 + 1))) ∧
    (∀ (m : Master) (i : Fin 16), m ≠ .sextant → ∀ x xs, s.ifc.kpFifo[i] = x :: xs →
      ∃ t, exec (.kpTslRead m i) s = .next t ∧ t.answer = .word (x.truncate 32) ∧ t.ifc.kpFifo[i] = xs ∧
        t.reg (R.kpTsh i) = (x >>> 32).truncate 32 ∧ RegsBut [R.kpTsh i] s t ∧ DeviceOnly s t) ∧
    (∀ (i : Fin 32) (b : Bool), s.rst.hold = none → 4 ≤ s.rst.stage → bit s.ifc.gpio i.val ≠ b → s.rbit R.gpioDir i.val = false →
      let u := { s with ifc := { s.ifc with gpio := wbit s.ifc.gpio i.val b } }
      let sel := bit (s.reg (R.gpioEdge (i.val / 16))) (2 * (i.val % 16) + (if b then 0 else 1))
      exec (.gpioEdge i b) s = .next (if sel then assertEvent u (432 + i.val) else u)) ∧
    (∀ (m : Master) (v : Word), debugOk s m →
      exec (.gpioSetWrite m v) s = .next (s.setReg R.gpioOut (s.reg R.gpioOut ||| v)) ∧
      exec (.gpioClrWrite m v) s = .next (s.setReg R.gpioOut (s.reg R.gpioOut &&& ~~~ v)))

/-- Trips and the heartbeat (R425, R426): ones set latches, TRIP_CLR clears them with its key C1E4h, but for those set
in the same tick, a changed mask is recorded; a kick restarts the period and clears EXPIRED, a zero period ends
supervision; an expiry sets EXPIRED, raises EV497 and is recorded; the output toggles while EXPIRED is 0. Of the
model's choosing: an expiry while EXPIRED is 1 raises nothing (log 33). -/
def Obligations.TripsAndHeartbeat : Prop :=
  ∀ (s : State) (m : Master) (v : Word), debugOk s m →
    ((∃ t, exec (.tripLatchWrite m v) s = .next t ∧ t.reg R.tripLatch = s.reg R.tripLatch ||| (v &&& 0xFF) ∧
        RegsBut [R.tripLatch] s t ∧ t = { s with regs := t.regs, ifc := { s.ifc with tripSet := t.ifc.tripSet } } ∧
        t.tripJust = s.tripJust ||| (v &&& 0xFF)) ∧
      exec (.tripHbkickWrite m v) s = .next (if v.extractLsb' 0 16 = 0xA55A ∧ s.rfld R.tripHbcfg 15 0 ≠ 0 then
        { s with ifc := { s.ifc with hbCnt := 0 } }.setBit R.tripHbcfg 16 false else s)) ∧
    (asBnm m = true ∨ m = .host →
      exec (.tripClrWrite m v) s = .next (if v.extractLsb' 16 16 = 0xC1E4 then
        s.setReg R.tripLatch (s.reg R.tripLatch &&& ~~~ (v &&& 0xFF &&& ~~~ s.tripJust)) else s) ∧
      (v &&& 0xFF ≠ s.reg R.tripMask → exec (.tripMaskWrite m v) s =
        .next (formRecord (s.setReg R.tripMask (v &&& 0xFF)) 7 1 (origin m) [s.reg R.tripMask, v &&& 0xFF])) ∧
      (∃ t, exec (.tripHbcfgWrite m v) s = .next t ∧ RegsBut [R.tripHbcfg] s t ∧
        t = { s with regs := t.regs, ifc := t.ifc } ∧
        (v.extractLsb' 0 16 = 0 → t.rfld R.tripHbcfg 15 0 = 0 ∧ t.rbit R.tripHbcfg 16 = false) ∧
        (v.extractLsb' 0 16 ≠ 0 → t.rfld R.tripHbcfg 15 0 = max 10 (v.extractLsb' 0 16).toNat ∧ t.ifc.hbCnt = 0 ∧
          t.rbit R.tripHbcfg 16 = s.rbit R.tripHbcfg 16))) ∧
    (s.rst.hold = none → 4 ≤ s.rst.stage → s.rbit R.tripHbcfg 16 = false →
      (s.rfld R.tripHbcfg 15 0 ≠ 0 → exec .heartbeatExpiry s = .next (formRecord (assertEvent
        ({ s with ifc := { s.ifc with hbLevel := false } }.setBit R.tripHbcfg 16 true) 497) 5 5 0x210
        [s.reg R.tripLatch, s.reg R.tripCfg])) ∧
      exec .heartbeatToggle s = .next { s with ifc := { s.ifc with hbLevel := !s.ifc.hbLevel, hbPhase := 0 } })

/-- SMB1 answers from start step 4 on (R429): READY, throttling, recovery and lockup; the hottest sensor; the power in
10 mW; VDD_CORE; RST_CAUSE as four bytes; any other command is not acknowledged. Of the model's choosing: the reply
stands in the field answer (log 9). -/
def Obligations.BoardBusAnswers : Prop :=
  ∀ s : State, s.rst.hold = none → 4 ≤ s.rst.stage →
    (∃ w, exec .smb1StatusRead s = .next { s with answer := .word w } ∧ bit w 0 = s.rbit R.rstStat 0 ∧
      bit w 1 = s.bnm.sensors.throttle ∧ bit w 2 = s.rbit R.bnmLcs 4 ∧ bit w 3 = (s.reg R.evcLockStat != 0) ∧ w.toNat < 16) ∧
    exec .smb1TemperatureRead s = .next { s with answer := .word ((BitVec.ofInt 16 (hottest s.bnm.sensors.temps)).zeroExtend 32) } ∧
    exec .smb1PowerRead s = .next { s with answer := .word (BitVec.ofNat 32 (s.bnm.sensors.power.toNat / 10 % 65536)) } ∧
    exec .smb1VcoreRead s = .next { s with answer := .word ((s.bnm.sensors.rails.getD 0 0).zeroExtend 32) } ∧
    exec .smb1ResetCauseRead s = .next { s with answer := .bytes (wordBytes (s.reg R.rstCause)) } ∧
    ∀ b, exec (.smb1UnsupportedCommand b) s = .next { s with answer := .none }

/-! ### Kenrid Link and the cascade (13 R430-R436) -/

/-- The link layer (R430, R431): flits up to ACK are released and those that wait are sent while there is room, a bad
flit is counted and answered with a NAK, a replay sends every unacknowledged flit again and the eighth retrains the
link with event k = 2; a link change sets KLq_STAT and raises event k = 0, and a link that goes down drops its replay
buffer. The cascade (R432): the lodestar admits the next device with a record and the route of fewest hops, of ties
the lower port, where the topology is permitted, and loses one with its route and the commands forwarded to it; a
follower takes the first index it hears; a reroute moves the route and is recorded. Of the model's choosing: a
follower takes the first index it hears (log 15), routes are counted over the branches that the lodestar has admitted
(log 15), and a lost link drops its replay buffer (log 36). -/
def Obligations.KenridLinkAndCascade : Prop :=
  (∀ (s : State) (q : KlPort),
    (s.rbit (R.klStat q) 0 = true →
      let sent := (s.ifc.kl[q]).sent
      let again := sent.map fun f => { f with tries := f.tries + 1 }
      (∀ ack nak, ∃ t, exec (.flitAckNak q ack nak false) s = .next t ∧ t = { s with regs := t.regs, ifc := { s.ifc with kl := t.ifc.kl } } ∧
        t.reg (R.klCrcCnt q) = raised (s.reg (R.klCrcCnt q)) ∧ RegsBut [R.klCrcCnt q] s t ∧
        t.ifc.kl[q] = { s.ifc.kl[q] with nak := true } ∧ ∀ r, r ≠ q → t.ifc.kl[r] = s.ifc.kl[r]) ∧
      (∀ ack (i : Nat) f, sent[i]? = some f → (∀ j g, sent[j]? = some g → g.seq = (sent.head?.map (·.seq)).getD 0 + BitVec.ofNat 12 j) →
        sent.length ≤ 64 → f.seq = ack → ∃ t, exec (.flitAckNak q ack false true) s = .next t ∧
          t = { s with ifc := { s.ifc with kl := t.ifc.kl } } ∧ ∃ more, (t.ifc.kl[q]).sent = sent.drop (i + 1) ++ more ∧
            more.map (·.flit) ++ (t.ifc.kl[q]).queued = (s.ifc.kl[q]).queued ∧
            ((t.ifc.kl[q]).queued = [] ∨ (t.ifc.kl[q]).sent.length = 64)) ∧
      (sent ≠ [] → (∀ f ∈ sent, f.tries < 7) → ∃ t, exec (.replayTimeout q) s = .next t ∧
        t = { s with ifc := { s.ifc with kl := t.ifc.kl } } ∧ (t.ifc.kl[q]).sent = again) ∧
      ((∃ f ∈ sent, 7 ≤ f.tries) → ∃ u, exec (.replayTimeout q) s = .next (assertEvent u (464 + 8 * q.val + 2)) ∧
        u.reg (R.klReplayCnt q) = raised (s.reg (R.klReplayCnt q)) ∧ RegsBut [R.klReplayCnt q] s u ∧ DeviceOnly s u ∧
        ∀ f ∈ (u.ifc.kl[q]).sent, f.tries = 0) ∧
      ((∀ n : Fin 4, (s.cmds.rings[n]).fwd = none) → ∀ w, ∃ u, exec (.kenridLinkStateChange q false w) s =
        .next (assertEvent u (464 + 8 * q.val)) ∧ u.reg (R.klStat q) = 0 ∧ RegsBut [R.klStat q] s u ∧ DeviceOnly s u ∧
        (u.ifc.kl[q]).sent = [] ∧ (u.ifc.kl[q]).queued = [] ∧ u.ifc.casc.branch[q] = [])) ∧
    (∀ w : BitVec 2, s.rbit (R.klStat q) 0 = false → s.rst.hold = none → 4 ≤ s.rst.stage → s.rbit (R.klCfg q) 0 = true →
      w ≠ 0 → ∃ u, exec (.kenridLinkStateChange q true w) s = .next (assertEvent u (464 + 8 * q.val)) ∧
        u.rfld (R.klStat q) 2 0 = 1 + 2 * w.toNat ∧ RegsBut [R.klStat q] s u ∧ u = { s with regs := u.regs })) ∧
  (∀ (s : State) (q : KlPort) (d peer : Fin 8), s.rbit (R.klStat q) 0 = true →
    (s.ifc.casc.lodestar = true → d ≠ 0 → d.val ≤ s.ifc.casc.devices → (s.ifc.casc.grown q d).permitted = true → ∃ u, exec (.cascadeDiscovery q .admitted d peer) s =
      .next (cascadeRecord u q d.val .admitted) ∧ u.rfld (R.klStat q) 6 3 = 1 + 2 * peer.val ∧ RegsBut [R.klStat q] s u ∧
      u.ifc.casc.routes[d] = (s.ifc.casc.grown q d).best d ∧ u.ifc.casc.devices = max s.ifc.casc.devices (d.val + 1) ∧
      d ∈ u.ifc.casc.branch[q] ∧ ((∀ r : Fin 4, r ≠ q → d ∉ s.ifc.casc.branch[r]) → u.ifc.casc.routes[d] = some q) ∧ DeviceOnly s u) ∧
    (s.ifc.casc.lodestar = true → (s.ifc.casc.grown q d).permitted = false → exec (.cascadeDiscovery q .admitted d peer) s = .next s) ∧
    (∀ (c : Cascade) (r : Fin 4), c.best d = some r → (∃ k, c.hops r d = some k ∧ ∀ r' k', c.hops r' d = some k' →
      k < k' ∨ k = k' ∧ r ≤ r')) ∧
    (s.ifc.casc.lodestar = true → (∀ n : Fin 4, (s.cmds.rings[n]).fwd = none) →
      ∃ u, exec (.cascadeDiscovery q .lost d peer) s = .next (cascadeRecord u q d.val .lost) ∧
        u.ifc.casc.routes[d] = none ∧ RegsBut [R.klStat q] s u ∧ DeviceOnly s u ∧
        (s.rfld (R.klStat q) 6 4 = d.val → u.rbit (R.klStat q) 3 = false)) ∧
    (s.ifc.casc.lodestar = false → s.ifc.casc.index = 0 → ∃ t, exec (.cascadeDiscovery q .admitted d peer) s = .next t ∧
      t.ifc.casc.index = d.val ∧ t.ifc.casc.routes[(0 : Fin 8)] = some q ∧ t.rbit (R.klStat q) 3 = true ∧ DeviceOnly s t) ∧
    (s.rbit (R.klStat q) 3 = true → s.ifc.casc.routes[d].isSome = true → s.ifc.casc.routes[d] ≠ some q →
      (∀ r : Fin 4, r ≠ q → d ∉ s.ifc.casc.branch[r]) →
      (∀ n : Fin 4, (s.cmds.rings[n]).fwd = none) → ∃ u, u.ifc.casc.routes[d] = some q ∧ u = { s with ifc := u.ifc } ∧
        exec (.cascadeReroute q d) s =
          .next (if s.ifc.casc.lodestar then cascadeRecord u q d.val .rerouted else u)))

/-- Kenrid traffic (R310, R368, R434-R436): a peer's read and write of DRAM under key 0, with an atomic operation
refused; the answer to a read of a window reaches its load; a forwarded packet raises event k = 3 and is launched, or
waits for the ring of its number, and its final status ends the ring's command; a signal is kept in KLq_SIGSTAT and
raises k = 4 or 6, and KL_SIGNAL sends one; a follower's summary is recorded by the lodestar. Time over Kenrid (R419,
R433): a follower corrects its time by the offset and the link's delay, forwards the corrected time, and locks to the
cascade, loses synchronisation on a correction above 20 ns, and on 100 µs without a time flit; the lodestar sends one
on every link; a measured delay is kept. Of the model's choosing: reads of more than one piece return free data (log
68), what is answered stands in the field answer (log 9); a correction is the offset plus the delay of the link (log
36). -/
def Obligations.KenridTraffic : Prop :=
  (∀ (s : State) (q : KlPort), s.rbit (R.klStat q) 0 = true → s.rbit (R.klStat q) 3 = true →
    (∀ (pa : BitVec 48) (n : Nat) (d : Option (List Byte)), exec (.kenridMemoryRequest q pa n d true) s =
      .next { received s q with answer := .abort }) ∧
    (∀ (pa : BitVec 48) (n : Nat), s.target pa.toNat = .dram → s.rfld (R.klCfg q) 7 4 = 0 → s.inited pa.toNat = true →
      s.keyWritable pa.toNat = true → s.writable pa.toNat = true → 1 ≤ n → pa.toNat % 64 + n ≤ 64 →
      s.poison.contains (pa.toNat / 64) = false → s.seals = [] →
      (s.keyByte pa.toNat < pa.toNat / 64 * 64 ∨ pa.toNat / 64 * 64 + 64 ≤ s.keyByte pa.toNat →
        ∃ t, exec (.kenridMemoryRequest q pa n none false) s = .next t ∧ t.answer = .bytes (s.bytes pa.toNat n) ∧
          ∀ a, a ≠ s.keyByte pa.toNat → t.byte a = s.byte a) ∧
      ∀ bs : List Byte, bs.length = n → ∃ t, exec (.kenridMemoryRequest q pa n (some bs) false) s = .next t ∧
        Stores s t pa.toNat bs ∧ t.regs = s.regs) ∧
    (∀ (c : Chan) (x : RLoad) (addr : Nat), s.ifc.remote = [⟨x.tag, c, true, addr⟩] → (s.chan c).remotes = [x] →
      let r := responseReceived s x.tag
      let u := { r with ifc := { r.ifc with remote := [] } }
      (∀ w d v0 via sent, (s.chan c).loads = [⟨x.id, [.g d v0], via, sent⟩] → (s.chan c).heldX = none → (s.chan c).req = none →
        ∃ t, exec (.kenridMemoryResponse x.tag (.success w)) s = .next t ∧ OnlyChan c u t ∧
          (t.chan c).rg d = loadVal x.kind (w.toNat % 2 ^ (8 * loadLen x.kind)) ∧
          (∀ r, r ≠ d → (t.chan c).rg r = (s.chan c).rg r) ∧ (t.chan c).pc = (s.chan c).pc ∧ (t.chan c).remotes = []) ∧
      (∀ t, tryExc (u.modChan c fun ch => ch.rewind x) c (dataExc x.base 6 x.ea) x.pc = some t →
        exec (.kenridMemoryResponse x.tag .unsuccessful) s = .next t)) ∧
    (∀ (n : Fin 4) l, s.ifc.casc.lodestar = false → s.rst.hold = none →
      let u := assertEvent (received s q) (464 + 8 * q.val + 3)
      (s.packetsOk = true → s.bnm.halted = false → s.cmds.fwd[n] = none → (s.cmds.rings[n]).run = none →
        (∀ w ∈ s.cmds.waiting, w.src ≠ .forwarded n) → (parsePacket l).fence = false →
        objBusy s (.forwarded n) (parsePacket l).objs = false →
        exec (.kenridCommandPacket q n l) s = .next (launch u (.forwarded n) none l)) ∧
      ((s.cmds.rings[n]).run ≠ none → exec (.kenridCommandPacket q n l) s =
        .next { u with cmds := { s.cmds with waiting := s.cmds.waiting ++ [⟨.forwarded n, l, 0, 0⟩] } })) ∧
    (∀ (n : Fin 4) p l, (s.cmds.rings[n]).fwd = some p → l.length = 16 → (l.getD 14 0).getLsbD 1 = true →
      ∃ u, exec (.kenridStatusPacket n l) s = .next (finishCmd u (.ring n) p
        ⟨leAt l 2 2, BitVec.ofNat 32 (leAt l 4 4), BitVec.ofNat 32 (leAt l 8 4)⟩) ∧ u.regs = s.regs ∧ DeviceOnly s u ∧
        (u.cmds.rings[n]).fwd = none ∧ (u.cmds.rings[n]).run = (s.cmds.rings[n]).run) ∧
    (∀ (src : BitVec 3) (kind : Bool) (v : BitVec 16), exec (.signalFlit q src kind v) s = .next (assertEvent
      ((received s q).setReg (R.klSigStat q) (BitVec.ofNat 32 (src.toNat + kind.toNat * 8 + v.toNat * 65536)))
      (464 + 8 * q.val + (if kind then 6 else 4)))) ∧
    (∀ (m : Master) (v : Word) (p : Fin 4), debugOk s m → s.kenridRoute ⟨v.toNat % 8, by omega⟩ = some p →
      (s.ifc.kl[p]).sent.length < 64 → (s.ifc.kl[p]).queued = [] → ∃ t, exec (.klSignalWrite m v) s = .next t ∧
        t = { s with ifc := { s.ifc with kl := t.ifc.kl } } ∧
        (∃ x : SentFlit, (t.ifc.kl[p]).sent = (s.ifc.kl[p]).sent ++ [x] ∧ x.seq = (s.ifc.kl[p]).nextSeq ∧ x.tries = 0 ∧
          x.flit = ⟨v.toNat % 8, .signal (bit v 3) (v.toNat / 65536), s.ifc.casc.index⟩ ∧
          x.crc = crc32 (flitBody x.flit x.seq (s.ifc.kl[p]).got)) ∧ ∀ r, r ≠ p → t.ifc.kl[r] = s.ifc.kl[r]) ∧
    (∀ (d : Fin 8) a b l n, s.ifc.casc.lodestar = true → (s.kenridRoute d).isSome = true →
      exec (.followerSummary d a b l n) s = .next (formRecord s 8 1 (0x220 + d.val) [BitVec.ofNat 32 d.val, a, b, l, n]))) ∧
  (∀ (s : State) (q : KlPort), s.rbit (R.klStat q) 0 = true → s.rbit (R.klStat q) 3 = true →
    let lose := fun (s : State) =>
      assertEvent ({ s with ifc := { s.ifc with slew := 0 } }.setBit R.chrStat 2 false) (464 + 8 * q.val + 5)
    (∀ n, ∃ t, exec (.linkDelayMeasure q n) s = .next t ∧ t = { s with ifc := { s.ifc with kl := t.ifc.kl } } ∧
      (t.ifc.kl[q]).delay = n ∧ (t.ifc.kl[q]).sent = (s.ifc.kl[q]).sent ∧ ∀ r, r ≠ q → t.ifc.kl[r] = s.ifc.kl[r]) ∧
    (s.follows = true →
      (∀ o : Int, let fix := o + (s.ifc.kl[q]).delay
        (s.rbit R.chrStat 2 = true → 20 < fix ∨ fix < -20 → exec (.timeFlit q o) s = .next (lose (received s q))) ∧
        (-20 ≤ fix → fix ≤ 20 → ∃ t, exec (.timeFlit q o) s = .next t ∧ DeviceOnly s t ∧ t.reg R.chrStat = 6 ∧
          RegsBut [R.chrStat] s t ∧ t.ifc.slew = fix ∧ t.time = s.time ∧
          t.ifc.kl[q] = { s.ifc.kl[q] with got := (s.ifc.kl[q]).got + 1, nak := false } ∧
          ∀ r : Fin 4, r ≠ q → s.rbit (R.klStat r) 0 = true → s.rbit (R.klStat r) 3 = true → (s.ifc.kl[r]).queued = [] →
            (s.ifc.kl[r]).sent.length < 64 → ∃ x : SentFlit, (t.ifc.kl[r]).sent = (s.ifc.kl[r]).sent ++ [x] ∧
              x.flit = ⟨15, .time (s.time.toNat + fix).toNat, s.ifc.casc.index⟩)) ∧
      exec (.timeFlitLoss q) s = .next (lose s)) ∧
    (s.ifc.casc.lodestar = true → (s.ifc.kl[q]).sent.length < 64 → (s.ifc.kl[q]).queued = [] → ∃ t, exec .timeFlitSend s = .next t ∧
      t = { s with ifc := { s.ifc with kl := t.ifc.kl } } ∧
      ∃ x : SentFlit, (t.ifc.kl[q]).sent = (s.ifc.kl[q]).sent ++ [x] ∧ x.seq = (s.ifc.kl[q]).nextSeq ∧ x.tries = 0 ∧
        x.flit = ⟨15, .time s.time.toNat, s.ifc.casc.index⟩))

/-! ### The Logbook and the Sextant (14) -/

/-- The Logbook (R443, R449, R451-R453): the recorder writes the oldest waiting record with the next sequence number,
merges one that repeats the newest within 1 ms, and queues it while frozen; a record that waited too long is lost;
LB_FRZ writes the writer's own bit; FRZMAX releases the freeze; the key 7C1Eh clears all but one record; a read of
LB_SEQL latches the high half. Of the model's choosing: the word read stands in the field answer (log 9). -/
def Obligations.LogbookSteps : Prop :=
  ∀ s : State,
    (∀ r rs, s.log.waiting = r :: rs →
      (s.reg R.lbFrzMask = 0 → s.rbit R.lbStat 15 = false → s.log.recs.length < 16383 → s.log.seq + 1 < 0xFFFFFFFFFFFE →
        (∀ l ls, s.log.recs = l :: ls → mergeable l s.log.lastOcc r = false) →
        exec .logbookRecordWrite s = .next { s with log := { s.log with
          waiting := rs, recs := { r with seq := s.log.seq + 1 } :: s.log.recs, seq := s.log.seq + 1, lastOcc := r.time } }) ∧
      (∀ l ls, s.reg R.lbFrzMask = 0 → s.log.recs = l :: ls → mergeable l s.log.lastOcc r = true → l.rep < 0xFFFF →
        exec .logbookRecordWrite s = .next { s with log := { s.log with
          waiting := rs, recs := { l with rep := l.rep + 1 } :: ls, lastOcc := r.time } }) ∧
      (s.reg R.lbFrzMask ≠ 0 → s.log.hold.length < 32 → (∀ h hs, s.log.hold = h :: hs → mergeable h.rec_ h.last r = false) →
        (∀ l ls, s.log.recs = l :: ls → mergeable l s.log.lastOcc r = false) →
        exec .logbookRecordWrite s = .next { s with log := { s.log with
          waiting := rs, hold := ⟨r, r.time⟩ :: s.log.hold } }) ∧
      ∃ t, exec .recordWaitTimeout s = .next t ∧ t.reg R.lbLostCnt = raised (s.reg R.lbLostCnt) ∧
        t = { s with regs := t.regs, log := { s.log with waiting := rs } } ∧ RegsBut [R.lbLostCnt] s t) ∧
    (∀ (m : Master) (v : Word), debugOk s m →
      (bit v 0 = true → ∃ t, exec (.lbFrzWrite m v) s = .next t ∧ DeviceOnly s t ∧ RegsBut [R.lbFrzMask] s t ∧
        t.reg R.lbFrzMask = wbit (s.reg R.lbFrzMask) (requester m).val true) ∧
      (s.log.hold = [] → ∃ t, exec (.lbFrzWrite m v) s = .next t ∧ DeviceOnly s t ∧
        t.reg R.lbFrzMask = wbit (s.reg R.lbFrzMask) (requester m).val (bit v 0)) ∧
      (v.extractLsb' 0 16 = 0x7C1E → s.log.seq + 1 < 0xFFFFFFFFFFFE → ∃ t, exec (.lbClearWrite m v) s = .next t ∧ DeviceOnly s t ∧
        t.reg R.lbLostCnt = 0 ∧ t.reg R.lbHoldLostCnt = 0 ∧ t.reg R.lbClrCnt = s.reg R.lbClrCnt + 1 ∧
        t.rbit R.lbStat 15 = false ∧ ∃ r, t.log.recs = [r] ∧ r.cls = 0 ∧ r.code = 1 ∧ r.seq = s.log.seq + 1 ∧
          r.source = origin m) ∧
      (v.extractLsb' 0 16 ≠ 0x7C1E → exec (.lbClearWrite m v) s = .next s)) ∧
    (s.reg R.lbFrzMask ≠ 0 → s.log.hold = [] → ∃ u, exec .freezeTimeout s = .next
      (formRecord u 0 2 0x219 [s.reg R.lbFrzMask]) ∧ u.reg R.lbFrzMask = 0 ∧ u.rbit R.lbStat 23 = true ∧
      RegsBut [R.lbFrzMask, R.lbStat] s u ∧ DeviceOnly s u) ∧
    (∀ m : Master, m ≠ .sextant → exec (.lbSeqlRead m) s = .next
      { s.setReg R.lbSeqH (BitVec.ofNat 32 (s.log.seq / 2 ^ 32)) with answer := .word (BitVec.ofNat 32 s.log.seq) })

/-- The TAP (R456-R459): IDCODE answers 174201EFh, SAMPLE/PRELOAD loads the boundary register and it and EXTEST scan
out the pins' levels, one bit for each of its cells, EXTEST and CLAMP let it hold the pins and HIGHZ drives none,
BYPASS and CLAMP scan one 0; SXACC answers the previous result and performs an access, which is refused while DBGEN is
0. Of the model's choosing: what a scan shifts out stands in the field answer (log 9), and captured levels are free
(log 60). -/
def Obligations.TapInstructions : Prop :=
  ∀ s : State,
    let at_ := fun (c : BitVec 6) (held z : Bool) (a : Answer) =>
      { s with sx := { s.sx with ir := c, pinsHeld := held, highz := z }, answer := a }
    exec .idcode s = .next (at_ 0b000001 false false (.word 0x174201EF)) ∧
    (∀ l : List Bool, ∃ o : List Bool, o.length = l.length ∧ exec (.samplePreload l) s = .next { s with
      sx := { s.sx with ir := 0b000010, pinsHeld := false, highz := false, bsr := l }, answer := .bits o, free := s.free + 1 }) ∧
    (∃ o l : List Bool, o.length = s.sx.bsr.length ∧ l.length = s.sx.bsr.length ∧ exec .extest s = .next { s with
      sx := { s.sx with ir := 0b000011, pinsHeld := true, highz := false, bsr := l }, answer := .bits o, free := s.free + 2 }) ∧
    exec .clamp s = .next (at_ 0b000100 true false (.bits [false])) ∧
    exec .highz s = .next (at_ 0b000101 false true (.bits [false])) ∧
    exec .bypass s = .next (at_ 0b111111 false false (.bits [false])) ∧
    exec .testLogicReset s = .next (at_ 0b000001 false false s.answer) ∧
    (∀ a : BitVec 64,
      let prev := Answer.bits ((List.range 64).map (sxCapture s).getLsbD)
      let o := (a.extractLsb' 34 26).toNat * 4
      let w := a.extractLsb' 0 32
      (s.rbit R.bnmLcs 8 = false → ∃ t, exec (.sxacc a) s = .next t ∧ t.answer = prev ∧ t.sx.stat = 2 ∧ t.sx.data = 0 ∧
        t = { s with sx := t.sx, answer := t.answer }) ∧
      (s.rbit R.bnmLcs 8 = true → inBlock o = false → ∃ u, u = { s with sx := u.sx } ∧ ∃ t, exec (.sxacc a) s = .next t ∧
        t.answer = prev ∧ t.sx.stat = 2 ∧
        t = { defaultAnswer u .sextant (0x900000000000 + o) (a.getLsbD 60) with sx := t.sx, answer := t.answer }) ∧
      (s.rbit R.bnmLcs 8 = true → inBlock o = true → a.getLsbD 60 = true → o ≠ R.sxFeedCtl → ∃ t, exec (.sxacc a) s = .next t ∧
        t.answer = prev ∧ t.sx.stat = 0 ∧ t.sx.off = BitVec.ofNat 28 o ∧
        ∃ u, u = { s with sx := u.sx } ∧ t = { ctlWrite u .sextant o 15 w with sx := t.sx, answer := t.answer }) ∧
      (s.rbit R.bnmLcs 8 = true → inBlock o = true → a.getLsbD 60 = false → (o < 0x1100000 ∨ 0x1200000 ≤ o) →
        ∃ t u, exec (.sxacc a) s = .next t ∧ t.answer = prev ∧ u = { s with sx := u.sx } ∧ t.sx.data = (peekReg u .sextant o).1 ∧
          t.sx.stat = (if (peekReg u .sextant o).2.1 then 3 else 0) ∧ RegsBut [R.sxPeekFail] s t ∧ DeviceOnly s t))

/-- Halts and releases (R460-R464): a request for a running or waiting channel sets its bit, and HALT at a boundary
halts the channel with its pc, which of a waiting one is that of its WAIT, its CSW, its V and M, stream and loop
registers, its G and D registers where no load is outstanding, and its Ledger pin; a release returns it to running; a
halt of the Binnacle stops its core and is recorded. Of the model's choosing: a HALT that nothing asked for changes
nothing (log 6), and DBG_HALT waits for its halts (log 27). -/
def Obligations.HaltsAndReleases : Prop :=
  ∀ s : State,
    (∀ (m : Master) (k : Fin 16), let c := k.castSucc; asBnm m = true → debugOk s m → ((s.chan c).st = .running ∨ (s.chan c).st = .waiting) →
      s.rbit R.sxHaltReq 16 = false →
      (∀ src r, s.running src = some r → ∀ k, r.waits ≠ some (.halts k)) →
      ∃ t, exec (.sxHaltreqWrite m (BitVec.ofNat 32 (2 ^ c.val))) s = .next t ∧ DeviceOnly s t ∧
        t.reg R.sxHaltReq = wbit (s.reg R.sxHaltReq) c.val true ∧ RegsBut [R.sxHaltReq] s t ∧ t.sx.asker[c] = origin m) ∧
    (∀ k : Fin 16, let c := k.castSucc; s.rbit R.sxHaltReq c.val = true → s.rbit R.sxHaltReq 16 = false →
      ((s.chan c).st = .running ∨ (s.chan c).st = .waiting) → (s.chan c).remotes = [] →
      (s.chan c).wait = .none → (s.chan c).slots = [] → (s.chan c).group = none → (s.chan c).window = none →
      (s.chan c).heldX = none → (s.chan c).impr = [] → (s.chan c).req = none →
      (∀ src r, s.running src = some r → ∀ k, r.waits ≠ some (.halts k)) →
      ∃ t, exec (.halt k) s = .next t ∧ (t.chan c).st = .halted ∧ (t.chan c).pc = (s.chan c).pc ∧
        (t.chan c).csw = (s.chan c).csw ∧ (t.chan c).resv = none ∧
        ((s.chan c).loads = [] → (t.chan c).g = (s.chan c).g ∧ (t.chan c).d = (s.chan c).d) ∧ (t.chan c).v = (s.chan c).v ∧
        (t.chan c).m = (s.chan c).m ∧ (t.chan c).fsw = (s.chan c).fsw ∧ (t.chan c).wm = (s.chan c).wm ∧
        (t.chan c).sc = (s.chan c).sc ∧ (t.chan c).vl = (s.chan c).vl ∧ (t.chan c).lpst = (s.chan c).lpst ∧
        (t.chan c).lps = (s.chan c).lps ∧ (t.chan c).lpe = (s.chan c).lpe ∧ (t.chan c).lpc = (s.chan c).lpc ∧ t.rbit R.sxHaltReq c.val = false ∧ t.mem = s.mem ∧
        (∀ d, d ≠ c → t.chan d = s.chan d) ∧ t.lge.slots = s.lge.slots) ∧
    (∀ k : Fin 16, s.rbit R.sxHaltReq k.val = false → exec (.halt k) s = .next s) ∧
    (let b := s.chan bnmCore;
      s.rbit R.sxHaltReq 17 = true → b.slots = [] → b.group = none → b.wait = .none → b.window = none → b.remotes = [] →
      b.heldX = none → b.impr = [] → ∃ u, exec .binnacleHalt s = .next (formRecord u 10 1 s.sx.bnmAsker [0, 0, 1]) ∧
        u.bnm.halted = true ∧ u.mem = s.mem ∧ RegsBut [R.sxHaltReq] s u ∧ (u.chan bnmCore).pc = b.pc ∧
        (u.chan bnmCore).st = (if b.st = .running ∨ b.st = .waiting then .halted else b.st) ∧
        ∀ k : Fin 16, u.chan k.castSucc = s.chan k.castSucc) ∧
    (∀ (m : Master) (k : Fin 16), let c := k.castSucc; asBnm m = true → debugOk s m → (s.chan c).st = .halted →
      (s.chan c).drains = [] →
      ∃ t, exec (.sxReleaseWrite m (BitVec.ofNat 32 (2 ^ c.val))) s = .next t ∧ (t.chan c).st = .running ∧
        (t.chan c).pc = (s.chan c).pc ∧ (t.chan c).g = (s.chan c).g ∧ (t.chan c).csw = (s.chan c).csw ∧
        ∀ d, d ≠ c → { t.chan d with resv := (s.chan d).resv, stepsH := (s.chan d).stepsH } = s.chan d) ∧
    (∀ m : Master, asBnm m = true → debugOk s m → exec (.sxReleaseWrite m 0x20000) s =
      .next (formRecord { s with bnm := { s.bnm with halted := false }, chans := s.chans.set bnmCore (
        if (s.chan bnmCore).st = .halted then { s.chan bnmCore with st := .running } else s.chan bnmCore) }
        10 2 (origin m) [0, 0, 1]))

/-- The Sextant's window and terminals (R465-R467): SX_MDATA reads and writes a word of DRAM under its key and
advances its address; a word fed to a halted channel that is no instruction it can be fed (one of the maps of streams
and the Ledger, a trap, a reserved opcode), and any word fed to a channel that is not halted, ends with REFUSED, a fed
MOV with DONE and its result; a channel's word in SX_DTXn waits for the Sextant, whose read raises EV(8n + 5), and one
in SX_DRXn raises EV(8n + 4) and waits for the channel. Of the model's choosing: the word read stands in the field
answer (log 9), a fed instruction is one step (log 32), and an access that must wait is made by a later tick (log 69).
-/
def Obligations.WindowAndTerminals : Prop :=
  ∀ s : State, s.rbit R.bnmLcs 8 = true →
    (∀ pa, pa = s.sxAddr → s.target pa = .dram → s.rfld R.sxMctl 3 0 = 0 → s.rbit R.bnmLcs 9 = true → s.inited pa = true →
      s.keyWritable pa = true → s.anyPoison pa 4 = false → s.seals = [] → s.sx.pend = [] → pa % 64 ≤ 60 →
      (∃ t, exec (.sxMdataAccess none) s = .next t ∧ t.answer = .word (s.word pa) ∧
        (s.rbit R.sxMctl 4 = true → t.sxAddr = (pa + 4) % 2 ^ 48) ∧ ∀ a, a ≠ s.keyByte pa → t.byte a = s.byte a) ∧
      ∀ w, ∃ t, exec (.sxMdataAccess (some w)) s = .next t ∧ Stores s t pa (wordBytes w) ∧
        (s.rbit R.sxMctl 4 = true → t.sxAddr = (pa + 4) % 2 ^ 48)) ∧
    (∀ (m : Master) (v : Word), asBnm m = true → bit v 4 = true → s.sx.feeding = none → (s.chan (feedChan v)).st ≠ .halted →
      ∃ t, exec (.sxFeedctlWrite m v) s = .next t ∧ t.reg R.sxFeedStat = 4 ∧ t.reg R.sxFeedRes = 0 ∧ DeviceOnly s t ∧
        RegsBut [R.sxFeedStat, R.sxFeedRes] s t) ∧
    (∀ (m : Master) (v : Word), asBnm m = true → bit v 4 = true → s.sx.feeding = none →
      (s.reg (R.sxFeed 0)).toNat % 256 ∈ [0x00, 0x70, 0x80, 0x95, 0x96, 0xEF, 0xF8, 0xF9, 0xFA, 0xFC, 0xFD, 0xFE, 0xFF] →
      ∃ t, exec (.sxFeedctlWrite m v) s = .next t ∧ t.reg R.sxFeedStat = 4 ∧ t.reg R.sxFeedRes = 0 ∧ DeviceOnly s t ∧
        RegsBut [R.sxFeedStat, R.sxFeedRes] s t) ∧
    (∀ (m : Master) (c : Chan) (v : Word) (d a : Reg), asBnm m = true → bit v 4 = true → feedChan v = c →
      s.sx.feeding = none → (s.chan c).st = .halted → (s.chan c).mute = false → (s.chan c).wait = .none → (s.chan c).slots = [] →
      (s.chan c).group = none → (s.chan c).heldX = none → (s.chan c).loads = [] → (s.chan c).drains = [] → (s.chan c).stq = [] → (s.chan c).window = none →
      (s.chan c).req = none →
      s.reg (R.sxFeed 0) &&& 0xFFFF = BitVec.ofNat 32 (0x40 + 256 * (16 * d.val + a.val)) →
      ∃ t, exec (.sxFeedctlWrite m v) s = .next t ∧ t.reg R.sxFeedStat = 2 ∧ t.reg R.sxFeedRes = (s.chan c).rg a ∧
        (t.chan c).rg d = (s.chan c).rg a ∧ (∀ r, r ≠ d → (t.chan c).rg r = (s.chan c).rg r) ∧
        (t.chan c).pc = (s.chan c).pc ∧ (t.chan c).st = .halted ∧ ∀ k, k ≠ c → t.chan k = s.chan k) ∧
    (∀ (c : Fin 16) (v : Word),
      (s.rbit R.sxTstat c.val = false → exec (.sxDtxChannelWrite c v) s =
        .next ((s.setReg (R.sxDtx c) v).setBit R.sxTstat c.val true)) ∧
      (s.rbit R.sxTstat c.val = true → exec (.sxDtxChannelWrite c v) s = .next s) ∧
      (s.rbit R.sxTstat c.val = true → exec (.sxDtxSextantRead c) s = .next
        { assertEvent (s.setBit R.sxTstat c.val false) (8 * c.val + 5) with answer := .word (s.reg (R.sxDtx c)) }) ∧
      (s.rbit R.sxTstat (16 + c.val) = false → exec (.sxDrxSextantWrite c v) s = .next (assertEvent
        ((s.setReg (R.sxDrx c) v).setBit R.sxTstat (16 + c.val) true) (8 * c.val + 4))) ∧
      exec (.sxDrxChannelRead c) s = .next
        { s.setBit R.sxTstat (16 + c.val) false with answer := .word (s.reg (R.sxDrx c)) })

/-! ### Resets and the start (15 R469-R489) -/

/-- What requests a reset, while none is held (R277, R359, R397, R472, R474, R477, R487): SYSRST_N a system reset with
cause 3, a brown-out of a rail one with cause 2, critical errors of codes 1 to 4 a core reset with cause 11, with the
core whose lookup it was issuing nothing more, and 5 and 6 a system reset with cause 12, the compute watchdog a core
reset with cause 8, the lockup delay one with cause 9, a start that takes too long a system reset with cause 14,
DEV_RESET the level it named with cause 6. SYSRST_N and CRITICAL_ERROR while a reset is held add their cause bit to
RST_CAUSE and do nothing else, but that a store error has its start load the mirrored settings (R473, R483). Of the
model's choosing: a request is one step and the reset that follows another (log 29), and a parity error while a reset
is held silences no channel (log 65). -/
def Obligations.ResetRequests : Prop :=
  (∀ s : State, s.rst.hold = none →
    exec .sysrstN s = .next (asked s .system 3 0) ∧
    (∀ r : Rail, r ≠ .aon → ∃ t, exec (.brownOut r) s = .next t ∧ t = { asked s .system 2 0 with rst := t.rst } ∧
      t.rst.req = (asked s .system 2 0).rst.req ∧ r ∈ t.rst.rails ∧ (r = .ddr → t.rst.ddrLost = true) ∧ t.rst.hold = none) ∧
    (let quiet := fun (c : Chan) => if c = bnmCore then s else { s with chans := s.chans.set c { s.chan c with mute := true } };
      ∀ e : CritSrc, exec (.criticalError e) s = .next (match e with
      | .patchRam => asked s .core 11 1
      | .regionMap c => asked (quiet c) .core 11 2
      | .keyCache none => asked s .core 11 3
      | .keyCache (some c) => asked (quiet c) .core 11 3
      | .ledgerSlot => asked s .core 11 4
      | .bnmSram => asked s .system 12 5
      | .retained none => asked s .system 12 6
      | .retained (some (l, crc)) => if crc = crc32 l then s else asked s .system 12 6)) ∧
    (s.rst.stage < 8 → s.rbit R.bnmLcs 4 = false → exec .startTimeout s = .next (asked s .system 14 0)) ∧
    (s.rbit R.wdgCfg 16 = true → s.rst.cwdgGo = true → s.sx.all = false → (∀ k : Fin 16, (s.chan k.castSucc).st ≠ .halted) →
      exec .computeWatchdogExpiry s = .next (asked { s with rst := { s.rst with cwdg := 0 } } .core 8 0)) ∧
    (s.rst.lockup.isSome = true → s.reg R.evcLockStat ≠ 0 →
      exec .lockupDelayExpiry s = .next (asked { s with rst := { s.rst with lockup := none } } .core 9 0)) ∧
    (∀ src x, s.cmds.asked = some x → exec (.devResetBegin src) s =
      .next (asked { s with cmds := { s.cmds with asked := none } } (if x then .system else .core) 6 0)) ∧
    (∀ (m : Master) (v : Word), debugOk s m →
      let go := { s with rst := { s.rst with cwdg := s.rfld R.wdgCfg 13 0 * 1000000 } }
      exec (.wdgKickWrite m v) s = .next (if v.extractLsb' 0 16 = 0x3C3C then go else s) ∧
      (asBnm m = true ∨ m = .host → ∃ t, exec (.wdgCfgWrite m v) s = .next t ∧ RegsBut [R.wdgCfg] s t ∧
        t.rfld R.wdgCfg 13 0 = max 1 (min 10000 (v.extractLsb' 0 14).toNat) ∧ t.rbit R.wdgCfg 16 = bit v 16 ∧
        (s.rbit R.wdgCfg 16 = false → bit v 16 = true → t.rst.cwdg = t.rfld R.wdgCfg 13 0 * 1000000) ∧
        (s.rbit R.wdgCfg 16 = true → t.rst = s.rst)))) ∧
  (∀ s : State, s.rst.hold.isSome = true →
    (∃ t, exec .sysrstN s = .next t ∧ Latched s t 3) ∧
    (∀ x, (∀ l crc, x = .retained (some (l, crc)) → crc ≠ crc32 l) →
      ∃ t, exec (.criticalError x) s = .next t ∧
        Latched (if critCode x = 6 then { s with rst := { s.rst with load := true } } else s) t (if critCode x ≤ 4 then 11 else 12)))

/-- Power-on reset (R469-R473): whatever the state, RST_CAUSE holds the one cause, every other register its power-on
value, memory is empty, every channel, the Binnacle core too, is stopped with its register block (R40-R47) at its
power-on values, and the fuses, the NOR and the waiting commands stand. The G registers, which no rule gives a value,
are free. System and core reset (R369, R469-R473, R476, R481, R482): either writes RST_CAUSE with the level and the
causes and stops every channel, its register block at the reset values. A system reset keeps DRAM where nothing was
running, the retained store's PMASK and WEIGHT, the fuses and the NOR, and is held; a core reset keeps the G
registers, which no load in flight reaches any more (R338), the Binnacle core, memory where no bank is being wiped or
handed over, and, where no command runs, the rings with their registers, and is over at once. Of the model's choosing:
the row of another level than the one asked for changes nothing (log 6), the Binnacle core is stopped as the others
are (log 47), G registers that no rule gives a value are free (log 2), and a reset is one step (log 29). -/
def Obligations.ResetsAreApplied : Prop :=
  (∀ (s : State) (b : Bool), ∃ t, exec (.powerOnReset b) s = .next t ∧ t.mem = [] ∧ t.fuses = s.fuses ∧
    ((∀ src r, s.running src = some r → r.pkt.opcode ≠ 0x0601) → t.nor = s.nor) ∧
    t.pending = s.pending ∧ t.rst.hold = some .power ∧ t.time = 0 ∧ t.reg R.rstCause = (if b then 2 else 1) ∧
    (∀ o, o ≠ R.rstCause → t.reg o = regPor o) ∧
    ∀ c : Chan, BlockReset (t.chan c) ∧ (t.chan c).pmask = 0 ∧ (t.chan c).weight = 4) ∧
  (∀ (s : State) (r : ResetReq), s.rst.req = some r →
    let quiet := (∀ k : Fin 16, let c := k.castSucc; (s.chan c).st = .stopped ∧ (s.chan c).slots = [] ∧
      (s.chan c).group = none ∧ (s.chan c).heldX = none ∧ (s.chan c).wait = .none)
    (r.level = .system → ∃ t, exec .systemReset s = .next t ∧ t.rst.hold = some .system ∧ t.rst.req = none ∧ t.time = 0 ∧
      t.fuses = s.fuses ∧ ((∀ src r, s.running src = some r → r.pkt.opcode ≠ 0x0601) → t.nor = s.nor) ∧
      t.pending = s.pending ∧ t.ticks = s.ticks ∧
      (r.bits < 65536 → t.rfld R.rstCause 15 0 = r.bits ∧ t.rfld R.rstCause 19 16 = 1) ∧
      (∀ c, BlockReset (t.chan c)) ∧
      (s.rst.load = false → r.crit ≠ 6 → ∀ k : Fin 16, (t.chan k.castSucc).pmask = (s.chan k.castSucc).pmask ∧
        (t.chan k.castSucc).weight = (s.chan k.castSucc).weight) ∧
      t.cmds = .reset ∧ t.bnm.mgmtKey = none ∧
      (quiet → ∀ a, t.byte a = if a < 0x800000000000 then s.byte a else 0)) ∧
    (r.level = .core → ∃ t, exec .coreReset s = .next t ∧ t.rst.hold = s.rst.hold ∧ t.rst.req = none ∧
      t.fuses = s.fuses ∧ (s.cmds.vlan = none → t.nor = s.nor) ∧ t.pending = s.pending ∧
      (r.bits < 65536 → t.rfld R.rstCause 15 0 = r.bits ∧ t.rfld R.rstCause 19 16 = 2) ∧
      (∀ k : Fin 16, let c := k.castSucc; BlockReset (t.chan c) ∧
        (t.chan c).pmask = (s.chan c).pmask ∧ (t.chan c).weight = (s.chan c).weight) ∧
      ((∀ src, s.running src = none) → t.cmds = s.cmds ∧ ∀ n : Fin 4,
        (∀ o ∈ [R.ringCbaseL n, R.ringSbaseL n], t.rfld o 31 6 = s.rfld o 31 6) ∧
        (∀ o ∈ [R.ringCbaseH n, R.ringSbaseH n, R.ringCmdCnt n], t.reg o = s.reg o) ∧
        (∀ o ∈ [R.ringChead n, R.ringCtail n, R.ringStail n, R.ringShead n], t.rfld o 15 0 = s.rfld o 15 0) ∧
        t.rbit (R.ringCfg n) 16 = s.rbit (R.ringCfg n) 16 ∧ t.rfld (R.ringCfg n) 3 0 = s.rfld (R.ringCfg n) 3 0 ∧
        t.rfld (R.ringCfg n) 11 8 = s.rfld (R.ringCfg n) 11 8 ∧ t.rbit (R.ringStail n) 16 = s.rbit (R.ringStail n) 16) ∧
      { t.chan bnmCore with resv := (s.chan bnmCore).resv } = s.chan bnmCore ∧
      (quiet → (∀ k : Fin 16, (t.chan k.castSucc).g = (s.chan k.castSucc).g) ∧
        (s.wiping = [] → s.handover = [] → ∀ a, t.byte a = s.byte a))) ∧
    (r.level ≠ .system → exec .systemReset s = .next s) ∧ (r.level ≠ .core → exec .coreReset s = .next s))

/-- The start (R480, R487, R488): a release with a valid firmware slot leaves the start at step 5 with the failure
count raised by one, and the third failed start in a row ends in recovery mode; training with eight like, supported
DIMM pairs takes it to step 8, READY, with the failure count cleared. A start that has not been released changes
nothing. Of the model's choosing: a start that is not due changes nothing (log 6), a start and the training are each
one step (log 29), the inactive slot is the one that BNM_LCS does not name (log 25), and an unsupported memory
configuration leaves the start at step 5 (log 56). -/
def Obligations.StartSteps : Prop :=
  ∀ (s : State) (b : Bool),
    (s.rst.hold.isSome = true → s.rst.therm = false → s.rst.rails = [] → s.rst.railWait ≤ s.ticks →
      (s.rst.load = true → s.rfld R.rstStat 3 2 = 0) →
      (s.rfld R.rstStat 3 2 = 3 → ∃ t, exec (.startUp b) s = .next t ∧ t.rst.hold = none ∧ t.rfld R.rstStat 7 4 = 2 ∧
        t.rbit R.rstStat 1 = true ∧ t.rbit R.bnmLcs 4 = true ∧ t.mem = s.mem ∧ (t.chan bnmCore).st = .running ∧
        (∀ k : Fin 16, t.chan k.castSucc = s.chan k.castSucc) ∧
        t.rbit R.bnmLcs 5 = (bootDesc s).fwB ∧ t.rbit R.bnmLcs 6 = (bootDesc s).pB) ∧
      (s.rfld R.rstStat 3 2 < 3 → s.bnm.freshFw = false → s.bnm.freshP = false →
        (∀ x, pickSlot s false = some x → ∃ t, exec (.startUp b) s = .next t ∧ t.rst.hold = none ∧
          t.rfld R.rstStat 7 4 = 5 ∧ t.rfld R.rstStat 3 2 = s.rfld R.rstStat 3 2 + 1 ∧ t.mem = s.mem ∧
          t.rbit R.bnmLcs 5 = x.1 ∧ t.bnm.fwVer = imgVersion (slotBytes s false x.1)) ∧
        (pickSlot s false = none → ∃ t, exec (.startUp b) s = .next t ∧ t.rst.hold = none ∧ t.rfld R.rstStat 7 4 = 3 ∧
          t.rbit R.rstStat 1 = true ∧ t.rbit R.bnmLcs 4 = true ∧ t.mem = s.mem))) ∧
    (s.rst.hold = none ∨ s.rst.therm = true ∨ s.rst.rails ≠ [] ∨ s.ticks < s.rst.railWait → exec (.startUp b) s = .next s) ∧
    (∀ w : Vector Word 8, s.rst.hold = none → s.rst.stage = 5 → dimmsOk w = false → exec (.trainingComplete w) s = .next s) ∧
    (∀ w : Vector Word 8, s.rst.hold = none → s.rst.stage = 5 → dimmsOk w = true → ∃ t, exec (.trainingComplete w) s = .next t ∧
      t.rst.stage = 8 ∧ t.rfld R.rstStat 7 4 = 8 ∧ t.rbit R.rstStat 0 = true ∧ t.rfld R.rstStat 3 2 = 0 ∧
      (∀ m : Fin 8, t.reg (R.mcCfg m) = w[m] &&& 0x3FF01FF) ∧ t.chans = s.chans ∧ (s.rst.ddrLost = false → t.mem = s.mem))

/-- The state after reset is in canonical form. The reset values that the spec states (R40, R256, R293, R304, R469,
R480 and the field tables): every channel stopped with CSW 1000h, WEIGHT 4, and PC, FSW, WM, SC, VL, SLIM, LSAV, VBAR,
PMASK, the loop registers and the step counter 0, the Binnacle core as the others; banks owned by the Binnacle; event
sources disabled; the Ledger Engine, the memory system and the watchdog at their power-on values; RST_CAUSE shows
power-on. Of the model's choosing: the reset values of the Binnacle core, which no rule of its own gives, are those of
a channel (log 47). -/
def Obligations.ResetValues : Prop :=
  (State.reset.canon = true) ∧
  ((∀ c : Chan, BlockReset (State.reset.chan c) ∧ (State.reset.chan c).pmask = 0 ∧ (State.reset.chan c).weight = 4) ∧
  (∀ b : Fin 32, State.reset.reg (R.cbOwner b) = 0x10) ∧ (∀ n : Ev, State.reset.reg (R.evcfg n) = 0) ∧
  State.reset.reg R.lgeCfg = 0x30100 ∧ State.reset.reg R.smsCfg = 0x603E8 ∧ State.reset.reg R.cbcPolicy = 1 ∧
  State.reset.reg R.evcLockCfg = 0x8A ∧ State.reset.reg R.wdgCfg = 0x3E8 ∧ State.reset.reg R.bnmVctl = 0x2F80320 ∧
  State.reset.reg R.bnmTherm = 0x645F ∧ State.reset.reg R.rstCause = 1 ∧ State.reset.mem = [] ∧ State.reset.pending = [] ∧
  State.reset.time = 0 ∧ State.reset.rst.hold = some .power)
end

