-- ==== Sys2Proof/Laws/State.lean ====
section
/-! SUPPORT. What the named updates of the state leave as it is: one lemma per field and update, so that no proof
unfolds an update. -/
namespace Sys2Proof.Machine


/-! ### State.setChan -/

@[simp] theorem setChan_pending (s : State) (c : Chan) (x : Channel) : (s.setChan c x).pending = s.pending := rfl
@[simp] theorem setChan_regs (s : State) (c : Chan) (x : Channel) : (s.setChan c x).regs = s.regs := rfl
@[simp] theorem setChan_mem (s : State) (c : Chan) (x : Channel) : (s.setChan c x).mem = s.mem := rfl
@[simp] theorem setChan_host (s : State) (c : Chan) (x : Channel) : (s.setChan c x).host = s.host := rfl
@[simp] theorem setChan_poison (s : State) (c : Chan) (x : Channel) : (s.setChan c x).poison = s.poison := rfl
@[simp] theorem setChan_cpoison (s : State) (c : Chan) (x : Channel) : (s.setChan c x).cpoison = s.cpoison := rfl
@[simp] theorem setChan_seals (s : State) (c : Chan) (x : Channel) : (s.setChan c x).seals = s.seals := rfl
@[simp] theorem setChan_smsSeq (s : State) (c : Chan) (x : Channel) : (s.setChan c x).smsSeq = s.smsSeq := rfl
@[simp] theorem setChan_lgeSeq (s : State) (c : Chan) (x : Channel) : (s.setChan c x).lgeSeq = s.lgeSeq := rfl
@[simp] theorem setChan_chunks (s : State) (c : Chan) (x : Channel) : (s.setChan c x).chunks = s.chunks := rfl
@[simp] theorem setChan_kcache (s : State) (c : Chan) (x : Channel) : (s.setChan c x).kcache = s.kcache := rfl
@[simp] theorem setChan_wiping (s : State) (c : Chan) (x : Channel) : (s.setChan c x).wiping = s.wiping := rfl
@[simp] theorem setChan_handover (s : State) (c : Chan) (x : Channel) : (s.setChan c x).handover = s.handover := rfl
@[simp] theorem setChan_pipes (s : State) (c : Chan) (x : Channel) : (s.setChan c x).pipes = s.pipes := rfl
@[simp] theorem setChan_lge (s : State) (c : Chan) (x : Channel) : (s.setChan c x).lge = s.lge := rfl
@[simp] theorem setChan_patchRam (s : State) (c : Chan) (x : Channel) : (s.setChan c x).patchRam = s.patchRam := rfl
@[simp] theorem setChan_comps (s : State) (c : Chan) (x : Channel) : (s.setChan c x).comps = s.comps := rfl
@[simp] theorem setChan_log (s : State) (c : Chan) (x : Channel) : (s.setChan c x).log = s.log := rfl
@[simp] theorem setChan_cmds (s : State) (c : Chan) (x : Channel) : (s.setChan c x).cmds = s.cmds := rfl
@[simp] theorem setChan_nor (s : State) (c : Chan) (x : Channel) : (s.setChan c x).nor = s.nor := rfl
@[simp] theorem setChan_fuses (s : State) (c : Chan) (x : Channel) : (s.setChan c x).fuses = s.fuses := rfl
@[simp] theorem setChan_bnm (s : State) (c : Chan) (x : Channel) : (s.setChan c x).bnm = s.bnm := rfl
@[simp] theorem setChan_rst (s : State) (c : Chan) (x : Channel) : (s.setChan c x).rst = s.rst := rfl
@[simp] theorem setChan_sx (s : State) (c : Chan) (x : Channel) : (s.setChan c x).sx = s.sx := rfl
@[simp] theorem setChan_ifc (s : State) (c : Chan) (x : Channel) : (s.setChan c x).ifc = s.ifc := rfl
@[simp] theorem setChan_time (s : State) (c : Chan) (x : Channel) : (s.setChan c x).time = s.time := rfl
@[simp] theorem setChan_ticks (s : State) (c : Chan) (x : Channel) : (s.setChan c x).ticks = s.ticks := rfl
@[simp] theorem setChan_free (s : State) (c : Chan) (x : Channel) : (s.setChan c x).free = s.free := rfl
@[simp] theorem setChan_answer (s : State) (c : Chan) (x : Channel) : (s.setChan c x).answer = s.answer := rfl

/-! ### State.modChan -/

@[simp] theorem modChan_pending (s : State) (c : Chan) (f : Channel → Channel) : (s.modChan c f).pending = s.pending := rfl
@[simp] theorem modChan_regs (s : State) (c : Chan) (f : Channel → Channel) : (s.modChan c f).regs = s.regs := rfl
@[simp] theorem modChan_mem (s : State) (c : Chan) (f : Channel → Channel) : (s.modChan c f).mem = s.mem := rfl
@[simp] theorem modChan_host (s : State) (c : Chan) (f : Channel → Channel) : (s.modChan c f).host = s.host := rfl
@[simp] theorem modChan_poison (s : State) (c : Chan) (f : Channel → Channel) : (s.modChan c f).poison = s.poison := rfl
@[simp] theorem modChan_cpoison (s : State) (c : Chan) (f : Channel → Channel) : (s.modChan c f).cpoison = s.cpoison := rfl
@[simp] theorem modChan_seals (s : State) (c : Chan) (f : Channel → Channel) : (s.modChan c f).seals = s.seals := rfl
@[simp] theorem modChan_smsSeq (s : State) (c : Chan) (f : Channel → Channel) : (s.modChan c f).smsSeq = s.smsSeq := rfl
@[simp] theorem modChan_lgeSeq (s : State) (c : Chan) (f : Channel → Channel) : (s.modChan c f).lgeSeq = s.lgeSeq := rfl
@[simp] theorem modChan_chunks (s : State) (c : Chan) (f : Channel → Channel) : (s.modChan c f).chunks = s.chunks := rfl
@[simp] theorem modChan_kcache (s : State) (c : Chan) (f : Channel → Channel) : (s.modChan c f).kcache = s.kcache := rfl
@[simp] theorem modChan_wiping (s : State) (c : Chan) (f : Channel → Channel) : (s.modChan c f).wiping = s.wiping := rfl
@[simp] theorem modChan_handover (s : State) (c : Chan) (f : Channel → Channel) : (s.modChan c f).handover = s.handover := rfl
@[simp] theorem modChan_pipes (s : State) (c : Chan) (f : Channel → Channel) : (s.modChan c f).pipes = s.pipes := rfl
@[simp] theorem modChan_lge (s : State) (c : Chan) (f : Channel → Channel) : (s.modChan c f).lge = s.lge := rfl
@[simp] theorem modChan_patchRam (s : State) (c : Chan) (f : Channel → Channel) : (s.modChan c f).patchRam = s.patchRam := rfl
@[simp] theorem modChan_comps (s : State) (c : Chan) (f : Channel → Channel) : (s.modChan c f).comps = s.comps := rfl
@[simp] theorem modChan_log (s : State) (c : Chan) (f : Channel → Channel) : (s.modChan c f).log = s.log := rfl
@[simp] theorem modChan_cmds (s : State) (c : Chan) (f : Channel → Channel) : (s.modChan c f).cmds = s.cmds := rfl
@[simp] theorem modChan_nor (s : State) (c : Chan) (f : Channel → Channel) : (s.modChan c f).nor = s.nor := rfl
@[simp] theorem modChan_fuses (s : State) (c : Chan) (f : Channel → Channel) : (s.modChan c f).fuses = s.fuses := rfl
@[simp] theorem modChan_bnm (s : State) (c : Chan) (f : Channel → Channel) : (s.modChan c f).bnm = s.bnm := rfl
@[simp] theorem modChan_rst (s : State) (c : Chan) (f : Channel → Channel) : (s.modChan c f).rst = s.rst := rfl
@[simp] theorem modChan_sx (s : State) (c : Chan) (f : Channel → Channel) : (s.modChan c f).sx = s.sx := rfl
@[simp] theorem modChan_ifc (s : State) (c : Chan) (f : Channel → Channel) : (s.modChan c f).ifc = s.ifc := rfl
@[simp] theorem modChan_time (s : State) (c : Chan) (f : Channel → Channel) : (s.modChan c f).time = s.time := rfl
@[simp] theorem modChan_ticks (s : State) (c : Chan) (f : Channel → Channel) : (s.modChan c f).ticks = s.ticks := rfl
@[simp] theorem modChan_free (s : State) (c : Chan) (f : Channel → Channel) : (s.modChan c f).free = s.free := rfl
@[simp] theorem modChan_answer (s : State) (c : Chan) (f : Channel → Channel) : (s.modChan c f).answer = s.answer := rfl

/-! ### State.setReg -/

@[simp] theorem setReg_pending (s : State) (o : Nat) (w : Word) : (s.setReg o w).pending = s.pending := rfl
@[simp] theorem setReg_chans (s : State) (o : Nat) (w : Word) : (s.setReg o w).chans = s.chans := rfl
@[simp] theorem setReg_mem (s : State) (o : Nat) (w : Word) : (s.setReg o w).mem = s.mem := rfl
@[simp] theorem setReg_host (s : State) (o : Nat) (w : Word) : (s.setReg o w).host = s.host := rfl
@[simp] theorem setReg_poison (s : State) (o : Nat) (w : Word) : (s.setReg o w).poison = s.poison := rfl
@[simp] theorem setReg_cpoison (s : State) (o : Nat) (w : Word) : (s.setReg o w).cpoison = s.cpoison := rfl
@[simp] theorem setReg_seals (s : State) (o : Nat) (w : Word) : (s.setReg o w).seals = s.seals := rfl
@[simp] theorem setReg_smsSeq (s : State) (o : Nat) (w : Word) : (s.setReg o w).smsSeq = s.smsSeq := rfl
@[simp] theorem setReg_lgeSeq (s : State) (o : Nat) (w : Word) : (s.setReg o w).lgeSeq = s.lgeSeq := rfl
@[simp] theorem setReg_chunks (s : State) (o : Nat) (w : Word) : (s.setReg o w).chunks = s.chunks := rfl
@[simp] theorem setReg_kcache (s : State) (o : Nat) (w : Word) : (s.setReg o w).kcache = s.kcache := rfl
@[simp] theorem setReg_wiping (s : State) (o : Nat) (w : Word) : (s.setReg o w).wiping = s.wiping := rfl
@[simp] theorem setReg_handover (s : State) (o : Nat) (w : Word) : (s.setReg o w).handover = s.handover := rfl
@[simp] theorem setReg_pipes (s : State) (o : Nat) (w : Word) : (s.setReg o w).pipes = s.pipes := rfl
@[simp] theorem setReg_lge (s : State) (o : Nat) (w : Word) : (s.setReg o w).lge = s.lge := rfl
@[simp] theorem setReg_patchRam (s : State) (o : Nat) (w : Word) : (s.setReg o w).patchRam = s.patchRam := rfl
@[simp] theorem setReg_comps (s : State) (o : Nat) (w : Word) : (s.setReg o w).comps = s.comps := rfl
@[simp] theorem setReg_log (s : State) (o : Nat) (w : Word) : (s.setReg o w).log = s.log := rfl
@[simp] theorem setReg_cmds (s : State) (o : Nat) (w : Word) : (s.setReg o w).cmds = s.cmds := rfl
@[simp] theorem setReg_nor (s : State) (o : Nat) (w : Word) : (s.setReg o w).nor = s.nor := rfl
@[simp] theorem setReg_fuses (s : State) (o : Nat) (w : Word) : (s.setReg o w).fuses = s.fuses := rfl
@[simp] theorem setReg_bnm (s : State) (o : Nat) (w : Word) : (s.setReg o w).bnm = s.bnm := rfl
@[simp] theorem setReg_rst (s : State) (o : Nat) (w : Word) : (s.setReg o w).rst = s.rst := rfl
@[simp] theorem setReg_sx (s : State) (o : Nat) (w : Word) : (s.setReg o w).sx = s.sx := rfl
@[simp] theorem setReg_ifc (s : State) (o : Nat) (w : Word) : (s.setReg o w).ifc = s.ifc := rfl
@[simp] theorem setReg_time (s : State) (o : Nat) (w : Word) : (s.setReg o w).time = s.time := rfl
@[simp] theorem setReg_ticks (s : State) (o : Nat) (w : Word) : (s.setReg o w).ticks = s.ticks := rfl
@[simp] theorem setReg_free (s : State) (o : Nat) (w : Word) : (s.setReg o w).free = s.free := rfl
@[simp] theorem setReg_answer (s : State) (o : Nat) (w : Word) : (s.setReg o w).answer = s.answer := rfl

/-! ### State.modReg -/

@[simp] theorem modReg_pending (s : State) (o : Nat) (f : Word → Word) : (s.modReg o f).pending = s.pending := rfl
@[simp] theorem modReg_chans (s : State) (o : Nat) (f : Word → Word) : (s.modReg o f).chans = s.chans := rfl
@[simp] theorem modReg_mem (s : State) (o : Nat) (f : Word → Word) : (s.modReg o f).mem = s.mem := rfl
@[simp] theorem modReg_host (s : State) (o : Nat) (f : Word → Word) : (s.modReg o f).host = s.host := rfl
@[simp] theorem modReg_poison (s : State) (o : Nat) (f : Word → Word) : (s.modReg o f).poison = s.poison := rfl
@[simp] theorem modReg_cpoison (s : State) (o : Nat) (f : Word → Word) : (s.modReg o f).cpoison = s.cpoison := rfl
@[simp] theorem modReg_seals (s : State) (o : Nat) (f : Word → Word) : (s.modReg o f).seals = s.seals := rfl
@[simp] theorem modReg_smsSeq (s : State) (o : Nat) (f : Word → Word) : (s.modReg o f).smsSeq = s.smsSeq := rfl
@[simp] theorem modReg_lgeSeq (s : State) (o : Nat) (f : Word → Word) : (s.modReg o f).lgeSeq = s.lgeSeq := rfl
@[simp] theorem modReg_chunks (s : State) (o : Nat) (f : Word → Word) : (s.modReg o f).chunks = s.chunks := rfl
@[simp] theorem modReg_kcache (s : State) (o : Nat) (f : Word → Word) : (s.modReg o f).kcache = s.kcache := rfl
@[simp] theorem modReg_wiping (s : State) (o : Nat) (f : Word → Word) : (s.modReg o f).wiping = s.wiping := rfl
@[simp] theorem modReg_handover (s : State) (o : Nat) (f : Word → Word) : (s.modReg o f).handover = s.handover := rfl
@[simp] theorem modReg_pipes (s : State) (o : Nat) (f : Word → Word) : (s.modReg o f).pipes = s.pipes := rfl
@[simp] theorem modReg_lge (s : State) (o : Nat) (f : Word → Word) : (s.modReg o f).lge = s.lge := rfl
@[simp] theorem modReg_patchRam (s : State) (o : Nat) (f : Word → Word) : (s.modReg o f).patchRam = s.patchRam := rfl
@[simp] theorem modReg_comps (s : State) (o : Nat) (f : Word → Word) : (s.modReg o f).comps = s.comps := rfl
@[simp] theorem modReg_log (s : State) (o : Nat) (f : Word → Word) : (s.modReg o f).log = s.log := rfl
@[simp] theorem modReg_cmds (s : State) (o : Nat) (f : Word → Word) : (s.modReg o f).cmds = s.cmds := rfl
@[simp] theorem modReg_nor (s : State) (o : Nat) (f : Word → Word) : (s.modReg o f).nor = s.nor := rfl
@[simp] theorem modReg_fuses (s : State) (o : Nat) (f : Word → Word) : (s.modReg o f).fuses = s.fuses := rfl
@[simp] theorem modReg_bnm (s : State) (o : Nat) (f : Word → Word) : (s.modReg o f).bnm = s.bnm := rfl
@[simp] theorem modReg_rst (s : State) (o : Nat) (f : Word → Word) : (s.modReg o f).rst = s.rst := rfl
@[simp] theorem modReg_sx (s : State) (o : Nat) (f : Word → Word) : (s.modReg o f).sx = s.sx := rfl
@[simp] theorem modReg_ifc (s : State) (o : Nat) (f : Word → Word) : (s.modReg o f).ifc = s.ifc := rfl
@[simp] theorem modReg_time (s : State) (o : Nat) (f : Word → Word) : (s.modReg o f).time = s.time := rfl
@[simp] theorem modReg_ticks (s : State) (o : Nat) (f : Word → Word) : (s.modReg o f).ticks = s.ticks := rfl
@[simp] theorem modReg_free (s : State) (o : Nat) (f : Word → Word) : (s.modReg o f).free = s.free := rfl
@[simp] theorem modReg_answer (s : State) (o : Nat) (f : Word → Word) : (s.modReg o f).answer = s.answer := rfl

/-! ### State.setFld -/

@[simp] theorem setFld_pending (s : State) (o hi lo v : Nat) : (s.setFld o hi lo v).pending = s.pending := rfl
@[simp] theorem setFld_chans (s : State) (o hi lo v : Nat) : (s.setFld o hi lo v).chans = s.chans := rfl
@[simp] theorem setFld_mem (s : State) (o hi lo v : Nat) : (s.setFld o hi lo v).mem = s.mem := rfl
@[simp] theorem setFld_host (s : State) (o hi lo v : Nat) : (s.setFld o hi lo v).host = s.host := rfl
@[simp] theorem setFld_poison (s : State) (o hi lo v : Nat) : (s.setFld o hi lo v).poison = s.poison := rfl
@[simp] theorem setFld_cpoison (s : State) (o hi lo v : Nat) : (s.setFld o hi lo v).cpoison = s.cpoison := rfl
@[simp] theorem setFld_seals (s : State) (o hi lo v : Nat) : (s.setFld o hi lo v).seals = s.seals := rfl
@[simp] theorem setFld_smsSeq (s : State) (o hi lo v : Nat) : (s.setFld o hi lo v).smsSeq = s.smsSeq := rfl
@[simp] theorem setFld_lgeSeq (s : State) (o hi lo v : Nat) : (s.setFld o hi lo v).lgeSeq = s.lgeSeq := rfl
@[simp] theorem setFld_chunks (s : State) (o hi lo v : Nat) : (s.setFld o hi lo v).chunks = s.chunks := rfl
@[simp] theorem setFld_kcache (s : State) (o hi lo v : Nat) : (s.setFld o hi lo v).kcache = s.kcache := rfl
@[simp] theorem setFld_wiping (s : State) (o hi lo v : Nat) : (s.setFld o hi lo v).wiping = s.wiping := rfl
@[simp] theorem setFld_handover (s : State) (o hi lo v : Nat) : (s.setFld o hi lo v).handover = s.handover := rfl
@[simp] theorem setFld_pipes (s : State) (o hi lo v : Nat) : (s.setFld o hi lo v).pipes = s.pipes := rfl
@[simp] theorem setFld_lge (s : State) (o hi lo v : Nat) : (s.setFld o hi lo v).lge = s.lge := rfl
@[simp] theorem setFld_patchRam (s : State) (o hi lo v : Nat) : (s.setFld o hi lo v).patchRam = s.patchRam := rfl
@[simp] theorem setFld_comps (s : State) (o hi lo v : Nat) : (s.setFld o hi lo v).comps = s.comps := rfl
@[simp] theorem setFld_log (s : State) (o hi lo v : Nat) : (s.setFld o hi lo v).log = s.log := rfl
@[simp] theorem setFld_cmds (s : State) (o hi lo v : Nat) : (s.setFld o hi lo v).cmds = s.cmds := rfl
@[simp] theorem setFld_nor (s : State) (o hi lo v : Nat) : (s.setFld o hi lo v).nor = s.nor := rfl
@[simp] theorem setFld_fuses (s : State) (o hi lo v : Nat) : (s.setFld o hi lo v).fuses = s.fuses := rfl
@[simp] theorem setFld_bnm (s : State) (o hi lo v : Nat) : (s.setFld o hi lo v).bnm = s.bnm := rfl
@[simp] theorem setFld_rst (s : State) (o hi lo v : Nat) : (s.setFld o hi lo v).rst = s.rst := rfl
@[simp] theorem setFld_sx (s : State) (o hi lo v : Nat) : (s.setFld o hi lo v).sx = s.sx := rfl
@[simp] theorem setFld_ifc (s : State) (o hi lo v : Nat) : (s.setFld o hi lo v).ifc = s.ifc := rfl
@[simp] theorem setFld_time (s : State) (o hi lo v : Nat) : (s.setFld o hi lo v).time = s.time := rfl
@[simp] theorem setFld_ticks (s : State) (o hi lo v : Nat) : (s.setFld o hi lo v).ticks = s.ticks := rfl
@[simp] theorem setFld_free (s : State) (o hi lo v : Nat) : (s.setFld o hi lo v).free = s.free := rfl
@[simp] theorem setFld_answer (s : State) (o hi lo v : Nat) : (s.setFld o hi lo v).answer = s.answer := rfl

/-! ### State.setBit -/

@[simp] theorem setBit_pending (s : State) (o i : Nat) (b : Bool) : (s.setBit o i b).pending = s.pending := rfl
@[simp] theorem setBit_chans (s : State) (o i : Nat) (b : Bool) : (s.setBit o i b).chans = s.chans := rfl
@[simp] theorem setBit_mem (s : State) (o i : Nat) (b : Bool) : (s.setBit o i b).mem = s.mem := rfl
@[simp] theorem setBit_host (s : State) (o i : Nat) (b : Bool) : (s.setBit o i b).host = s.host := rfl
@[simp] theorem setBit_poison (s : State) (o i : Nat) (b : Bool) : (s.setBit o i b).poison = s.poison := rfl
@[simp] theorem setBit_cpoison (s : State) (o i : Nat) (b : Bool) : (s.setBit o i b).cpoison = s.cpoison := rfl
@[simp] theorem setBit_seals (s : State) (o i : Nat) (b : Bool) : (s.setBit o i b).seals = s.seals := rfl
@[simp] theorem setBit_smsSeq (s : State) (o i : Nat) (b : Bool) : (s.setBit o i b).smsSeq = s.smsSeq := rfl
@[simp] theorem setBit_lgeSeq (s : State) (o i : Nat) (b : Bool) : (s.setBit o i b).lgeSeq = s.lgeSeq := rfl
@[simp] theorem setBit_chunks (s : State) (o i : Nat) (b : Bool) : (s.setBit o i b).chunks = s.chunks := rfl
@[simp] theorem setBit_kcache (s : State) (o i : Nat) (b : Bool) : (s.setBit o i b).kcache = s.kcache := rfl
@[simp] theorem setBit_wiping (s : State) (o i : Nat) (b : Bool) : (s.setBit o i b).wiping = s.wiping := rfl
@[simp] theorem setBit_handover (s : State) (o i : Nat) (b : Bool) : (s.setBit o i b).handover = s.handover := rfl
@[simp] theorem setBit_pipes (s : State) (o i : Nat) (b : Bool) : (s.setBit o i b).pipes = s.pipes := rfl
@[simp] theorem setBit_lge (s : State) (o i : Nat) (b : Bool) : (s.setBit o i b).lge = s.lge := rfl
@[simp] theorem setBit_patchRam (s : State) (o i : Nat) (b : Bool) : (s.setBit o i b).patchRam = s.patchRam := rfl
@[simp] theorem setBit_comps (s : State) (o i : Nat) (b : Bool) : (s.setBit o i b).comps = s.comps := rfl
@[simp] theorem setBit_log (s : State) (o i : Nat) (b : Bool) : (s.setBit o i b).log = s.log := rfl
@[simp] theorem setBit_cmds (s : State) (o i : Nat) (b : Bool) : (s.setBit o i b).cmds = s.cmds := rfl
@[simp] theorem setBit_nor (s : State) (o i : Nat) (b : Bool) : (s.setBit o i b).nor = s.nor := rfl
@[simp] theorem setBit_fuses (s : State) (o i : Nat) (b : Bool) : (s.setBit o i b).fuses = s.fuses := rfl
@[simp] theorem setBit_bnm (s : State) (o i : Nat) (b : Bool) : (s.setBit o i b).bnm = s.bnm := rfl
@[simp] theorem setBit_rst (s : State) (o i : Nat) (b : Bool) : (s.setBit o i b).rst = s.rst := rfl
@[simp] theorem setBit_sx (s : State) (o i : Nat) (b : Bool) : (s.setBit o i b).sx = s.sx := rfl
@[simp] theorem setBit_ifc (s : State) (o i : Nat) (b : Bool) : (s.setBit o i b).ifc = s.ifc := rfl
@[simp] theorem setBit_time (s : State) (o i : Nat) (b : Bool) : (s.setBit o i b).time = s.time := rfl
@[simp] theorem setBit_ticks (s : State) (o i : Nat) (b : Bool) : (s.setBit o i b).ticks = s.ticks := rfl
@[simp] theorem setBit_free (s : State) (o i : Nat) (b : Bool) : (s.setBit o i b).free = s.free := rfl
@[simp] theorem setBit_answer (s : State) (o i : Nat) (b : Bool) : (s.setBit o i b).answer = s.answer := rfl

/-! ### State.count -/

@[simp] theorem count_pending (s : State) (o : Nat) : (s.count o).pending = s.pending := rfl
@[simp] theorem count_chans (s : State) (o : Nat) : (s.count o).chans = s.chans := rfl
@[simp] theorem count_mem (s : State) (o : Nat) : (s.count o).mem = s.mem := rfl
@[simp] theorem count_host (s : State) (o : Nat) : (s.count o).host = s.host := rfl
@[simp] theorem count_poison (s : State) (o : Nat) : (s.count o).poison = s.poison := rfl
@[simp] theorem count_cpoison (s : State) (o : Nat) : (s.count o).cpoison = s.cpoison := rfl
@[simp] theorem count_seals (s : State) (o : Nat) : (s.count o).seals = s.seals := rfl
@[simp] theorem count_smsSeq (s : State) (o : Nat) : (s.count o).smsSeq = s.smsSeq := rfl
@[simp] theorem count_lgeSeq (s : State) (o : Nat) : (s.count o).lgeSeq = s.lgeSeq := rfl
@[simp] theorem count_chunks (s : State) (o : Nat) : (s.count o).chunks = s.chunks := rfl
@[simp] theorem count_kcache (s : State) (o : Nat) : (s.count o).kcache = s.kcache := rfl
@[simp] theorem count_wiping (s : State) (o : Nat) : (s.count o).wiping = s.wiping := rfl
@[simp] theorem count_handover (s : State) (o : Nat) : (s.count o).handover = s.handover := rfl
@[simp] theorem count_pipes (s : State) (o : Nat) : (s.count o).pipes = s.pipes := rfl
@[simp] theorem count_lge (s : State) (o : Nat) : (s.count o).lge = s.lge := rfl
@[simp] theorem count_patchRam (s : State) (o : Nat) : (s.count o).patchRam = s.patchRam := rfl
@[simp] theorem count_comps (s : State) (o : Nat) : (s.count o).comps = s.comps := rfl
@[simp] theorem count_log (s : State) (o : Nat) : (s.count o).log = s.log := rfl
@[simp] theorem count_cmds (s : State) (o : Nat) : (s.count o).cmds = s.cmds := rfl
@[simp] theorem count_nor (s : State) (o : Nat) : (s.count o).nor = s.nor := rfl
@[simp] theorem count_fuses (s : State) (o : Nat) : (s.count o).fuses = s.fuses := rfl
@[simp] theorem count_bnm (s : State) (o : Nat) : (s.count o).bnm = s.bnm := rfl
@[simp] theorem count_rst (s : State) (o : Nat) : (s.count o).rst = s.rst := rfl
@[simp] theorem count_sx (s : State) (o : Nat) : (s.count o).sx = s.sx := rfl
@[simp] theorem count_ifc (s : State) (o : Nat) : (s.count o).ifc = s.ifc := rfl
@[simp] theorem count_time (s : State) (o : Nat) : (s.count o).time = s.time := rfl
@[simp] theorem count_ticks (s : State) (o : Nat) : (s.count o).ticks = s.ticks := rfl
@[simp] theorem count_free (s : State) (o : Nat) : (s.count o).free = s.free := rfl
@[simp] theorem count_answer (s : State) (o : Nat) : (s.count o).answer = s.answer := rfl

/-! ### State.countFld -/

@[simp] theorem countFld_pending (s : State) (o hi lo : Nat) : (s.countFld o hi lo).pending = s.pending := rfl
@[simp] theorem countFld_chans (s : State) (o hi lo : Nat) : (s.countFld o hi lo).chans = s.chans := rfl
@[simp] theorem countFld_mem (s : State) (o hi lo : Nat) : (s.countFld o hi lo).mem = s.mem := rfl
@[simp] theorem countFld_host (s : State) (o hi lo : Nat) : (s.countFld o hi lo).host = s.host := rfl
@[simp] theorem countFld_poison (s : State) (o hi lo : Nat) : (s.countFld o hi lo).poison = s.poison := rfl
@[simp] theorem countFld_cpoison (s : State) (o hi lo : Nat) : (s.countFld o hi lo).cpoison = s.cpoison := rfl
@[simp] theorem countFld_seals (s : State) (o hi lo : Nat) : (s.countFld o hi lo).seals = s.seals := rfl
@[simp] theorem countFld_smsSeq (s : State) (o hi lo : Nat) : (s.countFld o hi lo).smsSeq = s.smsSeq := rfl
@[simp] theorem countFld_lgeSeq (s : State) (o hi lo : Nat) : (s.countFld o hi lo).lgeSeq = s.lgeSeq := rfl
@[simp] theorem countFld_chunks (s : State) (o hi lo : Nat) : (s.countFld o hi lo).chunks = s.chunks := rfl
@[simp] theorem countFld_kcache (s : State) (o hi lo : Nat) : (s.countFld o hi lo).kcache = s.kcache := rfl
@[simp] theorem countFld_wiping (s : State) (o hi lo : Nat) : (s.countFld o hi lo).wiping = s.wiping := rfl
@[simp] theorem countFld_handover (s : State) (o hi lo : Nat) : (s.countFld o hi lo).handover = s.handover := rfl
@[simp] theorem countFld_pipes (s : State) (o hi lo : Nat) : (s.countFld o hi lo).pipes = s.pipes := rfl
@[simp] theorem countFld_lge (s : State) (o hi lo : Nat) : (s.countFld o hi lo).lge = s.lge := rfl
@[simp] theorem countFld_patchRam (s : State) (o hi lo : Nat) : (s.countFld o hi lo).patchRam = s.patchRam := rfl
@[simp] theorem countFld_comps (s : State) (o hi lo : Nat) : (s.countFld o hi lo).comps = s.comps := rfl
@[simp] theorem countFld_log (s : State) (o hi lo : Nat) : (s.countFld o hi lo).log = s.log := rfl
@[simp] theorem countFld_cmds (s : State) (o hi lo : Nat) : (s.countFld o hi lo).cmds = s.cmds := rfl
@[simp] theorem countFld_nor (s : State) (o hi lo : Nat) : (s.countFld o hi lo).nor = s.nor := rfl
@[simp] theorem countFld_fuses (s : State) (o hi lo : Nat) : (s.countFld o hi lo).fuses = s.fuses := rfl
@[simp] theorem countFld_bnm (s : State) (o hi lo : Nat) : (s.countFld o hi lo).bnm = s.bnm := rfl
@[simp] theorem countFld_rst (s : State) (o hi lo : Nat) : (s.countFld o hi lo).rst = s.rst := rfl
@[simp] theorem countFld_sx (s : State) (o hi lo : Nat) : (s.countFld o hi lo).sx = s.sx := rfl
@[simp] theorem countFld_ifc (s : State) (o hi lo : Nat) : (s.countFld o hi lo).ifc = s.ifc := rfl
@[simp] theorem countFld_time (s : State) (o hi lo : Nat) : (s.countFld o hi lo).time = s.time := rfl
@[simp] theorem countFld_ticks (s : State) (o hi lo : Nat) : (s.countFld o hi lo).ticks = s.ticks := rfl
@[simp] theorem countFld_free (s : State) (o hi lo : Nat) : (s.countFld o hi lo).free = s.free := rfl
@[simp] theorem countFld_answer (s : State) (o hi lo : Nat) : (s.countFld o hi lo).answer = s.answer := rfl

/-! ### State.setByte -/

@[simp] theorem setByte_pending (s : State) (a : Nat) (b : Byte) : (s.setByte a b).pending = s.pending := rfl
@[simp] theorem setByte_chans (s : State) (a : Nat) (b : Byte) : (s.setByte a b).chans = s.chans := rfl
@[simp] theorem setByte_regs (s : State) (a : Nat) (b : Byte) : (s.setByte a b).regs = s.regs := rfl
@[simp] theorem setByte_host (s : State) (a : Nat) (b : Byte) : (s.setByte a b).host = s.host := rfl
@[simp] theorem setByte_poison (s : State) (a : Nat) (b : Byte) : (s.setByte a b).poison = s.poison := rfl
@[simp] theorem setByte_cpoison (s : State) (a : Nat) (b : Byte) : (s.setByte a b).cpoison = s.cpoison := rfl
@[simp] theorem setByte_seals (s : State) (a : Nat) (b : Byte) : (s.setByte a b).seals = s.seals := rfl
@[simp] theorem setByte_smsSeq (s : State) (a : Nat) (b : Byte) : (s.setByte a b).smsSeq = s.smsSeq := rfl
@[simp] theorem setByte_lgeSeq (s : State) (a : Nat) (b : Byte) : (s.setByte a b).lgeSeq = s.lgeSeq := rfl
@[simp] theorem setByte_chunks (s : State) (a : Nat) (b : Byte) : (s.setByte a b).chunks = s.chunks := rfl
@[simp] theorem setByte_kcache (s : State) (a : Nat) (b : Byte) : (s.setByte a b).kcache = s.kcache := rfl
@[simp] theorem setByte_wiping (s : State) (a : Nat) (b : Byte) : (s.setByte a b).wiping = s.wiping := rfl
@[simp] theorem setByte_handover (s : State) (a : Nat) (b : Byte) : (s.setByte a b).handover = s.handover := rfl
@[simp] theorem setByte_pipes (s : State) (a : Nat) (b : Byte) : (s.setByte a b).pipes = s.pipes := rfl
@[simp] theorem setByte_lge (s : State) (a : Nat) (b : Byte) : (s.setByte a b).lge = s.lge := rfl
@[simp] theorem setByte_patchRam (s : State) (a : Nat) (b : Byte) : (s.setByte a b).patchRam = s.patchRam := rfl
@[simp] theorem setByte_comps (s : State) (a : Nat) (b : Byte) : (s.setByte a b).comps = s.comps := rfl
@[simp] theorem setByte_log (s : State) (a : Nat) (b : Byte) : (s.setByte a b).log = s.log := rfl
@[simp] theorem setByte_cmds (s : State) (a : Nat) (b : Byte) : (s.setByte a b).cmds = s.cmds := rfl
@[simp] theorem setByte_nor (s : State) (a : Nat) (b : Byte) : (s.setByte a b).nor = s.nor := rfl
@[simp] theorem setByte_fuses (s : State) (a : Nat) (b : Byte) : (s.setByte a b).fuses = s.fuses := rfl
@[simp] theorem setByte_bnm (s : State) (a : Nat) (b : Byte) : (s.setByte a b).bnm = s.bnm := rfl
@[simp] theorem setByte_rst (s : State) (a : Nat) (b : Byte) : (s.setByte a b).rst = s.rst := rfl
@[simp] theorem setByte_sx (s : State) (a : Nat) (b : Byte) : (s.setByte a b).sx = s.sx := rfl
@[simp] theorem setByte_ifc (s : State) (a : Nat) (b : Byte) : (s.setByte a b).ifc = s.ifc := rfl
@[simp] theorem setByte_time (s : State) (a : Nat) (b : Byte) : (s.setByte a b).time = s.time := rfl
@[simp] theorem setByte_ticks (s : State) (a : Nat) (b : Byte) : (s.setByte a b).ticks = s.ticks := rfl
@[simp] theorem setByte_free (s : State) (a : Nat) (b : Byte) : (s.setByte a b).free = s.free := rfl
@[simp] theorem setByte_answer (s : State) (a : Nat) (b : Byte) : (s.setByte a b).answer = s.answer := rfl

/-! ### State.answers -/

@[simp] theorem answers_pending (s : State) (a : Answer) : (s.answers a).pending = s.pending := rfl
@[simp] theorem answers_chans (s : State) (a : Answer) : (s.answers a).chans = s.chans := rfl
@[simp] theorem answers_regs (s : State) (a : Answer) : (s.answers a).regs = s.regs := rfl
@[simp] theorem answers_mem (s : State) (a : Answer) : (s.answers a).mem = s.mem := rfl
@[simp] theorem answers_host (s : State) (a : Answer) : (s.answers a).host = s.host := rfl
@[simp] theorem answers_poison (s : State) (a : Answer) : (s.answers a).poison = s.poison := rfl
@[simp] theorem answers_cpoison (s : State) (a : Answer) : (s.answers a).cpoison = s.cpoison := rfl
@[simp] theorem answers_seals (s : State) (a : Answer) : (s.answers a).seals = s.seals := rfl
@[simp] theorem answers_smsSeq (s : State) (a : Answer) : (s.answers a).smsSeq = s.smsSeq := rfl
@[simp] theorem answers_lgeSeq (s : State) (a : Answer) : (s.answers a).lgeSeq = s.lgeSeq := rfl
@[simp] theorem answers_chunks (s : State) (a : Answer) : (s.answers a).chunks = s.chunks := rfl
@[simp] theorem answers_kcache (s : State) (a : Answer) : (s.answers a).kcache = s.kcache := rfl
@[simp] theorem answers_wiping (s : State) (a : Answer) : (s.answers a).wiping = s.wiping := rfl
@[simp] theorem answers_handover (s : State) (a : Answer) : (s.answers a).handover = s.handover := rfl
@[simp] theorem answers_pipes (s : State) (a : Answer) : (s.answers a).pipes = s.pipes := rfl
@[simp] theorem answers_lge (s : State) (a : Answer) : (s.answers a).lge = s.lge := rfl
@[simp] theorem answers_patchRam (s : State) (a : Answer) : (s.answers a).patchRam = s.patchRam := rfl
@[simp] theorem answers_comps (s : State) (a : Answer) : (s.answers a).comps = s.comps := rfl
@[simp] theorem answers_log (s : State) (a : Answer) : (s.answers a).log = s.log := rfl
@[simp] theorem answers_cmds (s : State) (a : Answer) : (s.answers a).cmds = s.cmds := rfl
@[simp] theorem answers_nor (s : State) (a : Answer) : (s.answers a).nor = s.nor := rfl
@[simp] theorem answers_fuses (s : State) (a : Answer) : (s.answers a).fuses = s.fuses := rfl
@[simp] theorem answers_bnm (s : State) (a : Answer) : (s.answers a).bnm = s.bnm := rfl
@[simp] theorem answers_rst (s : State) (a : Answer) : (s.answers a).rst = s.rst := rfl
@[simp] theorem answers_sx (s : State) (a : Answer) : (s.answers a).sx = s.sx := rfl
@[simp] theorem answers_ifc (s : State) (a : Answer) : (s.answers a).ifc = s.ifc := rfl
@[simp] theorem answers_time (s : State) (a : Answer) : (s.answers a).time = s.time := rfl
@[simp] theorem answers_ticks (s : State) (a : Answer) : (s.answers a).ticks = s.ticks := rfl
@[simp] theorem answers_free (s : State) (a : Answer) : (s.answers a).free = s.free := rfl

/-! ### State.freeWord -/

@[simp] theorem freeWord_pending (s : State) : s.freeWord.2.pending = s.pending := rfl
@[simp] theorem freeWord_chans (s : State) : s.freeWord.2.chans = s.chans := rfl
@[simp] theorem freeWord_regs (s : State) : s.freeWord.2.regs = s.regs := rfl
@[simp] theorem freeWord_mem (s : State) : s.freeWord.2.mem = s.mem := rfl
@[simp] theorem freeWord_host (s : State) : s.freeWord.2.host = s.host := rfl
@[simp] theorem freeWord_poison (s : State) : s.freeWord.2.poison = s.poison := rfl
@[simp] theorem freeWord_cpoison (s : State) : s.freeWord.2.cpoison = s.cpoison := rfl
@[simp] theorem freeWord_seals (s : State) : s.freeWord.2.seals = s.seals := rfl
@[simp] theorem freeWord_smsSeq (s : State) : s.freeWord.2.smsSeq = s.smsSeq := rfl
@[simp] theorem freeWord_lgeSeq (s : State) : s.freeWord.2.lgeSeq = s.lgeSeq := rfl
@[simp] theorem freeWord_chunks (s : State) : s.freeWord.2.chunks = s.chunks := rfl
@[simp] theorem freeWord_kcache (s : State) : s.freeWord.2.kcache = s.kcache := rfl
@[simp] theorem freeWord_wiping (s : State) : s.freeWord.2.wiping = s.wiping := rfl
@[simp] theorem freeWord_handover (s : State) : s.freeWord.2.handover = s.handover := rfl
@[simp] theorem freeWord_pipes (s : State) : s.freeWord.2.pipes = s.pipes := rfl
@[simp] theorem freeWord_lge (s : State) : s.freeWord.2.lge = s.lge := rfl
@[simp] theorem freeWord_patchRam (s : State) : s.freeWord.2.patchRam = s.patchRam := rfl
@[simp] theorem freeWord_comps (s : State) : s.freeWord.2.comps = s.comps := rfl
@[simp] theorem freeWord_log (s : State) : s.freeWord.2.log = s.log := rfl
@[simp] theorem freeWord_cmds (s : State) : s.freeWord.2.cmds = s.cmds := rfl
@[simp] theorem freeWord_nor (s : State) : s.freeWord.2.nor = s.nor := rfl
@[simp] theorem freeWord_fuses (s : State) : s.freeWord.2.fuses = s.fuses := rfl
@[simp] theorem freeWord_bnm (s : State) : s.freeWord.2.bnm = s.bnm := rfl
@[simp] theorem freeWord_rst (s : State) : s.freeWord.2.rst = s.rst := rfl
@[simp] theorem freeWord_sx (s : State) : s.freeWord.2.sx = s.sx := rfl
@[simp] theorem freeWord_ifc (s : State) : s.freeWord.2.ifc = s.ifc := rfl
@[simp] theorem freeWord_time (s : State) : s.freeWord.2.time = s.time := rfl
@[simp] theorem freeWord_ticks (s : State) : s.freeWord.2.ticks = s.ticks := rfl
@[simp] theorem freeWord_answer (s : State) : s.freeWord.2.answer = s.answer := rfl

/-! ### State.freeBytes -/

@[simp] theorem freeBytes_pending (s : State) (n : Nat) : (s.freeBytes n).2.pending = s.pending := rfl
@[simp] theorem freeBytes_chans (s : State) (n : Nat) : (s.freeBytes n).2.chans = s.chans := rfl
@[simp] theorem freeBytes_regs (s : State) (n : Nat) : (s.freeBytes n).2.regs = s.regs := rfl
@[simp] theorem freeBytes_mem (s : State) (n : Nat) : (s.freeBytes n).2.mem = s.mem := rfl
@[simp] theorem freeBytes_host (s : State) (n : Nat) : (s.freeBytes n).2.host = s.host := rfl
@[simp] theorem freeBytes_poison (s : State) (n : Nat) : (s.freeBytes n).2.poison = s.poison := rfl
@[simp] theorem freeBytes_cpoison (s : State) (n : Nat) : (s.freeBytes n).2.cpoison = s.cpoison := rfl
@[simp] theorem freeBytes_seals (s : State) (n : Nat) : (s.freeBytes n).2.seals = s.seals := rfl
@[simp] theorem freeBytes_smsSeq (s : State) (n : Nat) : (s.freeBytes n).2.smsSeq = s.smsSeq := rfl
@[simp] theorem freeBytes_lgeSeq (s : State) (n : Nat) : (s.freeBytes n).2.lgeSeq = s.lgeSeq := rfl
@[simp] theorem freeBytes_chunks (s : State) (n : Nat) : (s.freeBytes n).2.chunks = s.chunks := rfl
@[simp] theorem freeBytes_kcache (s : State) (n : Nat) : (s.freeBytes n).2.kcache = s.kcache := rfl
@[simp] theorem freeBytes_wiping (s : State) (n : Nat) : (s.freeBytes n).2.wiping = s.wiping := rfl
@[simp] theorem freeBytes_handover (s : State) (n : Nat) : (s.freeBytes n).2.handover = s.handover := rfl
@[simp] theorem freeBytes_pipes (s : State) (n : Nat) : (s.freeBytes n).2.pipes = s.pipes := rfl
@[simp] theorem freeBytes_lge (s : State) (n : Nat) : (s.freeBytes n).2.lge = s.lge := rfl
@[simp] theorem freeBytes_patchRam (s : State) (n : Nat) : (s.freeBytes n).2.patchRam = s.patchRam := rfl
@[simp] theorem freeBytes_comps (s : State) (n : Nat) : (s.freeBytes n).2.comps = s.comps := rfl
@[simp] theorem freeBytes_log (s : State) (n : Nat) : (s.freeBytes n).2.log = s.log := rfl
@[simp] theorem freeBytes_cmds (s : State) (n : Nat) : (s.freeBytes n).2.cmds = s.cmds := rfl
@[simp] theorem freeBytes_nor (s : State) (n : Nat) : (s.freeBytes n).2.nor = s.nor := rfl
@[simp] theorem freeBytes_fuses (s : State) (n : Nat) : (s.freeBytes n).2.fuses = s.fuses := rfl
@[simp] theorem freeBytes_bnm (s : State) (n : Nat) : (s.freeBytes n).2.bnm = s.bnm := rfl
@[simp] theorem freeBytes_rst (s : State) (n : Nat) : (s.freeBytes n).2.rst = s.rst := rfl
@[simp] theorem freeBytes_sx (s : State) (n : Nat) : (s.freeBytes n).2.sx = s.sx := rfl
@[simp] theorem freeBytes_ifc (s : State) (n : Nat) : (s.freeBytes n).2.ifc = s.ifc := rfl
@[simp] theorem freeBytes_time (s : State) (n : Nat) : (s.freeBytes n).2.time = s.time := rfl
@[simp] theorem freeBytes_ticks (s : State) (n : Nat) : (s.freeBytes n).2.ticks = s.ticks := rfl
@[simp] theorem freeBytes_answer (s : State) (n : Nat) : (s.freeBytes n).2.answer = s.answer := rfl

/-! ### State.setBytes -/

@[simp] theorem setBytes_pending (s : State) (a : Nat) (l : List Byte) : (s.setBytes a l).pending = s.pending := by
  induction l generalizing s a with
  | nil => rfl
  | cons b l ih => exact (ih _ _)
@[simp] theorem setBytes_chans (s : State) (a : Nat) (l : List Byte) : (s.setBytes a l).chans = s.chans := by
  induction l generalizing s a with
  | nil => rfl
  | cons b l ih => exact (ih _ _)
@[simp] theorem setBytes_regs (s : State) (a : Nat) (l : List Byte) : (s.setBytes a l).regs = s.regs := by
  induction l generalizing s a with
  | nil => rfl
  | cons b l ih => exact (ih _ _)
@[simp] theorem setBytes_host (s : State) (a : Nat) (l : List Byte) : (s.setBytes a l).host = s.host := by
  induction l generalizing s a with
  | nil => rfl
  | cons b l ih => exact (ih _ _)
@[simp] theorem setBytes_poison (s : State) (a : Nat) (l : List Byte) : (s.setBytes a l).poison = s.poison := by
  induction l generalizing s a with
  | nil => rfl
  | cons b l ih => exact (ih _ _)
@[simp] theorem setBytes_cpoison (s : State) (a : Nat) (l : List Byte) : (s.setBytes a l).cpoison = s.cpoison := by
  induction l generalizing s a with
  | nil => rfl
  | cons b l ih => exact (ih _ _)
@[simp] theorem setBytes_seals (s : State) (a : Nat) (l : List Byte) : (s.setBytes a l).seals = s.seals := by
  induction l generalizing s a with
  | nil => rfl
  | cons b l ih => exact (ih _ _)
@[simp] theorem setBytes_smsSeq (s : State) (a : Nat) (l : List Byte) : (s.setBytes a l).smsSeq = s.smsSeq := by
  induction l generalizing s a with
  | nil => rfl
  | cons b l ih => exact (ih _ _)
@[simp] theorem setBytes_lgeSeq (s : State) (a : Nat) (l : List Byte) : (s.setBytes a l).lgeSeq = s.lgeSeq := by
  induction l generalizing s a with
  | nil => rfl
  | cons b l ih => exact (ih _ _)
@[simp] theorem setBytes_chunks (s : State) (a : Nat) (l : List Byte) : (s.setBytes a l).chunks = s.chunks := by
  induction l generalizing s a with
  | nil => rfl
  | cons b l ih => exact (ih _ _)
@[simp] theorem setBytes_kcache (s : State) (a : Nat) (l : List Byte) : (s.setBytes a l).kcache = s.kcache := by
  induction l generalizing s a with
  | nil => rfl
  | cons b l ih => exact (ih _ _)
@[simp] theorem setBytes_wiping (s : State) (a : Nat) (l : List Byte) : (s.setBytes a l).wiping = s.wiping := by
  induction l generalizing s a with
  | nil => rfl
  | cons b l ih => exact (ih _ _)
@[simp] theorem setBytes_handover (s : State) (a : Nat) (l : List Byte) : (s.setBytes a l).handover = s.handover := by
  induction l generalizing s a with
  | nil => rfl
  | cons b l ih => exact (ih _ _)
@[simp] theorem setBytes_pipes (s : State) (a : Nat) (l : List Byte) : (s.setBytes a l).pipes = s.pipes := by
  induction l generalizing s a with
  | nil => rfl
  | cons b l ih => exact (ih _ _)
@[simp] theorem setBytes_lge (s : State) (a : Nat) (l : List Byte) : (s.setBytes a l).lge = s.lge := by
  induction l generalizing s a with
  | nil => rfl
  | cons b l ih => exact (ih _ _)
@[simp] theorem setBytes_patchRam (s : State) (a : Nat) (l : List Byte) : (s.setBytes a l).patchRam = s.patchRam := by
  induction l generalizing s a with
  | nil => rfl
  | cons b l ih => exact (ih _ _)
@[simp] theorem setBytes_comps (s : State) (a : Nat) (l : List Byte) : (s.setBytes a l).comps = s.comps := by
  induction l generalizing s a with
  | nil => rfl
  | cons b l ih => exact (ih _ _)
@[simp] theorem setBytes_log (s : State) (a : Nat) (l : List Byte) : (s.setBytes a l).log = s.log := by
  induction l generalizing s a with
  | nil => rfl
  | cons b l ih => exact (ih _ _)
@[simp] theorem setBytes_cmds (s : State) (a : Nat) (l : List Byte) : (s.setBytes a l).cmds = s.cmds := by
  induction l generalizing s a with
  | nil => rfl
  | cons b l ih => exact (ih _ _)
@[simp] theorem setBytes_nor (s : State) (a : Nat) (l : List Byte) : (s.setBytes a l).nor = s.nor := by
  induction l generalizing s a with
  | nil => rfl
  | cons b l ih => exact (ih _ _)
@[simp] theorem setBytes_fuses (s : State) (a : Nat) (l : List Byte) : (s.setBytes a l).fuses = s.fuses := by
  induction l generalizing s a with
  | nil => rfl
  | cons b l ih => exact (ih _ _)
@[simp] theorem setBytes_bnm (s : State) (a : Nat) (l : List Byte) : (s.setBytes a l).bnm = s.bnm := by
  induction l generalizing s a with
  | nil => rfl
  | cons b l ih => exact (ih _ _)
@[simp] theorem setBytes_rst (s : State) (a : Nat) (l : List Byte) : (s.setBytes a l).rst = s.rst := by
  induction l generalizing s a with
  | nil => rfl
  | cons b l ih => exact (ih _ _)
@[simp] theorem setBytes_sx (s : State) (a : Nat) (l : List Byte) : (s.setBytes a l).sx = s.sx := by
  induction l generalizing s a with
  | nil => rfl
  | cons b l ih => exact (ih _ _)
@[simp] theorem setBytes_ifc (s : State) (a : Nat) (l : List Byte) : (s.setBytes a l).ifc = s.ifc := by
  induction l generalizing s a with
  | nil => rfl
  | cons b l ih => exact (ih _ _)
@[simp] theorem setBytes_time (s : State) (a : Nat) (l : List Byte) : (s.setBytes a l).time = s.time := by
  induction l generalizing s a with
  | nil => rfl
  | cons b l ih => exact (ih _ _)
@[simp] theorem setBytes_ticks (s : State) (a : Nat) (l : List Byte) : (s.setBytes a l).ticks = s.ticks := by
  induction l generalizing s a with
  | nil => rfl
  | cons b l ih => exact (ih _ _)
@[simp] theorem setBytes_free (s : State) (a : Nat) (l : List Byte) : (s.setBytes a l).free = s.free := by
  induction l generalizing s a with
  | nil => rfl
  | cons b l ih => exact (ih _ _)
@[simp] theorem setBytes_answer (s : State) (a : Nat) (l : List Byte) : (s.setBytes a l).answer = s.answer := by
  induction l generalizing s a with
  | nil => rfl
  | cons b l ih => exact (ih _ _)

/-! ### State.setHbytes -/

@[simp] theorem setHbytes_pending (s : State) (a : Nat) (l : List Byte) : (s.setHbytes a l).pending = s.pending := by
  induction l generalizing s a with
  | nil => rfl
  | cons b l ih => exact (ih _ _)
@[simp] theorem setHbytes_chans (s : State) (a : Nat) (l : List Byte) : (s.setHbytes a l).chans = s.chans := by
  induction l generalizing s a with
  | nil => rfl
  | cons b l ih => exact (ih _ _)
@[simp] theorem setHbytes_regs (s : State) (a : Nat) (l : List Byte) : (s.setHbytes a l).regs = s.regs := by
  induction l generalizing s a with
  | nil => rfl
  | cons b l ih => exact (ih _ _)
@[simp] theorem setHbytes_mem (s : State) (a : Nat) (l : List Byte) : (s.setHbytes a l).mem = s.mem := by
  induction l generalizing s a with
  | nil => rfl
  | cons b l ih => exact (ih _ _)
@[simp] theorem setHbytes_poison (s : State) (a : Nat) (l : List Byte) : (s.setHbytes a l).poison = s.poison := by
  induction l generalizing s a with
  | nil => rfl
  | cons b l ih => exact (ih _ _)
@[simp] theorem setHbytes_cpoison (s : State) (a : Nat) (l : List Byte) : (s.setHbytes a l).cpoison = s.cpoison := by
  induction l generalizing s a with
  | nil => rfl
  | cons b l ih => exact (ih _ _)
@[simp] theorem setHbytes_seals (s : State) (a : Nat) (l : List Byte) : (s.setHbytes a l).seals = s.seals := by
  induction l generalizing s a with
  | nil => rfl
  | cons b l ih => exact (ih _ _)
@[simp] theorem setHbytes_smsSeq (s : State) (a : Nat) (l : List Byte) : (s.setHbytes a l).smsSeq = s.smsSeq := by
  induction l generalizing s a with
  | nil => rfl
  | cons b l ih => exact (ih _ _)
@[simp] theorem setHbytes_lgeSeq (s : State) (a : Nat) (l : List Byte) : (s.setHbytes a l).lgeSeq = s.lgeSeq := by
  induction l generalizing s a with
  | nil => rfl
  | cons b l ih => exact (ih _ _)
@[simp] theorem setHbytes_chunks (s : State) (a : Nat) (l : List Byte) : (s.setHbytes a l).chunks = s.chunks := by
  induction l generalizing s a with
  | nil => rfl
  | cons b l ih => exact (ih _ _)
@[simp] theorem setHbytes_kcache (s : State) (a : Nat) (l : List Byte) : (s.setHbytes a l).kcache = s.kcache := by
  induction l generalizing s a with
  | nil => rfl
  | cons b l ih => exact (ih _ _)
@[simp] theorem setHbytes_wiping (s : State) (a : Nat) (l : List Byte) : (s.setHbytes a l).wiping = s.wiping := by
  induction l generalizing s a with
  | nil => rfl
  | cons b l ih => exact (ih _ _)
@[simp] theorem setHbytes_handover (s : State) (a : Nat) (l : List Byte) : (s.setHbytes a l).handover = s.handover := by
  induction l generalizing s a with
  | nil => rfl
  | cons b l ih => exact (ih _ _)
@[simp] theorem setHbytes_pipes (s : State) (a : Nat) (l : List Byte) : (s.setHbytes a l).pipes = s.pipes := by
  induction l generalizing s a with
  | nil => rfl
  | cons b l ih => exact (ih _ _)
@[simp] theorem setHbytes_lge (s : State) (a : Nat) (l : List Byte) : (s.setHbytes a l).lge = s.lge := by
  induction l generalizing s a with
  | nil => rfl
  | cons b l ih => exact (ih _ _)
@[simp] theorem setHbytes_patchRam (s : State) (a : Nat) (l : List Byte) : (s.setHbytes a l).patchRam = s.patchRam := by
  induction l generalizing s a with
  | nil => rfl
  | cons b l ih => exact (ih _ _)
@[simp] theorem setHbytes_comps (s : State) (a : Nat) (l : List Byte) : (s.setHbytes a l).comps = s.comps := by
  induction l generalizing s a with
  | nil => rfl
  | cons b l ih => exact (ih _ _)
@[simp] theorem setHbytes_log (s : State) (a : Nat) (l : List Byte) : (s.setHbytes a l).log = s.log := by
  induction l generalizing s a with
  | nil => rfl
  | cons b l ih => exact (ih _ _)
@[simp] theorem setHbytes_cmds (s : State) (a : Nat) (l : List Byte) : (s.setHbytes a l).cmds = s.cmds := by
  induction l generalizing s a with
  | nil => rfl
  | cons b l ih => exact (ih _ _)
@[simp] theorem setHbytes_nor (s : State) (a : Nat) (l : List Byte) : (s.setHbytes a l).nor = s.nor := by
  induction l generalizing s a with
  | nil => rfl
  | cons b l ih => exact (ih _ _)
@[simp] theorem setHbytes_fuses (s : State) (a : Nat) (l : List Byte) : (s.setHbytes a l).fuses = s.fuses := by
  induction l generalizing s a with
  | nil => rfl
  | cons b l ih => exact (ih _ _)
@[simp] theorem setHbytes_bnm (s : State) (a : Nat) (l : List Byte) : (s.setHbytes a l).bnm = s.bnm := by
  induction l generalizing s a with
  | nil => rfl
  | cons b l ih => exact (ih _ _)
@[simp] theorem setHbytes_rst (s : State) (a : Nat) (l : List Byte) : (s.setHbytes a l).rst = s.rst := by
  induction l generalizing s a with
  | nil => rfl
  | cons b l ih => exact (ih _ _)
@[simp] theorem setHbytes_sx (s : State) (a : Nat) (l : List Byte) : (s.setHbytes a l).sx = s.sx := by
  induction l generalizing s a with
  | nil => rfl
  | cons b l ih => exact (ih _ _)
@[simp] theorem setHbytes_ifc (s : State) (a : Nat) (l : List Byte) : (s.setHbytes a l).ifc = s.ifc := by
  induction l generalizing s a with
  | nil => rfl
  | cons b l ih => exact (ih _ _)
@[simp] theorem setHbytes_time (s : State) (a : Nat) (l : List Byte) : (s.setHbytes a l).time = s.time := by
  induction l generalizing s a with
  | nil => rfl
  | cons b l ih => exact (ih _ _)
@[simp] theorem setHbytes_ticks (s : State) (a : Nat) (l : List Byte) : (s.setHbytes a l).ticks = s.ticks := by
  induction l generalizing s a with
  | nil => rfl
  | cons b l ih => exact (ih _ _)
@[simp] theorem setHbytes_free (s : State) (a : Nat) (l : List Byte) : (s.setHbytes a l).free = s.free := by
  induction l generalizing s a with
  | nil => rfl
  | cons b l ih => exact (ih _ _)
@[simp] theorem setHbytes_answer (s : State) (a : Nat) (l : List Byte) : (s.setHbytes a l).answer = s.answer := by
  induction l generalizing s a with
  | nil => rfl
  | cons b l ih => exact (ih _ _)

/-! ### Channel.setCsw -/

@[simp] theorem setCsw_st (ch : Channel) (i : Nat) (b : Bool) : (ch.setCsw i b).st = ch.st := rfl
@[simp] theorem setCsw_g (ch : Channel) (i : Nat) (b : Bool) : (ch.setCsw i b).g = ch.g := rfl
@[simp] theorem setCsw_pc (ch : Channel) (i : Nat) (b : Bool) : (ch.setCsw i b).pc = ch.pc := rfl
@[simp] theorem setCsw_fsw (ch : Channel) (i : Nat) (b : Bool) : (ch.setCsw i b).fsw = ch.fsw := rfl
@[simp] theorem setCsw_wm (ch : Channel) (i : Nat) (b : Bool) : (ch.setCsw i b).wm = ch.wm := rfl
@[simp] theorem setCsw_sc (ch : Channel) (i : Nat) (b : Bool) : (ch.setCsw i b).sc = ch.sc := rfl
@[simp] theorem setCsw_vl (ch : Channel) (i : Nat) (b : Bool) : (ch.setCsw i b).vl = ch.vl := rfl
@[simp] theorem setCsw_slim (ch : Channel) (i : Nat) (b : Bool) : (ch.setCsw i b).slim = ch.slim := rfl
@[simp] theorem setCsw_lsav (ch : Channel) (i : Nat) (b : Bool) : (ch.setCsw i b).lsav = ch.lsav := rfl
@[simp] theorem setCsw_lpst (ch : Channel) (i : Nat) (b : Bool) : (ch.setCsw i b).lpst = ch.lpst := rfl
@[simp] theorem setCsw_lps (ch : Channel) (i : Nat) (b : Bool) : (ch.setCsw i b).lps = ch.lps := rfl
@[simp] theorem setCsw_lpe (ch : Channel) (i : Nat) (b : Bool) : (ch.setCsw i b).lpe = ch.lpe := rfl
@[simp] theorem setCsw_lpc (ch : Channel) (i : Nat) (b : Bool) : (ch.setCsw i b).lpc = ch.lpc := rfl
@[simp] theorem setCsw_vbar (ch : Channel) (i : Nat) (b : Bool) : (ch.setCsw i b).vbar = ch.vbar := rfl
@[simp] theorem setCsw_d (ch : Channel) (i : Nat) (b : Bool) : (ch.setCsw i b).d = ch.d := rfl
@[simp] theorem setCsw_v (ch : Channel) (i : Nat) (b : Bool) : (ch.setCsw i b).v = ch.v := rfl
@[simp] theorem setCsw_m (ch : Channel) (i : Nat) (b : Bool) : (ch.setCsw i b).m = ch.m := rfl
@[simp] theorem setCsw_pmask (ch : Channel) (i : Nat) (b : Bool) : (ch.setCsw i b).pmask = ch.pmask := rfl
@[simp] theorem setCsw_weight (ch : Channel) (i : Nat) (b : Bool) : (ch.setCsw i b).weight = ch.weight := rfl
@[simp] theorem setCsw_steps (ch : Channel) (i : Nat) (b : Bool) : (ch.setCsw i b).steps = ch.steps := rfl
@[simp] theorem setCsw_stepsH (ch : Channel) (i : Nat) (b : Bool) : (ch.setCsw i b).stepsH = ch.stepsH := rfl
@[simp] theorem setCsw_wraps (ch : Channel) (i : Nat) (b : Bool) : (ch.setCsw i b).wraps = ch.wraps := rfl
@[simp] theorem setCsw_inStep (ch : Channel) (i : Nat) (b : Bool) : (ch.setCsw i b).inStep = ch.inStep := rfl
@[simp] theorem setCsw_xcause (ch : Channel) (i : Nat) (b : Bool) : (ch.setCsw i b).xcause = ch.xcause := rfl
@[simp] theorem setCsw_xaddr (ch : Channel) (i : Nat) (b : Bool) : (ch.setCsw i b).xaddr = ch.xaddr := rfl
@[simp] theorem setCsw_xelem (ch : Channel) (i : Nat) (b : Bool) : (ch.setCsw i b).xelem = ch.xelem := rfl
@[simp] theorem setCsw_rbase (ch : Channel) (i : Nat) (b : Bool) : (ch.setCsw i b).rbase = ch.rbase := rfl
@[simp] theorem setCsw_rattr (ch : Channel) (i : Nat) (b : Bool) : (ch.setCsw i b).rattr = ch.rattr := rfl
@[simp] theorem setCsw_resv (ch : Channel) (i : Nat) (b : Bool) : (ch.setCsw i b).resv = ch.resv := rfl
@[simp] theorem setCsw_loads (ch : Channel) (i : Nat) (b : Bool) : (ch.setCsw i b).loads = ch.loads := rfl
@[simp] theorem setCsw_remotes (ch : Channel) (i : Nat) (b : Bool) : (ch.setCsw i b).remotes = ch.remotes := rfl
@[simp] theorem setCsw_nextId (ch : Channel) (i : Nat) (b : Bool) : (ch.setCsw i b).nextId = ch.nextId := rfl
@[simp] theorem setCsw_stq (ch : Channel) (i : Nat) (b : Bool) : (ch.setCsw i b).stq = ch.stq := rfl
@[simp] theorem setCsw_wait (ch : Channel) (i : Nat) (b : Bool) : (ch.setCsw i b).wait = ch.wait := rfl
@[simp] theorem setCsw_icache (ch : Channel) (i : Nat) (b : Bool) : (ch.setCsw i b).icache = ch.icache := rfl
@[simp] theorem setCsw_fbuf (ch : Channel) (i : Nat) (b : Bool) : (ch.setCsw i b).fbuf = ch.fbuf := rfl
@[simp] theorem setCsw_vcache (ch : Channel) (i : Nat) (b : Bool) : (ch.setCsw i b).vcache = ch.vcache := rfl
@[simp] theorem setCsw_preload (ch : Channel) (i : Nat) (b : Bool) : (ch.setCsw i b).preload = ch.preload := rfl
@[simp] theorem setCsw_slots (ch : Channel) (i : Nat) (b : Bool) : (ch.setCsw i b).slots = ch.slots := rfl
@[simp] theorem setCsw_group (ch : Channel) (i : Nat) (b : Bool) : (ch.setCsw i b).group = ch.group := rfl
@[simp] theorem setCsw_drains (ch : Channel) (i : Nat) (b : Bool) : (ch.setCsw i b).drains = ch.drains := rfl
@[simp] theorem setCsw_nextSid (ch : Channel) (i : Nat) (b : Bool) : (ch.setCsw i b).nextSid = ch.nextSid := rfl
@[simp] theorem setCsw_heldX (ch : Channel) (i : Nat) (b : Bool) : (ch.setCsw i b).heldX = ch.heldX := rfl
@[simp] theorem setCsw_impr (ch : Channel) (i : Nat) (b : Bool) : (ch.setCsw i b).impr = ch.impr := rfl
@[simp] theorem setCsw_window (ch : Channel) (i : Nat) (b : Bool) : (ch.setCsw i b).window = ch.window := rfl
@[simp] theorem setCsw_heldOff (ch : Channel) (i : Nat) (b : Bool) : (ch.setCsw i b).heldOff = ch.heldOff := rfl
@[simp] theorem setCsw_req (ch : Channel) (i : Nat) (b : Bool) : (ch.setCsw i b).req = ch.req := rfl
@[simp] theorem setCsw_mute (ch : Channel) (i : Nat) (b : Bool) : (ch.setCsw i b).mute = ch.mute := rfl
@[simp] theorem setCsw_fed (ch : Channel) (i : Nat) (b : Bool) : (ch.setCsw i b).fed = ch.fed := rfl

/-! ### Channel.setG -/

@[simp] theorem setG_st (ch : Channel) (r : Reg) (w : Word) : (ch.setG r w).st = ch.st := rfl
@[simp] theorem setG_pc (ch : Channel) (r : Reg) (w : Word) : (ch.setG r w).pc = ch.pc := rfl
@[simp] theorem setG_csw (ch : Channel) (r : Reg) (w : Word) : (ch.setG r w).csw = ch.csw := rfl
@[simp] theorem setG_fsw (ch : Channel) (r : Reg) (w : Word) : (ch.setG r w).fsw = ch.fsw := rfl
@[simp] theorem setG_wm (ch : Channel) (r : Reg) (w : Word) : (ch.setG r w).wm = ch.wm := rfl
@[simp] theorem setG_sc (ch : Channel) (r : Reg) (w : Word) : (ch.setG r w).sc = ch.sc := rfl
@[simp] theorem setG_vl (ch : Channel) (r : Reg) (w : Word) : (ch.setG r w).vl = ch.vl := rfl
@[simp] theorem setG_slim (ch : Channel) (r : Reg) (w : Word) : (ch.setG r w).slim = ch.slim := rfl
@[simp] theorem setG_lsav (ch : Channel) (r : Reg) (w : Word) : (ch.setG r w).lsav = ch.lsav := rfl
@[simp] theorem setG_lpst (ch : Channel) (r : Reg) (w : Word) : (ch.setG r w).lpst = ch.lpst := rfl
@[simp] theorem setG_lps (ch : Channel) (r : Reg) (w : Word) : (ch.setG r w).lps = ch.lps := rfl
@[simp] theorem setG_lpe (ch : Channel) (r : Reg) (w : Word) : (ch.setG r w).lpe = ch.lpe := rfl
@[simp] theorem setG_lpc (ch : Channel) (r : Reg) (w : Word) : (ch.setG r w).lpc = ch.lpc := rfl
@[simp] theorem setG_vbar (ch : Channel) (r : Reg) (w : Word) : (ch.setG r w).vbar = ch.vbar := rfl
@[simp] theorem setG_d (ch : Channel) (r : Reg) (w : Word) : (ch.setG r w).d = ch.d := rfl
@[simp] theorem setG_v (ch : Channel) (r : Reg) (w : Word) : (ch.setG r w).v = ch.v := rfl
@[simp] theorem setG_m (ch : Channel) (r : Reg) (w : Word) : (ch.setG r w).m = ch.m := rfl
@[simp] theorem setG_pmask (ch : Channel) (r : Reg) (w : Word) : (ch.setG r w).pmask = ch.pmask := rfl
@[simp] theorem setG_weight (ch : Channel) (r : Reg) (w : Word) : (ch.setG r w).weight = ch.weight := rfl
@[simp] theorem setG_steps (ch : Channel) (r : Reg) (w : Word) : (ch.setG r w).steps = ch.steps := rfl
@[simp] theorem setG_stepsH (ch : Channel) (r : Reg) (w : Word) : (ch.setG r w).stepsH = ch.stepsH := rfl
@[simp] theorem setG_wraps (ch : Channel) (r : Reg) (w : Word) : (ch.setG r w).wraps = ch.wraps := rfl
@[simp] theorem setG_inStep (ch : Channel) (r : Reg) (w : Word) : (ch.setG r w).inStep = ch.inStep := rfl
@[simp] theorem setG_xcause (ch : Channel) (r : Reg) (w : Word) : (ch.setG r w).xcause = ch.xcause := rfl
@[simp] theorem setG_xaddr (ch : Channel) (r : Reg) (w : Word) : (ch.setG r w).xaddr = ch.xaddr := rfl
@[simp] theorem setG_xelem (ch : Channel) (r : Reg) (w : Word) : (ch.setG r w).xelem = ch.xelem := rfl
@[simp] theorem setG_rbase (ch : Channel) (r : Reg) (w : Word) : (ch.setG r w).rbase = ch.rbase := rfl
@[simp] theorem setG_rattr (ch : Channel) (r : Reg) (w : Word) : (ch.setG r w).rattr = ch.rattr := rfl
@[simp] theorem setG_resv (ch : Channel) (r : Reg) (w : Word) : (ch.setG r w).resv = ch.resv := rfl
@[simp] theorem setG_remotes (ch : Channel) (r : Reg) (w : Word) : (ch.setG r w).remotes = ch.remotes := rfl
@[simp] theorem setG_nextId (ch : Channel) (r : Reg) (w : Word) : (ch.setG r w).nextId = ch.nextId := rfl
@[simp] theorem setG_stq (ch : Channel) (r : Reg) (w : Word) : (ch.setG r w).stq = ch.stq := rfl
@[simp] theorem setG_wait (ch : Channel) (r : Reg) (w : Word) : (ch.setG r w).wait = ch.wait := rfl
@[simp] theorem setG_icache (ch : Channel) (r : Reg) (w : Word) : (ch.setG r w).icache = ch.icache := rfl
@[simp] theorem setG_fbuf (ch : Channel) (r : Reg) (w : Word) : (ch.setG r w).fbuf = ch.fbuf := rfl
@[simp] theorem setG_vcache (ch : Channel) (r : Reg) (w : Word) : (ch.setG r w).vcache = ch.vcache := rfl
@[simp] theorem setG_preload (ch : Channel) (r : Reg) (w : Word) : (ch.setG r w).preload = ch.preload := rfl
@[simp] theorem setG_slots (ch : Channel) (r : Reg) (w : Word) : (ch.setG r w).slots = ch.slots := rfl
@[simp] theorem setG_group (ch : Channel) (r : Reg) (w : Word) : (ch.setG r w).group = ch.group := rfl
@[simp] theorem setG_drains (ch : Channel) (r : Reg) (w : Word) : (ch.setG r w).drains = ch.drains := rfl
@[simp] theorem setG_nextSid (ch : Channel) (r : Reg) (w : Word) : (ch.setG r w).nextSid = ch.nextSid := rfl
@[simp] theorem setG_heldX (ch : Channel) (r : Reg) (w : Word) : (ch.setG r w).heldX = ch.heldX := rfl
@[simp] theorem setG_impr (ch : Channel) (r : Reg) (w : Word) : (ch.setG r w).impr = ch.impr := rfl
@[simp] theorem setG_window (ch : Channel) (r : Reg) (w : Word) : (ch.setG r w).window = ch.window := rfl
@[simp] theorem setG_heldOff (ch : Channel) (r : Reg) (w : Word) : (ch.setG r w).heldOff = ch.heldOff := rfl
@[simp] theorem setG_req (ch : Channel) (r : Reg) (w : Word) : (ch.setG r w).req = ch.req := rfl
@[simp] theorem setG_mute (ch : Channel) (r : Reg) (w : Word) : (ch.setG r w).mute = ch.mute := rfl
@[simp] theorem setG_fed (ch : Channel) (r : Reg) (w : Word) : (ch.setG r w).fed = ch.fed := rfl

/-! ### Channel.setD -/

@[simp] theorem setD_st (ch : Channel) (r : Fin 8) (w : BitVec 128) : (ch.setD r w).st = ch.st := rfl
@[simp] theorem setD_g (ch : Channel) (r : Fin 8) (w : BitVec 128) : (ch.setD r w).g = ch.g := rfl
@[simp] theorem setD_pc (ch : Channel) (r : Fin 8) (w : BitVec 128) : (ch.setD r w).pc = ch.pc := rfl
@[simp] theorem setD_csw (ch : Channel) (r : Fin 8) (w : BitVec 128) : (ch.setD r w).csw = ch.csw := rfl
@[simp] theorem setD_fsw (ch : Channel) (r : Fin 8) (w : BitVec 128) : (ch.setD r w).fsw = ch.fsw := rfl
@[simp] theorem setD_wm (ch : Channel) (r : Fin 8) (w : BitVec 128) : (ch.setD r w).wm = ch.wm := rfl
@[simp] theorem setD_sc (ch : Channel) (r : Fin 8) (w : BitVec 128) : (ch.setD r w).sc = ch.sc := rfl
@[simp] theorem setD_vl (ch : Channel) (r : Fin 8) (w : BitVec 128) : (ch.setD r w).vl = ch.vl := rfl
@[simp] theorem setD_slim (ch : Channel) (r : Fin 8) (w : BitVec 128) : (ch.setD r w).slim = ch.slim := rfl
@[simp] theorem setD_lsav (ch : Channel) (r : Fin 8) (w : BitVec 128) : (ch.setD r w).lsav = ch.lsav := rfl
@[simp] theorem setD_lpst (ch : Channel) (r : Fin 8) (w : BitVec 128) : (ch.setD r w).lpst = ch.lpst := rfl
@[simp] theorem setD_lps (ch : Channel) (r : Fin 8) (w : BitVec 128) : (ch.setD r w).lps = ch.lps := rfl
@[simp] theorem setD_lpe (ch : Channel) (r : Fin 8) (w : BitVec 128) : (ch.setD r w).lpe = ch.lpe := rfl
@[simp] theorem setD_lpc (ch : Channel) (r : Fin 8) (w : BitVec 128) : (ch.setD r w).lpc = ch.lpc := rfl
@[simp] theorem setD_vbar (ch : Channel) (r : Fin 8) (w : BitVec 128) : (ch.setD r w).vbar = ch.vbar := rfl
@[simp] theorem setD_v (ch : Channel) (r : Fin 8) (w : BitVec 128) : (ch.setD r w).v = ch.v := rfl
@[simp] theorem setD_m (ch : Channel) (r : Fin 8) (w : BitVec 128) : (ch.setD r w).m = ch.m := rfl
@[simp] theorem setD_pmask (ch : Channel) (r : Fin 8) (w : BitVec 128) : (ch.setD r w).pmask = ch.pmask := rfl
@[simp] theorem setD_weight (ch : Channel) (r : Fin 8) (w : BitVec 128) : (ch.setD r w).weight = ch.weight := rfl
@[simp] theorem setD_steps (ch : Channel) (r : Fin 8) (w : BitVec 128) : (ch.setD r w).steps = ch.steps := rfl
@[simp] theorem setD_stepsH (ch : Channel) (r : Fin 8) (w : BitVec 128) : (ch.setD r w).stepsH = ch.stepsH := rfl
@[simp] theorem setD_wraps (ch : Channel) (r : Fin 8) (w : BitVec 128) : (ch.setD r w).wraps = ch.wraps := rfl
@[simp] theorem setD_inStep (ch : Channel) (r : Fin 8) (w : BitVec 128) : (ch.setD r w).inStep = ch.inStep := rfl
@[simp] theorem setD_xcause (ch : Channel) (r : Fin 8) (w : BitVec 128) : (ch.setD r w).xcause = ch.xcause := rfl
@[simp] theorem setD_xaddr (ch : Channel) (r : Fin 8) (w : BitVec 128) : (ch.setD r w).xaddr = ch.xaddr := rfl
@[simp] theorem setD_xelem (ch : Channel) (r : Fin 8) (w : BitVec 128) : (ch.setD r w).xelem = ch.xelem := rfl
@[simp] theorem setD_rbase (ch : Channel) (r : Fin 8) (w : BitVec 128) : (ch.setD r w).rbase = ch.rbase := rfl
@[simp] theorem setD_rattr (ch : Channel) (r : Fin 8) (w : BitVec 128) : (ch.setD r w).rattr = ch.rattr := rfl
@[simp] theorem setD_resv (ch : Channel) (r : Fin 8) (w : BitVec 128) : (ch.setD r w).resv = ch.resv := rfl
@[simp] theorem setD_remotes (ch : Channel) (r : Fin 8) (w : BitVec 128) : (ch.setD r w).remotes = ch.remotes := rfl
@[simp] theorem setD_nextId (ch : Channel) (r : Fin 8) (w : BitVec 128) : (ch.setD r w).nextId = ch.nextId := rfl
@[simp] theorem setD_stq (ch : Channel) (r : Fin 8) (w : BitVec 128) : (ch.setD r w).stq = ch.stq := rfl
@[simp] theorem setD_wait (ch : Channel) (r : Fin 8) (w : BitVec 128) : (ch.setD r w).wait = ch.wait := rfl
@[simp] theorem setD_icache (ch : Channel) (r : Fin 8) (w : BitVec 128) : (ch.setD r w).icache = ch.icache := rfl
@[simp] theorem setD_fbuf (ch : Channel) (r : Fin 8) (w : BitVec 128) : (ch.setD r w).fbuf = ch.fbuf := rfl
@[simp] theorem setD_vcache (ch : Channel) (r : Fin 8) (w : BitVec 128) : (ch.setD r w).vcache = ch.vcache := rfl
@[simp] theorem setD_preload (ch : Channel) (r : Fin 8) (w : BitVec 128) : (ch.setD r w).preload = ch.preload := rfl
@[simp] theorem setD_slots (ch : Channel) (r : Fin 8) (w : BitVec 128) : (ch.setD r w).slots = ch.slots := rfl
@[simp] theorem setD_group (ch : Channel) (r : Fin 8) (w : BitVec 128) : (ch.setD r w).group = ch.group := rfl
@[simp] theorem setD_drains (ch : Channel) (r : Fin 8) (w : BitVec 128) : (ch.setD r w).drains = ch.drains := rfl
@[simp] theorem setD_nextSid (ch : Channel) (r : Fin 8) (w : BitVec 128) : (ch.setD r w).nextSid = ch.nextSid := rfl
@[simp] theorem setD_heldX (ch : Channel) (r : Fin 8) (w : BitVec 128) : (ch.setD r w).heldX = ch.heldX := rfl
@[simp] theorem setD_impr (ch : Channel) (r : Fin 8) (w : BitVec 128) : (ch.setD r w).impr = ch.impr := rfl
@[simp] theorem setD_window (ch : Channel) (r : Fin 8) (w : BitVec 128) : (ch.setD r w).window = ch.window := rfl
@[simp] theorem setD_heldOff (ch : Channel) (r : Fin 8) (w : BitVec 128) : (ch.setD r w).heldOff = ch.heldOff := rfl
@[simp] theorem setD_req (ch : Channel) (r : Fin 8) (w : BitVec 128) : (ch.setD r w).req = ch.req := rfl
@[simp] theorem setD_mute (ch : Channel) (r : Fin 8) (w : BitVec 128) : (ch.setD r w).mute = ch.mute := rfl
@[simp] theorem setD_fed (ch : Channel) (r : Fin 8) (w : BitVec 128) : (ch.setD r w).fed = ch.fed := rfl

/-! ### Reading channels -/

@[simp] theorem setChan_chan (s : State) (c : Chan) (x : Channel) : (s.setChan c x).chan c = x := by
  simp [State.setChan, State.chan]

theorem setChan_chan_other (s : State) (c d : Chan) (x : Channel) (h : d ≠ c) : (s.setChan c x).chan d = s.chan d := by
  have : c.val ≠ d.val := fun e => h (Fin.ext e.symm)
  simp [State.setChan, State.chan, this]

@[simp] theorem modChan_chan (s : State) (c : Chan) (f : Channel → Channel) : (s.modChan c f).chan c = f (s.chan c) := by
  simp [State.modChan]

theorem modChan_chan_other (s : State) (c d : Chan) (f : Channel → Channel) (h : d ≠ c) :
    (s.modChan c f).chan d = s.chan d := setChan_chan_other s c d _ h

@[simp] theorem setReg_chan (s : State) (o : Nat) (w : Word) (c : Chan) : (s.setReg o w).chan c = s.chan c := rfl
@[simp] theorem setByte_chan (s : State) (a : Nat) (b : Byte) (c : Chan) : (s.setByte a b).chan c = s.chan c := rfl
@[simp] theorem answers_chan (s : State) (a : Answer) (c : Chan) : (s.answers a).chan c = s.chan c := rfl
@[simp] theorem setBytes_chan (s : State) (a : Nat) (l : List Byte) (c : Chan) : (s.setBytes a l).chan c = s.chan c := by
  simp [State.chan]
@[simp] theorem setHbytes_chan (s : State) (a : Nat) (l : List Byte) (c : Chan) : (s.setHbytes a l).chan c = s.chan c := by
  simp [State.chan]

end Sys2Proof.Machine
end

