-- ==== Sys2Proof/Laws/Mem.lean ====
section
/-! SUPPORT. The sparse lists that hold memory, host memory and the control-space words: reading after storing, and the
canonical form, which every operation keeps. -/
namespace Sys2Proof.Machine

/-! ### Reading after storing -/

theorem look_eraseK_self {α : Type} (dflt : Nat → α) (l : List (Nat × α)) (k : Nat) : look dflt (eraseK k l) k = dflt k := by
  induction l with
  | nil => rfl
  | cons e l ih => simp only [eraseK]; split <;> simp_all [look]

theorem look_eraseK_other {α : Type} (dflt : Nat → α) (l : List (Nat × α)) (k j : Nat) (h : j ≠ k) :
    look dflt (eraseK k l) j = look dflt l j := by
  induction l with
  | nil => rfl
  | cons e l ih => simp only [eraseK]; split <;> simp_all [look]; omega

theorem look_insertK_self {α : Type} (dflt : Nat → α) (l : List (Nat × α)) (k : Nat) (v : α) :
    look dflt (insertK k v l) k = v := by
  induction l with
  | nil => simp [insertK, look]
  | cons e l ih => simp only [insertK]; split <;> (try split) <;> simp_all [look]

theorem look_insertK_other {α : Type} (dflt : Nat → α) (l : List (Nat × α)) (k j : Nat) (v : α) (h : j ≠ k) :
    look dflt (insertK k v l) j = look dflt l j := by
  induction l with
  | nil => simp [insertK, look, Ne.symm h]
  | cons e l ih =>
    obtain ⟨a, w⟩ := e
    have hk : k ≠ j := fun e => h e.symm
    simp only [insertK]; split <;> (try split) <;> simp_all [look]

/-- A key reads as what was stored last. -/
@[simp] theorem look_store_self {α : Type} [DecidableEq α] (dflt : Nat → α) (l : List (Nat × α)) (k : Nat) (v : α) :
    look dflt (store dflt l k v) k = v := by
  unfold store
  split
  · next h => rw [look_eraseK_self, h]
  · exact look_insertK_self dflt l k v

/-- Storing at one key leaves every other as it was. -/
theorem look_store_other {α : Type} [DecidableEq α] (dflt : Nat → α) (l : List (Nat × α)) (k j : Nat) (v : α) (h : j ≠ k) :
    look dflt (store dflt l k v) j = look dflt l j := by
  unfold store
  split
  · exact look_eraseK_other dflt l k j h
  · exact look_insertK_other dflt l k j v h

@[simp] theorem reg_setReg_self (s : State) (o : Nat) (w : Word) : (s.setReg o w).reg o = w := look_store_self _ _ _ _
theorem reg_setReg_other (s : State) (o k : Nat) (w : Word) (h : k ≠ o) : (s.setReg o w).reg k = s.reg k :=
  look_store_other _ _ _ _ _ h
@[simp] theorem byte_setByte_self (s : State) (a : Nat) (b : Byte) : (s.setByte a b).byte a = b := look_store_self _ _ _ _
theorem byte_setByte_other (s : State) (a k : Nat) (b : Byte) (h : k ≠ a) : (s.setByte a b).byte k = s.byte k :=
  look_store_other _ _ _ _ _ h
@[simp] theorem byte_setReg (s : State) (o a : Nat) (w : Word) : (s.setReg o w).byte a = s.byte a := rfl
@[simp] theorem byte_modChan (s : State) (c : Chan) (f : Channel → Channel) (a : Nat) : (s.modChan c f).byte a = s.byte a := rfl
@[simp] theorem reg_setByte (s : State) (a o : Nat) (b : Byte) : (s.setByte a b).reg o = s.reg o := rfl
@[simp] theorem reg_modChan (s : State) (c : Chan) (f : Channel → Channel) (o : Nat) : (s.modChan c f).reg o = s.reg o := rfl

/-- Bytes outside the range that is written stay. -/
theorem byte_setBytes_other (s : State) (a k : Nat) (l : List Byte) (h : k < a ∨ a + l.length ≤ k) :
    (s.setBytes a l).byte k = s.byte k := by
  induction l generalizing s a with
  | nil => rfl
  | cons b l ih =>
    simp only [State.setBytes, List.length_cons] at h ⊢
    rw [ih _ _ (by omega), byte_setByte_other _ _ _ _ (by omega)]

/-- A byte of the range that is written is the byte given. -/
theorem byte_setBytes (s : State) (a : Nat) (l : List Byte) (i : Nat) (h : i < l.length) :
    (s.setBytes a l).byte (a + i) = l.getD i 0 := by
  induction l generalizing s a i with
  | nil => simp at h
  | cons b l ih =>
    simp only [State.setBytes]
    cases i with
    | zero => rw [byte_setBytes_other _ _ _ _ (by omega)]; simp
    | succ i =>
      rw [show a + (i + 1) = a + 1 + i by omega, ih _ _ _ (by simpa using h)]
      simp

/-! ### The canonical form -/

/-- The canonical form, as a chain of keys that each exceed the one before. -/
theorem canonB_iff {α : Type} [DecidableEq α] (dflt : Nat → α) (l : List (Nat × α)) :
    canonB dflt l = true ↔ (l.Pairwise fun x y => x.1 < y.1) ∧ ∀ e ∈ l, e.2 ≠ dflt e.1 := by
  induction l with
  | nil => simp [canonB]
  | cons e l ih =>
    cases l with
    | nil => simp [canonB]
    | cons f l =>
      simp only [canonB, Bool.and_eq_true, decide_eq_true_eq] at ih ⊢
      rw [List.pairwise_cons]
      constructor
      · rintro ⟨⟨hv, hlt⟩, h⟩
        have h' := ih.1 h
        refine ⟨⟨?_, h'.1⟩, ?_⟩
        · intro x hx
          rcases List.mem_cons.1 hx with rfl | hx
          · exact hlt
          · exact Nat.lt_trans hlt ((List.pairwise_cons.1 h'.1).1 x hx)
        · intro x hx
          rcases List.mem_cons.1 hx with rfl | hx
          · exact hv
          · exact h'.2 x hx
      · rintro ⟨⟨h1, h2⟩, h3⟩
        exact ⟨⟨h3 e (by simp), h1 f (by simp)⟩, ih.2 ⟨h2, fun x hx => h3 x (by simp [hx])⟩⟩

/-- A filter keeps the canonical form. -/
theorem canonB_filter {α : Type} [DecidableEq α] (dflt : Nat → α) (p : Nat × α → Bool) (l : List (Nat × α))
    (h : canonB dflt l = true) : canonB dflt (l.filter p) = true := by
  rw [canonB_iff] at *
  exact ⟨h.1.filter p, fun e he => h.2 e ((List.mem_filter.1 he).1)⟩

theorem mem_eraseK {α : Type} (k : Nat) (l : List (Nat × α)) (e : Nat × α) (h : e ∈ eraseK k l) : e ∈ l := by
  induction l with
  | nil => simp [eraseK] at h
  | cons x l ih => simp only [eraseK] at h; split at h <;> simp_all <;> grind

theorem eraseK_eq_filter {α : Type} (k : Nat) (l : List (Nat × α)) : eraseK k l = l.filter fun e => e.1 != k := by
  induction l with
  | nil => rfl
  | cons x l ih => simp only [eraseK, List.filter_cons, ih]; split <;> simp_all

theorem mem_insertK {α : Type} (k : Nat) (v : α) (l : List (Nat × α)) (e : Nat × α) (h : e ∈ insertK k v l) :
    e = (k, v) ∨ e ∈ l := by
  induction l with
  | nil => simpa [insertK] using h
  | cons x l ih => simp only [insertK] at h; split at h <;> (try split at h) <;> simp_all <;> grind

theorem canonB_insertK {α : Type} [DecidableEq α] (dflt : Nat → α) (k : Nat) (v : α) (l : List (Nat × α))
    (hv : v ≠ dflt k) (h : canonB dflt l = true) : canonB dflt (insertK k v l) = true := by
  rw [canonB_iff] at *
  refine ⟨?_, fun e he => ?_⟩
  · obtain ⟨h, -⟩ := h
    induction l with
    | nil => simp [insertK]
    | cons x l ih =>
      rw [List.pairwise_cons] at h
      simp only [insertK]
      split
      · next hk =>
        rw [List.pairwise_cons]
        refine ⟨fun e he => ?_, List.pairwise_cons.2 h⟩
        rcases List.mem_cons.1 he with rfl | he
        · exact hk
        · exact Nat.lt_trans hk (h.1 e he)
      · split
        · next hk => rw [List.pairwise_cons]; exact ⟨fun e he => hk ▸ h.1 e he, h.2⟩
        · next h1 h2 =>
          rw [List.pairwise_cons]
          refine ⟨fun e he => ?_, ih h.2⟩
          rcases mem_insertK k v l e he with rfl | he
          · show x.1 < k
            omega
          · exact h.1 e he
  · rcases mem_insertK k v l e he with rfl | he
    · exact hv
    · exact h.2 e he

/-- Storing keeps the canonical form. -/
theorem canonB_store {α : Type} [DecidableEq α] (dflt : Nat → α) (l : List (Nat × α)) (k : Nat) (v : α)
    (h : canonB dflt l = true) : canonB dflt (store dflt l k v) = true := by
  unfold store
  split
  · rw [eraseK_eq_filter]; exact canonB_filter dflt _ l h
  · next hv => exact canonB_insertK dflt k v l hv h

/-! ### The memory operations keep it -/

theorem wf_setByte (s : State) (a : Nat) (b : Byte) (h : Memory.wf s.mem = true) : Memory.wf (s.setByte a b).mem = true :=
  canonB_store _ _ _ _ h

theorem wf_setBytes (s : State) (a : Nat) (l : List Byte) (h : Memory.wf s.mem = true) :
    Memory.wf (s.setBytes a l).mem = true := by
  induction l generalizing s a with
  | nil => exact h
  | cons b l ih => exact ih _ _ (wf_setByte s a b h)

theorem wf_setHbytes (s : State) (a : Nat) (l : List Byte) (h : Memory.wf s.host = true) :
    Memory.wf (s.setHbytes a l).host = true := by
  induction l generalizing s a with
  | nil => exact h
  | cons b l ih => exact ih _ _ (canonB_store _ _ _ _ h)

theorem wf_zeroBank (s : State) (b : Fin 33) (h : Memory.wf s.mem = true) : Memory.wf (zeroBank s b).mem = true :=
  canonB_filter _ _ _ h

theorem wf_initRange (s : State) (lo hi : Nat) (h : Memory.wf s.mem = true) : Memory.wf (initRange s lo hi).mem = true :=
  canonB_filter _ _ _ h

theorem wf_dramOnly (l : List (Nat × Byte)) (h : Memory.wf l = true) : Memory.wf (dramOnly l) = true :=
  canonB_filter _ _ _ h

theorem canon_setReg (s : State) (o : Nat) (w : Word) (h : s.canon = true) : (s.setReg o w).canon = true := by
  simp only [State.canon, Bool.and_eq_true, setReg_mem, setReg_host] at *
  exact ⟨h.1, canonB_store _ _ _ _ h.2⟩

theorem canon_setByte (s : State) (a : Nat) (b : Byte) (h : s.canon = true) : (s.setByte a b).canon = true := by
  simp only [State.canon, Bool.and_eq_true, setByte_regs, setByte_host] at *
  exact ⟨⟨wf_setByte s a b h.1.1, h.1.2⟩, h.2⟩

theorem canon_setBytes (s : State) (a : Nat) (l : List Byte) (h : s.canon = true) : (s.setBytes a l).canon = true := by
  simp only [State.canon, Bool.and_eq_true, setBytes_regs, setBytes_host] at *
  exact ⟨⟨wf_setBytes s a l h.1.1, h.1.2⟩, h.2⟩

theorem canon_setHbytes (s : State) (a : Nat) (l : List Byte) (h : s.canon = true) : (s.setHbytes a l).canon = true := by
  simp only [State.canon, Bool.and_eq_true, setHbytes_regs, setHbytes_mem] at *
  exact ⟨⟨h.1.1, wf_setHbytes s a l h.1.2⟩, h.2⟩

@[simp] theorem canon_modChan (s : State) (c : Chan) (f : Channel → Channel) : (s.modChan c f).canon = s.canon := rfl

/-- Filling a range keeps the canonical form. -/
theorem wf_fillMem (s : State) (lo n : Nat) (b : Byte) (h : Memory.wf s.mem = true) :
    Memory.wf (fillMem s lo n b).mem = true := by
  unfold Memory.wf at *
  rw [canonB_iff] at *
  unfold fillMem
  dsimp only
  split
  · next hb =>
    simp only [List.append_nil, List.pairwise_append]
    refine ⟨⟨h.1.filter _, h.1.filter _, fun x hx y hy => ?_⟩, fun e he => ?_⟩
    · simp only [List.mem_filter, decide_eq_true_eq] at hx hy; omega
    · rcases List.mem_append.1 he with he | he <;> exact h.2 e ((List.mem_filter.1 he).1)
  · next hb =>
    simp only [List.pairwise_append, List.mem_append]
    refine ⟨⟨⟨h.1.filter _, ?_, fun x hx y hy => ?_⟩, h.1.filter _, fun x hx y hy => ?_⟩, fun e he => ?_⟩
    · rw [List.pairwise_map]
      exact List.pairwise_lt_range.imp fun {x y} hxy => by show lo + x < lo + y; omega
    · simp only [List.mem_filter, List.mem_map, List.mem_range, decide_eq_true_eq] at hx hy
      obtain ⟨i, hi, rfl⟩ := hy
      show x.1 < lo + i
      omega
    · simp only [List.mem_filter, List.mem_map, List.mem_range, decide_eq_true_eq] at hx hy
      rcases hx with hx | ⟨i, hi, rfl⟩
      · omega
      · show lo + i < y.1
        omega
    · rcases he with (he | he) | he
      · exact h.2 e ((List.mem_filter.1 he).1)
      · obtain ⟨i, hi, rfl⟩ := List.mem_map.1 he; exact hb
      · exact h.2 e ((List.mem_filter.1 he).1)

end Sys2Proof.Machine
end

