-- ==== Sys2Proof/Laws/Log.lean ====
section
/-! SUPPORT. What forming a record, asserting an event and requesting a reset can change. -/
namespace Sys2Proof.Machine

theorem RegsBut.refl (os : List Nat) (s : State) : RegsBut os s s := fun _ _ => rfl

theorem RegsBut.trans {os : List Nat} {s t u : State} (h : RegsBut os s t) (k : RegsBut os t u) : RegsBut os s u :=
  fun o ho => (k o ho).trans (h o ho)

theorem RegsBut.mono {os ps : List Nat} {s t : State} (h : RegsBut os s t) (k : ∀ o ∈ os, o ∈ ps) : RegsBut ps s t :=
  fun o ho => h o fun hm => ho (k o hm)

theorem regsBut_setReg (s : State) (o : Nat) (w : Word) : RegsBut [o] s (s.setReg o w) :=
  fun k hk => reg_setReg_other s o k w (by simpa using hk)

/-- A peek changes at most SX_PEEKFAIL (R459). -/
theorem peekReg_state (s : State) (m : Master) (o : Nat) :
    ∃ r, (peekReg s m o).2.2 = { s with regs := r } ∧ RegsBut [R.sxPeekFail] s (peekReg s m o).2.2 := by
  unfold peekReg
  split
  · split
    · generalize BitVec.ofNat 32 (o + 2 ^ 31) = w
      exact ⟨_, rfl, regsBut_setReg s R.sxPeekFail w⟩
    · exact ⟨s.regs, rfl, RegsBut.refl _ _⟩
  · exact ⟨s.regs, rfl, RegsBut.refl _ _⟩

/-- A captured word changes at most SX_PEEKFAIL and the list of stray offsets (R446, R459). -/
theorem captureWord_state (s : State) (o : Nat) :
    ∃ r l, (captureWord s o).2 = { s with regs := r, log := { s.log with stray := l } } ∧
      RegsBut [R.sxPeekFail] s (captureWord s o).2 := by
  unfold captureWord
  split
  · obtain ⟨r, hr, hb⟩ := peekReg_state s .rst o
    exact ⟨r, s.log.stray, hr, hb⟩
  · exact ⟨s.regs, _, rfl, RegsBut.refl _ _⟩

/-- Reading a capture list changes at most SX_PEEKFAIL and the list of stray offsets (R446, R459). -/
theorem captures_state (source : Nat) (es : List Word) (s : State) :
    ∃ r l, (captures source es s).2 = { s with regs := r, log := { s.log with stray := l } } ∧
      RegsBut [R.sxPeekFail] s (captures source es s).2 := by
  induction es generalizing s with
  | nil => exact ⟨s.regs, s.log.stray, rfl, RegsBut.refl _ _⟩
  | cons e es ih =>
    have step : ∀ t : State, (∃ r l, t = { s with regs := r, log := { s.log with stray := l } } ∧ RegsBut [R.sxPeekFail] s t) →
        ∃ r l, (captures source es t).2 = { s with regs := r, log := { s.log with stray := l } } ∧
          RegsBut [R.sxPeekFail] s (captures source es t).2 := by
      rintro t ⟨r, l, rfl, hr⟩
      obtain ⟨q, m, hq, hb⟩ := ih { s with regs := r, log := { s.log with stray := l } }
      exact ⟨q, m, hq, hr.trans hb⟩
    unfold captures
    dsimp only
    generalize wfld e 27 0 + 0x1000 * (source - 0x200) = o
    generalize wfld e 27 0 = q
    split
    · split
      · exact step _ (captureWord_state s o)
      · exact step s ⟨s.regs, s.log.stray, rfl, RegsBut.refl _ _⟩
    · exact step _ (captureWord_state s q)

/-- Taking a token changes the buckets alone (R447). -/
theorem takeToken_state {s t : State} {cls code source : Nat} (h : takeToken s cls code source = some t) :
    ∃ b, t = { s with log := { s.log with buckets := b } } := by
  unfold takeToken at h
  dsimp only at h
  split at h
  · cases h; exact ⟨_, rfl⟩
  · have some_of_ite : ∀ {c : Prop} [Decidable c] {x y : State}, (if c then none else some x) = some y → y = x := by
      intro c _ x y h; by_cases hc : c <;> simp [hc] at h; exact h.symm
    exact ⟨_, some_of_ite h⟩

/-- Forming a record changes the Logbook's buckets, waiting records and stray captures, SX_PEEKFAIL and the count of limited records, and
nothing else (R444-R447). -/
theorem formRecord_state (s : State) (cls code source : Nat) (ws : List Word) :
    ∃ r b w l, formRecord s cls code source ws =
        { s with regs := r, log := { s.log with buckets := b, waiting := w, stray := l } } ∧
      RegsBut [R.sxPeekFail, R.lbRlCnt] s (formRecord s cls code source ws) := by
  obtain ⟨r, l, hr, hb⟩ := captures_state source (captureEntries s cls (11 - ws.length)) s
  generalize hg : captures source (captureEntries s cls (11 - ws.length)) s = g at hr hb
  obtain ⟨caps, u⟩ := g
  dsimp only at hr hb
  subst hr
  unfold formRecord
  rw [hg]
  dsimp only
  split
  · exact ⟨_, s.log.buckets, s.log.waiting, l, rfl, (hb.mono (by simp)).trans ((regsBut_setReg _ R.lbRlCnt _).mono (by simp))⟩
  · next t ht =>
    obtain ⟨b, rfl⟩ := takeToken_state ht
    exact ⟨r, b, _, l, rfl, hb.mono (by simp)⟩

@[simp] theorem formRecord_chans (s : State) (a b c : Nat) (ws : List Word) : (formRecord s a b c ws).chans = s.chans := by
  obtain ⟨_, _, _, _, h, -⟩ := formRecord_state s a b c ws; rw [h]
@[simp] theorem formRecord_mem (s : State) (a b c : Nat) (ws : List Word) : (formRecord s a b c ws).mem = s.mem := by
  obtain ⟨_, _, _, _, h, -⟩ := formRecord_state s a b c ws; rw [h]
@[simp] theorem formRecord_pending (s : State) (a b c : Nat) (ws : List Word) : (formRecord s a b c ws).pending = s.pending := by
  obtain ⟨_, _, _, _, h, -⟩ := formRecord_state s a b c ws; rw [h]

theorem setHbytes_only (s : State) (a : Nat) (l : List Byte) : ∃ h, s.setHbytes a l = { s with host := h } := by
  induction l generalizing s a with
  | nil => exact ⟨s.host, rfl⟩
  | cons b l ih => obtain ⟨h, hh⟩ := ih _ (a + 1); exact ⟨h, hh⟩

/-- Sending a message, or holding it, changes an event's two bits, the messages sent and host memory (R257, R406). -/
theorem deliverHost_state (s : State) (n : Nat) :
    ∃ r h m, deliverHost s n = { s with regs := r, host := h, ifc := { s.ifc with msgs := m } } ∧
      RegsBut [R.evcPend (n / 32), R.msixPba (n / 32)] s (deliverHost s n) := by
  unfold deliverHost
  dsimp only
  split
  · obtain ⟨h, hh⟩ := setHbytes_only s ((s.reg (R.msixTable n 0)).toNat + 2 ^ 32 * (s.reg (R.msixTable n 1)).toNat)
      (wordBytes (s.reg (R.msixTable n 2)))
    rw [hh]
    refine ⟨_, h, _, rfl, ?_⟩
    have h1 := regsBut_setReg { s with host := h } (R.msixPba (n / 32)) (wbit (s.reg (R.msixPba (n / 32))) (n % 32) false)
    exact RegsBut.trans (h1.mono (by simp)) ((regsBut_setReg _ (R.evcPend (n / 32)) _).mono (by simp))
  · exact ⟨_, s.host, s.ifc.msgs, rfl, (regsBut_setReg s (R.msixPba (n / 32)) _).mono (by simp)⟩

/-- An assertion changes the Logbook's waiting records, buckets and stray captures, the event's two bits, SX_PEEKFAIL, the count of limited
records, the messages sent and host memory, and nothing else (R255-R257, R445). -/
theorem assertEvent_state (s : State) (n : Nat) :
    ∃ r h b w l m, assertEvent s n = { s with
        regs := r, host := h, log := { s.log with buckets := b, waiting := w, stray := l }, ifc := { s.ifc with msgs := m } } ∧
      RegsBut [R.evcPend (n / 32), R.msixPba (n / 32), R.sxPeekFail, R.lbRlCnt] s (assertEvent s n) := by
  have h0 : ∀ t : State, t = (if s.rbit (R.lbTrig (n / 32)) (n % 32) then formRecord s 3 n n [] else s) →
      ∃ r b w l, t = { s with regs := r, log := { s.log with buckets := b, waiting := w, stray := l } } ∧
      RegsBut [R.evcPend (n / 32), R.msixPba (n / 32), R.sxPeekFail, R.lbRlCnt] s t := by
    intro t ht
    subst ht
    split
    · obtain ⟨r, b, w, l, h, hb⟩ := formRecord_state s 3 n n []
      exact ⟨r, b, w, l, h, hb.mono (by simp)⟩
    · exact ⟨s.regs, s.log.buckets, s.log.waiting, s.log.stray, rfl, RegsBut.refl _ _⟩
  obtain ⟨r, b, w, l, ht, hb⟩ := h0 _ rfl
  unfold assertEvent
  dsimp only
  generalize (if s.rbit (R.lbTrig (n / 32)) (n % 32) then formRecord s 3 n n [] else s) = t at ht hb
  subst ht
  split
  · have hp := (regsBut_setReg { s with regs := r, log := { s.log with buckets := b, waiting := w, stray := l } }
      (R.evcPend (n / 32)) (wbit (State.reg { s with regs := r } (R.evcPend (n / 32))) (n % 32) true)).mono
      (ps := [R.evcPend (n / 32), R.msixPba (n / 32), R.sxPeekFail, R.lbRlCnt]) (by simp)
    split
    · obtain ⟨q, h, m, hd, hk⟩ := deliverHost_state (({ s with regs := r, log := { s.log with buckets := b, waiting := w, stray := l } } : State).setBit
        (R.evcPend (n / 32)) (n % 32) true) n
      refine ⟨q, h, b, w, l, m, hd, hb.trans (hp.trans (hk.mono (by simp)))⟩
    · exact ⟨_, s.host, b, w, l, s.ifc.msgs, rfl, hb.trans hp⟩
  · exact ⟨r, s.host, b, w, l, s.ifc.msgs, rfl, hb⟩

@[simp] theorem assertEvent_chans (s : State) (n : Nat) : (assertEvent s n).chans = s.chans := by
  obtain ⟨_, _, _, _, _, _, h, -⟩ := assertEvent_state s n; rw [h]
@[simp] theorem assertEvent_mem (s : State) (n : Nat) : (assertEvent s n).mem = s.mem := by
  obtain ⟨_, _, _, _, _, _, h, -⟩ := assertEvent_state s n; rw [h]
@[simp] theorem assertEvent_pending (s : State) (n : Nat) : (assertEvent s n).pending = s.pending := by
  obtain ⟨_, _, _, _, _, _, h, -⟩ := assertEvent_state s n; rw [h]
@[simp] theorem assertEvent_bnm (s : State) (n : Nat) : (assertEvent s n).bnm = s.bnm := by
  obtain ⟨_, _, _, _, _, _, h, -⟩ := assertEvent_state s n; rw [h]
@[simp] theorem assertEvent_rst (s : State) (n : Nat) : (assertEvent s n).rst = s.rst := by
  obtain ⟨_, _, _, _, _, _, h, -⟩ := assertEvent_state s n; rw [h]

/-- Adding the power of a bit that is clear sets it. -/
theorem add_two_pow (n k : Nat) (h : n.testBit k = false) : n + 2 ^ k = n ||| 2 ^ k := by
  apply Nat.eq_of_testBit_eq
  intro i
  rw [Nat.testBit_or, Nat.testBit_two_pow]
  by_cases hi : k = i
  · subst hi
    rw [Nat.add_comm, Nat.testBit_two_pow_add_eq]; simp [h]
  · rcases Nat.lt_or_gt_of_ne hi with hl | hl
    · obtain ⟨m, rfl⟩ : ∃ m, i = k + 1 + m := ⟨i - k - 1, by omega⟩
      have hd : (n + 2 ^ k) / 2 ^ (k + 1) = n / 2 ^ (k + 1) := by
        have hb : n / 2 ^ k % 2 = 0 := by simpa [Nat.testBit_eq_decide_div_mod_eq] using h
        rw [Nat.pow_succ, ← Nat.div_div_eq_div_mul, ← Nat.div_div_eq_div_mul, Nat.add_div_right _ (Nat.two_pow_pos k)]
        omega
      simp only [Nat.testBit_eq_decide_div_mod_eq]
      rw [Nat.pow_add, ← Nat.div_div_eq_div_mul, ← Nat.div_div_eq_div_mul, hd]
      simp [hi]
    · rw [Nat.add_comm, Nat.testBit_two_pow_add_gt hl]; simp [hi]

/-- Setting a bit adds its power where it is clear. -/
theorem or_two_pow (n k : Nat) : (if fld n k k = 1 then n else n + 2 ^ k) = n ||| 2 ^ k := by
  have ht : fld n k k = 1 ↔ n.testBit k = true := by
    simp only [fld, Nat.testBit_eq_decide_div_mod_eq, decide_eq_true_eq]
    rw [show k + 1 - k = 1 by omega, Nat.pow_one]
  split
  · next h =>
    apply Nat.eq_of_testBit_eq
    intro i
    rw [Nat.testBit_or, Nat.testBit_two_pow]
    by_cases hi : k = i
    · subst hi; simp [ht.1 h]
    · simp [hi]
  · next h =>
    refine add_two_pow n k ?_
    cases e : n.testBit k
    · rfl
    · exact absurd (ht.2 e) h

/-- A request while no reset is held stands in the reset controller, and nothing else changes (R473). -/
theorem requestReset_asked (s : State) (lvl : Level) (cause crit : Nat) (h : s.rst.hold = none) :
    requestReset s lvl cause crit = asked s lvl cause crit := by
  unfold requestReset asked joined
  rw [h]
  simp only [Option.isSome_none, Bool.false_eq_true, if_false]
  split
  · next r hr => rw [hr]; simp only [or_two_pow]
  · next hr => rw [hr]

end Sys2Proof.Machine
end

