-- ==== Sys2Proof/Laws/Ops.lean ====
section
/-! SUPPORT. What the operations say that carry out checked writes, that measure steps, and that run microwords. -/
namespace Sys2Proof.Machine

/-- How a write ends is what `putState` foretells, whatever its bytes. -/
theorem writeTarget_fst (s : State) (m : Master) (pa : Nat) (bs : List Byte) :
    (writeTarget s m pa bs).1 = s.putState m pa := by
  unfold writeTarget State.putState
  cases s.target pa with
  | dram => dsimp only; cases s.inited pa <;> rfl
  | chart b => dsimp only; cases s.owns b (ownerCode m) <;> rfl
  | control _ => rfl
  | pcie _ => dsimp only; cases s.rbit R.pxLink 0 <;> rfl
  | kenrid d _ => dsimp only; cases s.kenridRoute d <;> rfl
  | sram _ => rfl
  | rom _ => rfl
  | dflt => rfl

/-- Checked pieces are written only where every one of their targets takes its write (R87, R523). -/
theorem writeParts_ok {s t : State} {c : Chan} {es : List (Nat × Nat)} {ps : List Piece}
    (h : writeParts s c es ps = (.ok, t)) : t = putParts s c ps ∧ ∀ p ∈ ps, s.putState (.chan c) p.pa ≠ .wait := by
  unfold writeParts at h
  split at h
  · simp at h
  · split at h
    · simp at h
    · next hw => simp_all

/-- Pieces that have to wait change nothing. -/
theorem writeParts_wait {s t : State} {c : Chan} {es : List (Nat × Nat)} {ps : List Piece}
    (h : writeParts s c es ps = (.wait, t)) : t = s := by
  unfold writeParts at h
  split at h
  · simp at h
  · split at h
    · simp_all
    · simp at h

/-- tSTEP is never below 550 ps (R524). -/
theorem tStep_min (s : State) (stage : Nat) : 550 ≤ s.tStep stage := by
  unfold State.tStep tStepMax
  repeat' split
  all_goals simp only [Option.map, Option.getD] <;> omega

/-- In a tick a stage ends at most two steps, whatever it has spent before in one (R524). -/
theorem stepsOf_two (t r : Nat) (h : 550 ≤ t) : (stepsOf t r).1 ≤ 2 := by
  unfold stepsOf
  split
  · have : 1000 / t ≤ 1 := Nat.lt_succ_iff.1 (Nat.div_lt_of_lt_mul (by omega))
    show 1 + 1000 / t ≤ 2
    omega
  · exact Nat.lt_succ_iff.1 (Nat.div_lt_of_lt_mul (by omega))

/-- From a set-point of 760 mV on and up to 105 °C, tSTEP is at most 1,300 ps (R26, R378). -/
theorem tStep_max (s : State) (stage : Nat) (h : 760 ≤ s.bnm.sensors.setpoint) (k : s.tooHot = false) :
    s.tStep stage ≤ 1300 := by
  unfold State.tStep tStepMax
  rw [if_neg (by simp [k])]
  repeat' split
  all_goals simp only [Option.map, Option.getD] <;> omega

/-- One microword runs. -/
@[simp] theorem microStep_run (s : State) (cls unit code : Nat) (u : USeq) : (microStep s cls unit code u).run = u.run + 1 := rfl

/-- A microprogram runs no more microwords than it is given (R31). -/
theorem microLoop_run (s : State) (cls unit code : Nat) : ∀ (n : Nat) (u : USeq), (microLoop s cls unit code n u).run ≤ u.run + n
  | 0, _ => Nat.le_refl _
  | n + 1, u => by
    have h := microLoop_run s cls unit code n (microStep s cls unit code u)
    rw [microStep_run] at h
    show (if _ then microStep s cls unit code u else microLoop s cls unit code n (microStep s cls unit code u)).run ≤ _
    rw [apply_ite USeq.run, microStep_run]
    split <;> omega

/-- A machine instruction runs at most 12 microwords (R31). -/
theorem microRun_run (s : State) (cls slice unit code : Nat) (u : USeq) : (microRun s cls slice unit code u).run ≤ 12 := by
  have h := microLoop_run s cls unit code 12 { u with addr := Config.microEntry cls slice code, patch := none, run := 0 }
  simpa [microRun] using h

end Sys2Proof.Machine
end

