-- ==== Sys2Proof/Laws/Scalar.lean ====
section
/-! SUPPORT. What the operations shared by the scalar instructions do: the loop-end step, writing a G register, and an
instruction that executes. -/
namespace Sys2Proof.Machine

/-- The loop-end step changes the pc and the loop registers LPST and LPC alone (R69). -/
theorem loopStep_frame (n : Nat) (ch : Channel) :
    loopStep n ch = { ch with pc := (loopStep n ch).pc, lpst := (loopStep n ch).lpst, lpc := (loopStep n ch).lpc } := by
  induction n generalizing ch with
  | zero => rfl
  | succ i ih =>
    unfold loopStep
    split
    · split
      · rfl
      · dsimp only
        split
        · rw [ih]
        · rfl
    · rfl

/-- Going to an address changes the pc and the loop registers alone (R69). -/
theorem goTo_frame (ch : Channel) (a : Word) :
    ch.goTo a = { ch with pc := (ch.goTo a).pc, lpst := (ch.goTo a).lpst, lpc := (ch.goTo a).lpc } := by
  unfold Channel.goTo
  dsimp only
  split
  · rw [loopStep_frame]
  · rfl

@[simp] theorem goTo_g (ch : Channel) (a : Word) : (ch.goTo a).g = ch.g := by rw [goTo_frame]
@[simp] theorem goTo_csw (ch : Channel) (a : Word) : (ch.goTo a).csw = ch.csw := by rw [goTo_frame]
@[simp] theorem goTo_loads (ch : Channel) (a : Word) : (ch.goTo a).loads = ch.loads := by rw [goTo_frame]
@[simp] theorem goTo_rg (ch : Channel) (a : Word) (r : Reg) : (ch.goTo a).rg r = ch.rg r := by
  simp [Channel.rg]

/-- Outside loops, going to an address is going there. -/
theorem goTo_outside (ch : Channel) (a : Word) (h : ch.lpst = 0) : ch.goTo a = { ch with pc := a } := by
  simp [Channel.goTo, h]

@[simp] theorem setG_rg_self (ch : Channel) (d : Reg) (v : Word) : (ch.setG d v).rg d = v := by
  simp [Channel.rg, Channel.setG]

theorem setG_rg_other (ch : Channel) (d r : Reg) (v : Word) (h : r ≠ d) : (ch.setG d v).rg r = ch.rg r := by
  have : d.val ≠ r.val := fun e => h (Fin.ext e.symm)
  simp [Channel.rg, Channel.setG, this]


@[simp] theorem setChan_chan_self (s : State) (c : Chan) (ch : Channel) : (s.setChan c ch).chan c = ch := by
  simp [State.setChan, State.chan]

@[simp] theorem modChan_chan_self (s : State) (c : Chan) (f : Channel → Channel) : (s.modChan c f).chan c = f (s.chan c) := by
  simp [State.modChan]

/-- Changing one channel changes nothing else. -/
theorem onlyChan_modChan (s : State) (c : Chan) (f : Channel → Channel) : OnlyChan c s (s.modChan c f) := by
  simp [OnlyChan, State.modChan, State.setChan, State.chan]

@[simp] theorem modChan_byte (s : State) (c : Chan) (f : Channel → Channel) (a : Nat) :
    (s.modChan c f).byte a = s.byte a := rfl

/-- What an instruction does that executes: its body, in the decoded state. -/
theorem scalarOr_ready {s s1 : State} {c : Chan} {i : Scalar} (h : Ready s s1 c i) (body : State → Word → Option State) :
    scalarOr s c i body = (body (decoded s1 c i.ledger) (nextPc s c i)).getD s1 := by
  obtain ⟨h1, h2, h3, h4, h5, h6, h7, h9, h8⟩ := h
  have h7' : (!(s.chan c).sup && (i.priv || i.p.key)) = false := by
    rcases h9 with h | ⟨h, h'⟩ <;> simp [*]
  have h6' : (!i.prefixOk || !i.legal || (i.ledger && c == bnmCore)) = false := by
    cases hl : i.ledger
    · simp [*]
    · simp [*, h7 hl]
  have h3' : fetch s c (prefixBytes i.p + i.len) = (.ok, s1) := h3
  simp only [scalarOr, h1, takeImpr, h2, h3', h4, h6', h7', h8]
  simp only [Bool.not_true, Option.isSome_none, Bool.false_eq_true, if_false, Option.map_none, List.isEmpty_nil, if_true]
  unfold decoded nextPc Scalar.bytes
  split <;> simp_all

/-- An instruction that never waits. -/
theorem scalar_ready {s s1 : State} {c : Chan} {i : Scalar} (h : Ready s s1 c i) (body : State → Word → State) :
    scalar s c i body = body (decoded s1 c i.ledger) (nextPc s c i) := by
  simp [scalar, scalarOr_ready h]

/-- The loop-end step looks at no G register and no CSW. -/
theorem loopStep_keeps (n : Nat) (ch : Channel) (g : Vector Word 16) (w : Word) (l : List Load) :
    loopStep n { ch with g := g, csw := w, loads := l } = { loopStep n ch with g := g, csw := w, loads := l } := by
  induction n generalizing ch with
  | zero => rfl
  | succ i ih =>
    simp only [loopStep]
    split
    · split
      · rfl
      · split
        · exact ih { ch with lpc := ch.lpc.set i 0, lpst := i }
        · rfl
    · rfl

/-- Going on looks at no G register and no CSW. -/
theorem goTo_keeps (ch : Channel) (a : Word) (g : Vector Word 16) (w : Word) (l : List Load) :
    ({ ch with g := g, csw := w, loads := l } : Channel).goTo a = { ch.goTo a with g := g, csw := w, loads := l } := by
  simp only [Channel.goTo]
  split
  · exact loopStep_keeps _ { ch with pc := a } g w l
  · rfl

/-- Writing Gd and the CSW at the end of an instruction. -/
theorem finish_regEffect (s : State) (c : Chan) (next : Word) (d : Reg) (v : Word) (f : Word → Word) :
    RegEffect c s (finish s c next fun ch => { ch.setG d v with csw := f ch.csw }) next d v (f (s.chan c).csw) where
  value := by simp [finish, Channel.rg, Channel.setG]
  others r h := by
    have : d.val ≠ r.val := fun e => h (Fin.ext e.symm)
    simp [finish, Channel.rg, Channel.setG, this]
  status := by simp [finish]
  rest := by
    simp only [finish, modChan_chan_self, RegOnly]
    rw [goTo_frame]; rfl
  goes := by
    simp only [finish, modChan_chan_self, GoesTo]
    have h : ∀ ch : Channel, ({ ch.setG d v with csw := f ch.csw } : Channel).goTo next =
        { ch.goTo next with g := (ch.setG d v).g, csw := f ch.csw, loads := (ch.setG d v).loads } :=
      fun ch => goTo_keeps ch next (ch.setG d v).g (f ch.csw) (ch.setG d v).loads
    rw [h]
    exact ⟨rfl, rfl, rfl⟩
  only := onlyChan_modChan _ _ _
  memory _ := rfl

/-- Changing the CSW alone at the end of an instruction. -/
theorem finish_flagEffect (s : State) (c : Chan) (next : Word) (f : Word → Word) :
    FlagEffect c s (finish s c next fun ch => { ch with csw := f ch.csw }) next (f (s.chan c).csw) where
  regs := by simp [finish]
  status := by simp [finish]
  rest := by
    simp only [finish, modChan_chan_self, RegOnly]
    rw [goTo_frame]
  goes := by
    simp only [finish, modChan_chan_self, GoesTo]
    have h : ∀ ch : Channel, ({ ch with csw := f ch.csw } : Channel).goTo next =
        { ch.goTo next with g := ch.g, csw := f ch.csw, loads := ch.loads } :=
      fun ch => goTo_keeps ch next ch.g (f ch.csw) ch.loads
    rw [h]
    exact ⟨rfl, rfl, rfl⟩
  only := onlyChan_modChan _ _ _
  memory _ := rfl

end Sys2Proof.Machine
end

