-- ==== Sys2Proof/Machine/Widen.lean ====
section
/-! DEFINITION. Widening a reduction over a cascade (13 R437, R438, 01 R19): the ranges that the lodestar gives out, and the
fold of the carry records that come back. No command asks for it: the lodestar's software does. -/
namespace Sys2Proof.Machine

/-- What a carry record shows: BLOCKS, and CARRYi, present where bit i of BLOCKS is 1 (R111). -/
structure CarryRec where
  blocks : Nat
  carry  : List Entry
  deriving DecidableEq, Repr

/-- The record that a reduction leaves. -/
def Slot.carryRec (sl : Slot) : CarryRec := ⟨sl.blocks, sl.carry⟩

/-- The ranges of 2^k blocks of a reduction of `b` blocks: the first block of each, and how many it has; the last may be
shorter (R437). Blocks are numbered globally (R19). -/
def wideRanges (b k : Nat) : List (Nat × Nat) :=
  (List.range ((b + 2 ^ k - 1) / 2 ^ k)).map fun r => (r * 2 ^ k, min (2 ^ k) (b - r * 2 ^ k))

/-- Fold an entry of level `j` into the carry stack: the inner loop of R437. -/
def foldLevel (env : FpEnv) (m : Member) : (j gblocks : Nat) → List Entry → Entry → Option (BitVec 5 × List Entry)
  | 0, g, cs, v => foldCarry env m g cs v
  | j + 1, g, c :: cs, v => (foldLevel env m j (g / 2) cs v).map fun (f, r) => (f, c :: r)
  | _ + 1, _, [], _ => some (0, [])

/-- The flags so far, `gblocks` and the carry stack of R437; `none` once a decimal sum does not fit (R209). -/
abbrev WideFold := Option (BitVec 5 × Nat × List Entry)

/-- Fold one level of a record. -/
def foldEntry (env : FpEnv) (m : Member) (r : CarryRec) (acc : WideFold) (j : Nat) : WideFold :=
  match acc with
  | none => none
  | some (f, g, cs) =>
    if r.blocks / 2 ^ j % 2 = 1 then
      (foldLevel env m j g cs ((r.carry[j]?).getD none)).map fun (h, ds) => (f ||| h, g + 2 ^ j, ds)
    else acc

/-- Fold the records in range order, each from its highest level down (R437). -/
def foldRecords (env : FpEnv) (m : Member) (rs : List CarryRec) : WideFold :=
  rs.foldl (fun acc r => (List.range 25).reverse.foldl (foldEntry env m r) acc) (some (0, 0, noCarry))

/-- The result of a widened reduction: the final loop of R109 over what the fold leaves. -/
def wideResult (env : FpEnv) (m : Member) (rs : List CarryRec) : Option (BitVec 64) :=
  match foldRecords env m rs with
  | some (_, _, cs) => (carryResult env m cs).map fun (_, v) => v.getD (emptyResult m)
  | none => none

/-- Whether a member can stand in a widened stream: no scan, no unit instruction, and no operand addressed by indices or by a
revolution table (R438). -/
def Member.widens (m : Member) : Bool :=
  !m.op.scans && !m.op.isUnit && [m.a, m.b, m.c, m.d].all fun o =>
    match o with
    | .mem d => dMode d != 2 && dMode d != 3
    | _ => true

/-- Whether a stream or chain group can be widened: elementwise instructions, or a reduction at its end, and no ORD (R438). -/
def Slot.widens (sl : Slot) : Bool := !sl.ord && sl.members.all Member.widens

end Sys2Proof.Machine
end

