-- ==== Sys2Proof/WellFormed.lean ====
section
/-! DEFINITION. The commands that can be sent: an operand that an outside unit supplies has the size the rules give
it. Every instruction encoding is well formed here: what the channel refuses of it is an exception of the device. -/
namespace Sys2Proof

/-- A write of part of a line lies in one line and leaves some of it (R323). -/
def partialOk (pa : BitVec 48) (data : List Byte) : Bool :=
  decide (0 < data.length) && decide (data.length < 64) && decide (pa.toNat % 64 + data.length ≤ 64)

/-- A memory request is of bytes of one line, and brings as many as it writes (R430). -/
def lineOk (pa : BitVec 48) (n : Nat) (wdata : Option (List Byte)) : Bool :=
  decide (0 < n) && decide (pa.toNat % 64 + n ≤ 64) && (wdata.all fun l => l.length == n)

/-- The sealed bank has 16,384 rows, a chart bank 65,536 (R332). -/
def rowOk (bank : Fin 33) (row : BitVec 16) : Bool := bank.val < 32 || row.toNat < 16384

/-- A captured frame: its length covers the payload it names, and it has at least 64 bytes where it is not a fragment
that the port counts as an error (R409). -/
def EthFrame.ok (f : EthFrame) : Bool := decide (f.payload.length ≤ f.bytes)

/-- What each command needs to be one the outside can send. -/
def Instr.wellFormed : Instr → Bool
  | .dramLineRead _ pa _ => pa.toNat % 64 == 0
  | .dramReadRetry pa _ _ => pa.toNat % 64 == 0
  | .dramLineWrite _ l _ => l.pa.toNat % 64 == 0 && l.reached.toNat % 64 == 0
  | .dramPartialWrite _ pa data _ => partialOk pa data
  | .dramAtomic _ _ pa _ _ _ => pa.toNat % 4 == 0
  | .chartAccess _ bank row _ _ _ _ => rowOk bank row
  | .chartScrubRow bank row _ _ => rowOk bank row
  | .sensorSample temps rails _ => temps.length == 24 && rails.length == 12
  | .stepRateSample readings => readings.length == 32
  | .frameReceive _ f => f.ok
  | .kenridStatusPacket _ bytes => bytes.length == 16
  | .kenridMemoryRequest _ pa n wdata _ => lineOk pa n wdata
  | _ => true

end Sys2Proof
end

