-- ==== Sys2Proof/Tests/Slice0.lean ====
section
/-! SUPPORT. Tests on small states: an ill-formed operand of each kind, and for each statement of
Certificates/Slice0/Obligations.lean a state and operands that meet its hypotheses together. -/
namespace Sys2Proof.Tests.Slice0
open Sys2Proof Sys2Proof.Machine

set_option Elab.async false

/-! ### Well-formed commands -/

theorem test_wf_read : Instr.wellFormed (.dramLineRead .bnm 64 .clean) = true ∧
    Instr.wellFormed (.dramLineRead .bnm 65 .clean) = false := by decide
theorem test_wf_retry : Instr.wellFormed (.dramReadRetry 1 0 .clean) = false := by decide
theorem test_wf_write : Instr.wellFormed (.dramLineWrite .bnm ⟨4, 4⟩ 0) = false := by decide
theorem test_wf_partial : Instr.wellFormed (.dramPartialWrite .bnm 60 [1, 2, 3, 4] .clean) = true ∧
    Instr.wellFormed (.dramPartialWrite .bnm 61 [1, 2, 3, 4] .clean) = false ∧
    Instr.wellFormed (.dramPartialWrite .bnm 0 [] .clean) = false := by decide
theorem test_wf_atomic : Instr.wellFormed (.dramAtomic .bnm .swp 2 0 0 .clean) = false := by decide
theorem test_wf_row : Instr.wellFormed (.chartAccess .bnm 32 16384 none 0 0 .clean) = false ∧
    Instr.wellFormed (.chartScrubRow 32 16384 0 .clean) = false ∧
    Instr.wellFormed (.chartScrubRow 31 65535 0 .clean) = true := by decide
theorem test_wf_sensors : Instr.wellFormed (.sensorSample [] [] 0) = false ∧
    Instr.wellFormed (.stepRateSample []) = false := by decide
theorem test_wf_frame : Instr.wellFormed (.frameReceive 0 ⟨3, true, false, false, 0, 0, none, [1, 2, 3, 4]⟩) = false := by decide
theorem test_wf_kenrid : Instr.wellFormed (.kenridStatusPacket 0 []) = false ∧
    Instr.wellFormed (.kenridMemoryRequest 0 63 2 none false) = false ∧
    Instr.wellFormed (.kenridMemoryRequest 0 0 2 (some [1]) false) = false := by decide

/-! ### Reset and the queue -/

theorem test_reset_canon : State.reset.canon = true := by decide
theorem test_queue : step { State.reset with pending := [.idcode] } = exec .idcode State.reset := rfl
theorem test_no_word : decodeTableWord 32 0 = none := rfl

/-- The device at READY with these control-space words; no reset is held. -/
def dev (l : List (Nat × Word)) : State := { State.reset with regs := l, rst := { Rst.reset with hold := none, stage := 8 } }

/-- Channel 0 runs at pc 0 in supervisor mode, its first block is fetched, and `f` changes it further. -/
def at0 (l : List (Nat × Word)) (f : Channel → Channel) : State :=
  (dev l).setChan 0 (f { Channel.reset with st := .running, fbuf := [0], pmask := 1, sc := 8 })

theorem witness_canon : (dev []).canon = true ∧ ∃ t, step (dev []) = .next t := ⟨by decide, _, rfl⟩
theorem witness_queue : ∃ t, exec .idcode (dev []) = .next t := ⟨_, rfl⟩
theorem witness_idle : (dev []).pending = [] ∧ (dev []).rst.hold = none ∧ (dev []).ifc.slew = 0 ∧
    State.reset.rst.hold.isSome = true := by decide
/-! ### Scalar instructions -/

theorem witness_IntegerResults : Ready (at0 [] id) (at0 [] id) 0 { rrr .none 1 (.reg 2) with satOk := true } ∧
    Ready (at0 [] id) (at0 [] id) 0 (rrr .none 1 (.imm16 40)) :=
  ⟨⟨by decide, rfl, rfl, rfl, by decide, by decide, by decide, .inl (by decide), by decide⟩,
   ⟨by decide, rfl, rfl, rfl, by decide, by decide, by decide, .inl (by decide), by decide⟩⟩
theorem witness_MultiplicationResults : Ready (at0 [] id) (at0 [] id) 0 { rrr .none 1 (.reg 2) with satOk := true } ∧
    Ready (at0 [] id) (at0 [] id) 0 (rrr .none 1 (.imm16 40)) := witness_IntegerResults

/-- CSW with TDZ, in supervisor mode. -/
def trapping (ch : Channel) : Channel := { ch with csw := 0x1080 }

theorem witness_DivisionResults : Ready (at0 [] id) (at0 [] id) 0 (rrr .none 1 (.reg 2)) ∧
    ((decoded (at0 [] id) 0 false).chan 0).tdz = false :=
  ⟨⟨by decide, rfl, rfl, rfl, by decide, by decide, by decide, .inl (by decide), by decide⟩, by decide⟩

theorem witness_DivisionResults_trap : Ready (at0 [] trapping) (at0 [] trapping) 0 (rrr .none 1 (.reg 2)) ∧
    srcVal ((decoded (at0 [] trapping) 0 false).chan 0) (.reg 2) = 0 ∧
    ((decoded (at0 [] trapping) 0 false).chan 0).tdz = true :=
  ⟨⟨by decide, rfl, rfl, rfl, by decide, by decide, by decide, .inl (by decide), by decide⟩, by decide, by decide⟩

theorem witness_MovesAndComparisons :
    Ready (at0 [] id) (at0 [] id) 0 { p := .none, len := dispLen (.d16 5) } ∧
    Ready (at0 [] id) (at0 [] id) 0 { p := .none, len := 2, reads := [1] } ∧
    Ready (at0 [] id) (at0 [] id) 0 { p := .none, len := 2, reads := [1, 2] } ∧
    Ready (at0 [] id) (at0 [] id) 0 { p := .none, len := 6, reads := [1] } ∧
    Ready (at0 [] id) (at0 [] id) 0 { p := .none, len := 1 } :=
  ⟨⟨by decide, rfl, rfl, rfl, by decide, by decide, by decide, .inl (by decide), by decide⟩,
   ⟨by decide, rfl, rfl, rfl, by decide, by decide, by decide, .inl (by decide), by decide⟩,
   ⟨by decide, rfl, rfl, rfl, by decide, by decide, by decide, .inl (by decide), by decide⟩,
   ⟨by decide, rfl, rfl, rfl, by decide, by decide, by decide, .inl (by decide), by decide⟩,
   ⟨by decide, rfl, rfl, rfl, by decide, by decide, by decide, .inl (by decide), by decide⟩⟩

theorem witness_ControlRegisterInstructions :
    Ready (at0 [] id) (at0 [] id) 0 { p := .none, len := 4, reads := [1] } ∧
    Ready (at0 [] id) (at0 [] id) 0 { p := .none, len := 4, legal := crDefined 0x17 } ∧
    Ready (at0 [] id) (at0 [] id) 0 { p := .none, len := 4, legal := crWritable 0x14, priv := crPrivileged 0x14, alone := true, reads := [1] } ∧
    (∀ k : Fin 4, ((at0 [] id).chan 0).lpe[k] ≠ nextPc (at0 [] id) 0 { p := .none, len := 4 }) :=
  ⟨⟨by decide, rfl, rfl, rfl, by decide, by decide, by decide, .inl (by decide), by decide⟩,
   ⟨by decide, rfl, rfl, rfl, by decide, by decide, by decide, .inl (by decide), by decide⟩,
   ⟨by decide, rfl, rfl, rfl, by decide, by decide, by decide, .inl (by decide), by decide⟩, by decide⟩

/-- All four loop levels are open. -/
def looping (ch : Channel) : Channel := { ch with lpst := 4 }

theorem witness_HardwareLoops :
    Ready (at0 [] id) (at0 [] id) 0 { p := .none, len := 4, legal := (8 : BitVec 16) != 0, reads := [1] } ∧
    Ready (at0 [] id) (at0 [] id) 0 { p := .none, len := 5, legal := (8 : BitVec 16) != 0 } ∧
    ((decoded (at0 [] id) 0 false).chan 0).lpst < 4 ∧
    Ready (at0 [] looping) (at0 [] looping) 0 { p := .none, len := 5, legal := (8 : BitVec 16) != 0 } ∧
    ((decoded (at0 [] looping) 0 false).chan 0).lpst = 4 ∧ Ready (at0 [] id) (at0 [] id) 0 { p := .none, len := 1 } :=
  ⟨⟨by decide, rfl, rfl, rfl, by decide, by decide, by decide, .inl (by decide), by decide⟩,
   ⟨by decide, rfl, rfl, rfl, by decide, by decide, by decide, .inl (by decide), by decide⟩, by decide,
   ⟨by decide, rfl, rfl, rfl, by decide, by decide, by decide, .inl (by decide), by decide⟩, by decide,
   ⟨by decide, rfl, rfl, rfl, by decide, by decide, by decide, .inl (by decide), by decide⟩⟩

/-- LOOP and LOOPI of length 0 are fetched; two levels that end at the same address close together. -/
theorem witness_HardwareLoops_other : fetch (at0 [] id) 0 4 = (.ok, at0 [] id) ∧ fetch (at0 [] id) 0 5 = (.ok, at0 [] id) ∧
    (({ Channel.reset with lpst := 2, lpc := #v[2, 1, 0, 0], lpe := #v[8, 8, 0, 0], lps := #v[4, 0, 0, 0] } : Channel).goTo 8).pc = 4 :=
  ⟨rfl, rfl, by decide⟩

/-- The loop-end step at each of its branches: it goes round, it closes, it is passed by. -/
theorem test_loop_end :
    (({ Channel.reset with lpst := 1, lpc := #v[2, 0, 0, 0], lpe := #v[8, 0, 0, 0], lps := #v[4, 0, 0, 0] } : Channel).goTo 8).pc = 4 ∧
    (({ Channel.reset with lpst := 1, lpc := #v[1, 0, 0, 0], lpe := #v[8, 0, 0, 0], lps := #v[4, 0, 0, 0] } : Channel).goTo 8).lpst = 0 ∧
    (({ Channel.reset with lpst := 1, lpc := #v[1, 0, 0, 0], lpe := #v[8, 0, 0, 0], lps := #v[4, 0, 0, 0] } : Channel).goTo 9).pc = 9 := by
  decide

/-- Event 2 is enabled for channel 0 and pending. -/
def pendingEvent : List (Nat × Word) := [(R.evcfg 2, 0x100), (R.evcPend 0, 4)]

set_option maxRecDepth 100000 in
theorem witness_BranchesCallsAndWaits :
    Ready (at0 [] id) (at0 [] id) 0 { p := .none, len := relLen (.r8 3) } ∧
    Ready (at0 [] id) (at0 [] id) 0 { p := .none, len := 3 } ∧
    Ready (at0 [] id) (at0 [] id) 0 { p := .none, len := 2, reads := [3] } ∧
    Ready (at0 [] id) (at0 [] id) 0 { p := .none, len := 1, reads := [14] } ∧
    Ready (at0 [] id) (at0 [] id) 0 { p := .none, len := 1, alone := true } ∧
    ((decoded (at0 [] id) 0 false).chan 0).stq = [] ∧ eventPending (decoded (at0 [] id) 0 false) 0 = false ∧
    ((decoded (at0 [] id) 0 false).chan 0).slots = [] ∧ ((decoded (at0 [] id) 0 false).chan 0).drains = [] :=
  ⟨⟨by decide, rfl, rfl, rfl, by decide, by decide, by decide, .inl (by decide), by decide⟩,
   ⟨by decide, rfl, rfl, rfl, by decide, by decide, by decide, .inl (by decide), by decide⟩,
   ⟨by decide, rfl, rfl, rfl, by decide, by decide, by decide, .inl (by decide), by decide⟩,
   ⟨by decide, rfl, rfl, rfl, by decide, by decide, by decide, .inl (by decide), by decide⟩,
   ⟨by decide, rfl, rfl, rfl, by decide, by decide, by decide, .inl (by decide), by decide⟩, by decide, by decide, by decide, by decide⟩

/-- A store waits in the queue. -/
def storing (ch : Channel) : Channel := { ch with stq := [⟨0, [⟨0x40, [1]⟩], 0, 0, true, 0, []⟩] }

set_option maxRecDepth 100000 in
theorem witness_BranchesCallsAndWaits_wait :
    Ready (at0 [] storing) (at0 [] storing) 0 { p := .none, len := 1, alone := true } ∧
    ((decoded (at0 [] storing) 0 false).chan 0).stq ≠ [] ∧
    Ready (at0 pendingEvent id) (at0 pendingEvent id) 0 { p := .none, len := 1, alone := true } ∧
    eventPending (decoded (at0 pendingEvent id) 0 false) 0 = true ∧
    eventPending (at0 pendingEvent fun ch => { ch with st := .waiting }) 0 = true ∧
    ((at0 [] fun ch => { ch with wait := .syncS }).chan 0).wait = .syncS ∧
    ((at0 [] fun ch => { ch with wait := .fence }).chan 0).wait = .fence :=
  ⟨⟨by decide, rfl, rfl, rfl, by decide, by decide, by decide, .inl (by decide), by decide⟩, by decide,
   ⟨by decide, rfl, rfl, rfl, by decide, by decide, by decide, .inl (by decide), by decide⟩, by decide, by decide, rfl, rfl⟩

/-! ### Memory and exceptions -/

/-- 1 GiB of initialised DRAM. -/
def ram : List (Nat × Word) := [(R.smsMinit, 0x80000000), (R.mcCfg 0, 0x10000)]

/-- Region 0 maps DRAM from 0; G15 is 200h and G1 is 40h. -/
def mapped (f : Channel → Channel) (ch : Channel) : Channel :=
  f { ch with rattr := ch.rattr.set 0 0x1F0FFF, g := (ch.g.set 15 0x200).set 1 0x40 }

/-- A channel that maps DRAM. -/
def mem0 (f : Channel → Channel) : State := at0 ram (mapped f)

/-- The vector entry of the tests: the handler lies at 0. -/
def entry0 : List Byte := List.replicate 16 0

/-- A frame of zeros. -/
def entry0b : List Byte := List.replicate 32 0

/-- Each part of the entry answers: the rest follows from that. -/
theorem entry_ok {s : State} {c : Chan} {v : Nat} {l : List Byte} {base : Word} {ps : List (Nat × Nat)}
    (h1 : (vectorEntry s c v).1 = .ok l)
    (h2 : base = (if fld (leAt l 4 4) 12 12 = 1 ∧ ¬ ((vectorEntry s c v).2.chan c).sup then BitVec.ofNat 32 (leAt l 8 4)
      else ((vectorEntry s c v).2.chan c).rg 15))
    (h3 : (checkFrame (vectorEntry s c v).2 c base (BitVec.ofNat 4 (fld (leAt l 4 4) 19 16))).1 = .ok ps)
    (h4 : (writeSure (checkFrame (vectorEntry s c v).2 c base (BitVec.ofNat 4 (fld (leAt l 4 4) 19 16))).2 c
      (split (base.toNat - 32) 32) (cutPieces ps ((frameWords ((vectorEntry s c v).2.chan c)).flatMap wordBytes))).1 = .ok) :
    ∃ t, EntryOk s c v l base t :=
  ⟨_, ⟨_, _, ps, Prod.ext h1 rfl, h2, Prod.ext h3 rfl, Prod.ext h4 rfl⟩⟩

set_option maxRecDepth 100000 in
theorem witness_TrapsTakeTheirVectors :
    Ready (mem0 id) (mem0 id) 0 { p := .none, len := 1, alone := true } ∧ TakesNow (decoded (mem0 id) 0 false) 0 ∧
    (∃ t, EntryOk (boundary (decoded (mem0 id) 0 false) 0 { vec := 11, addr := 0 } 0) 0 11 entry0 0x200 t) ∧
    Ready (mem0 id) (mem0 id) 0 { p := .none, len := 2, alone := true } ∧
    (∃ t, EntryOk (boundary (decoded (mem0 id) 0 false) 0 { vec := 12, addr := 0, svc := 5 } 2) 0 12 entry0 0x200 t) ∧
    fetch (mem0 id) 0 1 = (.ok, mem0 id) ∧
    (∃ t, EntryOk (boundary (mem0 id) 0 { vec := 1, addr := 0 } 0) 0 1 entry0 0x200 t) :=
  ⟨⟨by decide, rfl, rfl, rfl, by decide, by decide, by decide, .inl (by decide), by decide⟩, ⟨rfl, rfl, rfl, rfl, by decide, rfl⟩,
   (entry_ok (ps := [(480, 32)]) (by decide +kernel) (by decide +kernel) (by decide +kernel) (by decide +kernel)),
   ⟨by decide, rfl, rfl, rfl, by decide, by decide, by decide, .inl (by decide), by decide⟩, (entry_ok (ps := [(480, 32)]) (by decide +kernel) (by decide +kernel) (by decide +kernel) (by decide +kernel)),
   rfl, (entry_ok (ps := [(480, 32)]) (by decide +kernel) (by decide +kernel) (by decide +kernel) (by decide +kernel))⟩

theorem pair_ok {α : Type} {p : α × State} {a : α} {q : State → Prop} (h : p.1 = a) (k : q p.2) : ∃ t, p = (a, t) ∧ q t :=
  ⟨p.2, Prod.ext h rfl, k⟩

theorem pair_eq {α : Type} {p : α × State} {a : α} (h : p.1 = a) : ∃ t, p = (a, t) := ⟨p.2, Prod.ext h rfl⟩

set_option maxRecDepth 100000 in
theorem witness_ReturnFromHandler :
    Ready (mem0 id) (mem0 id) 0 { p := .none, len := 1, priv := true, alone := true, reads := [15] } ∧
    ((decoded (mem0 id) 0 false).chan 0).drains = [] ∧ (((decoded (mem0 id) 0 false).chan 0).rg 15).toNat % 8 = 0 ∧
    (∃ s3, checkAccess (decoded (mem0 id) 0 false) 0 (supervisorHow 0 .rd false) 0x200 32 = (.ok [(0x200, 32)], s3) ∧
      ∃ s2, readOwn s3 0 0x200 32 [(0x200, 32)] = (.ok entry0b, s2) ∧ (s2.chan 0).req = none) ∧
    (((at0 [] fun ch => { ch with g := ch.g.set 15 4 }).chan 0).rg 15).toNat % 8 ≠ 0 ∧
    (∃ s2, checkAccess (at0 [] id) 0 (supervisorHow 0 .rd false) 0 32 = (.fail 4 0, s2)) ∧
    (∃ s3, checkAccess { mem0 id with poison := [8] } 0 (supervisorHow 0 .rd false) 0x200 32 = (.ok [(0x200, 32)], s3) ∧
      ∃ s2, readOwn s3 0 0x200 32 [(0x200, 32)] = (.fail 7 0x200, s2)) :=
  ⟨⟨by decide, rfl, rfl, rfl, by decide, by decide, by decide, .inl (by decide), by decide⟩, rfl, by decide,
   pair_ok (by decide +kernel) (pair_ok (by decide +kernel) (by decide +kernel)), by decide, pair_eq (by decide +kernel),
   pair_ok (by decide +kernel) (pair_eq (by decide +kernel))⟩

theorem one_line {s : State} {c : Chan} {h : How} {e : Word} {n pa : Nat} {q : State → Prop}
    (h1 : (checkAccess s c h e.toNat n).1 = .ok [(pa, n)]) (h2 : (checkAccess s c h e.toNat n).2.inMemory pa = true)
    (h3 : (checkAccess s c h e.toNat n).2.target pa = .dram) (h4 : (checkAccess s c h e.toNat n).2.anyPoison pa n = false) (h6 : (checkAccess s c h e.toNat n).2.seals = [])
    (h5 : q (checkAccess s c h e.toNat n).2) : ∃ s2, OneLine s s2 c h e n pa ∧ q s2 :=
  ⟨_, ⟨Prod.ext h1 rfl, ⟨h2, fun o g => by rw [h3] at g; cases g⟩, h4, h6⟩, h5⟩

set_option maxRecDepth 100000 in
theorem witness_LoadsReachTheirRegisters :
    ((decoded (mem0 id) 0 false).chan 0).stq = [] ∧
    Ready (mem0 id) (mem0 id) 0 { memScalar .none 4 [1] with load := true } ∧
    (∃ s2, OneLine (decoded (mem0 id) 0 false) s2 0 ⟨0, false, .rd, false⟩ 0x40 16 0x40 ∧
      s2.room (s2.bridges 0 [(0x40, 16)]) = true) ∧
    Ready (mem0 id) (mem0 id) 0 { memScalar .none 2 [15] with load := true, legal := true } ∧
    (∃ s2, OneLine (decoded (mem0 id) 0 false) s2 0 ⟨0, false, .rd, false⟩ 0x200 8 0x200 ∧
      s2.room (s2.bridges 0 [(0x200, 8)]) = true) :=
  ⟨rfl, ⟨by decide, rfl, rfl, rfl, by decide, by decide, by decide, .inl (by decide), by decide⟩,
   one_line (by decide +kernel) (by decide +kernel) (by decide +kernel) (by decide +kernel) (by decide +kernel) (by decide +kernel), ⟨by decide, rfl, rfl, rfl, by decide, by decide, by decide, .inl (by decide), by decide⟩,
   one_line (by decide +kernel) (by decide +kernel) (by decide +kernel) (by decide +kernel) (by decide +kernel) (by decide +kernel)⟩

/-- G1 and G15 are odd. -/
def odd (ch : Channel) : Channel := { ch with g := (ch.g.set 15 0x201).set 1 0x41 }

theorem witness_LoadsReachTheirRegisters_misaligned :
    Ready (mem0 odd) (mem0 odd) 0 { memScalar .none 4 [1] with load := true } ∧
    Ready (mem0 odd) (mem0 odd) 0 { memScalar .none 4 [1] with readsD := [2] } ∧
    Ready (mem0 odd) (mem0 odd) 0 { memScalar .none 2 [15, 2, 3] with legal := true } ∧
    Ready (mem0 odd) (mem0 odd) 0 { memScalar .none 5 [1, 2] with alone := true } ∧
    Ready (mem0 odd) (mem0 odd) 0 { memScalar .none 5 [1, 2, 3] with load := true, alone := true, atomOk := true } ∧
    (((decoded (mem0 odd) 0 false).chan 0).rg 1).toNat % 4 ≠ 0 ∧ (((decoded (mem0 odd) 0 false).chan 0).rg 15).toNat % 8 ≠ 0 ∧
    ((at0 [] fun ch => { ch with loads := [⟨3, [.g 1 7], [], false⟩] }).chan 0).loads.filter (·.id == 3) = [⟨3, [.g 1 7], [], false⟩] :=
  ⟨⟨by decide, rfl, rfl, rfl, by decide, by decide, by decide, .inl (by decide), by decide⟩,
   ⟨by decide, rfl, rfl, rfl, by decide, by decide, by decide, .inl (by decide), by decide⟩,
   ⟨by decide, rfl, rfl, rfl, by decide, by decide, by decide, .inl (by decide), by decide⟩,
   ⟨by decide, rfl, rfl, rfl, by decide, by decide, by decide, .inl (by decide), by decide⟩,
   ⟨by decide, rfl, rfl, rfl, by decide, by decide, by decide, .inl (by decide), by decide⟩, by decide, by decide, by decide⟩

set_option maxRecDepth 100000 in
theorem witness_StoresReachMemory :
    Ready (mem0 id) (mem0 id) 0 (memScalar .none 4 [1, 2]) ∧
    (∃ s2, checkAccess (decoded (mem0 id) 0 false) 0 ⟨0, false, .wr, true⟩ 0x40 16 = (.ok [(0x40, 16)], s2) ∧
      (∀ q ∈ [(0x40, 16)], s2.inMemory q.1 = true) ∧ (s2.chan 0).stq.length < 8) ∧
    Ready (mem0 id) (mem0 id) 0 { memScalar .none 4 [1] with readsD := [2] } ∧
    Ready (mem0 id) (mem0 id) 0 { memScalar .none 2 [15, 2, 3] with legal := true } ∧
    (∃ s2, checkAccess (decoded (mem0 id) 0 false) 0 ⟨0, false, .wr, true⟩ 0x1F8 8 = (.ok [(0x1F8, 8)], s2) ∧
      (∀ q ∈ [(0x1F8, 8)], s2.inMemory q.1 = true) ∧ (s2.chan 0).stq.length < 8) ∧
    8 ≤ ((mem0 id).chan 0).g[15].toNat ∧
    0x200 - 8 < ((at0 [] fun ch => { ch with slim := 0x1000 }).chan 0).slim.toNat :=
  ⟨⟨by decide, rfl, rfl, rfl, by decide, by decide, by decide, .inl (by decide), by decide⟩, pair_ok (by decide +kernel) (by decide +kernel),
   ⟨by decide, rfl, rfl, rfl, by decide, by decide, by decide, .inl (by decide), by decide⟩,
   ⟨by decide, rfl, rfl, rfl, by decide, by decide, by decide, .inl (by decide), by decide⟩, pair_ok (by decide +kernel) (by decide +kernel),
   by decide, by decide⟩

/-- A store of one byte to 41h is queued. -/
def queued (pa : Nat) (ch : Channel) : Channel := { ch with stq := [⟨0x41, [⟨pa, [9]⟩], 0, 0, true, 2, []⟩] }

theorem witness_StoresReachMemory_performed :
    ((mem0 (queued 0x41)).chan 0).ready 0 = some (⟨0x41, [⟨0x41, [9]⟩], 0, 0, true, 2, []⟩, ⟨0x41, [9]⟩) ∧
    (mem0 (queued 0x41)).target 0x41 = .dram ∧ (mem0 (queued 0x41)).inited 0x41 = true ∧
    (mem0 (queued 0x41)).poison.contains (0x41 / 64) = false ∧
    ((mem0 (queued 0x700000000000)).chan 0).ready 0 = some (⟨0x41, [⟨0x700000000000, [9]⟩], 0, 0, true, 2, []⟩, ⟨0x700000000000, [9]⟩) ∧
    (mem0 (queued 0x700000000000)).target 0x700000000000 = .dflt ∧
    ((at0 [] fun ch => { ch with wait := .storeRoom ⟨0x41, [], 0, 0, true, 0, []⟩ (some 8) 2 }).chan 0).wait =
      .storeRoom ⟨0x41, [], 0, 0, true, 0, []⟩ (some 8) 2 := by decide

/-- The step of one store: the byte stands in memory afterwards. -/
theorem test_store_performed : ∃ t, exec (.storePerformed 0 0) (mem0 (queued 0x41)) = .next t ∧ t.byte 0x41 = 9 :=
  ⟨_, rfl, by decide +kernel⟩

set_option maxRecDepth 100000 in
theorem witness_AtomicInstructions :
    (((decoded (mem0 id) 0 false).chan 0).rg 1).toNat % 4 = 0 ∧ ((decoded (mem0 id) 0 false).chan 0).lineQueued 1 = false ∧
    Ready (mem0 id) (mem0 id) 0 { memScalar .none 4 [1] with load := true, alone := true } ∧
    (∃ s2, checkPiece (decoded (mem0 id) 0 false) 0 ⟨0, false, .rw, false⟩ 0x40 = (.ok 0x40, s2) ∧ s2.target 0x40 = .dram ∧
      s2.poison.contains 1 = false ∧ s2.room (s2.bridges 0 [(0x40, 4)]) = true) ∧
    Ready (mem0 id) (mem0 id) 0 { memScalar .none 5 [1, 2] with alone := true } ∧
    (∃ s2, checkPiece (decoded (mem0 id) 0 false) 0 ⟨0, false, .rw, true⟩ 0x40 = (.ok 0x40, s2) ∧ s2.target 0x40 = .dram ∧
      s2.inited 0x40 = true ∧ s2.poison.contains 1 = false ∧ s2.room (s2.bridges 0 [(0x40, 4)]) = true) ∧
    ((decoded (mem0 fun ch => { ch with resv := some 1 }) 0 false).chan 0).resv = some 1 ∧
    ((decoded (mem0 id) 0 false).chan 0).stq.length < 8 ∧
    Ready (mem0 id) (mem0 id) 0 { memScalar .none 5 [1, 2] with load := true, alone := true, atomOk := true } ∧
    Ready (mem0 id) (mem0 id) 0 { memScalar .none 5 [1, 2, 3] with load := true, alone := true, atomOk := true } :=
  ⟨by decide, by decide,
   ⟨by decide, rfl, rfl, rfl, by decide, by decide, by decide, .inl (by decide), by decide⟩, pair_ok (by decide +kernel) (by decide +kernel),
   ⟨by decide, rfl, rfl, rfl, by decide, by decide, by decide, .inl (by decide), by decide⟩,
   pair_ok (by decide +kernel) (by decide +kernel), rfl, by decide,
   ⟨by decide, rfl, rfl, rfl, by decide, by decide, by decide, .inl (by decide), by decide⟩,
   ⟨by decide, rfl, rfl, rfl, by decide, by decide, by decide, .inl (by decide), by decide⟩⟩

/-- STC without a reservation answers 1 (R65). -/
theorem test_stc_fails : ∃ t, exec (.stc 0 .none 5 1 2 0) (mem0 id) = .next t ∧ (t.chan 0).rg 5 = 1 := ⟨_, rfl, by decide⟩

/-! ### Stream instructions -/

/-- The state a command leaves. -/
def after (i : Instr) (s : State) : State :=
  match exec i s with
  | .next t => t
  | _ => s

/-- A word descriptor of consecutive elements at `b`. -/
def words (b : BitVec 128) : BitVec 128 := b + 0x4 * 2 ^ 64

/-- D0, D1 and D2 are words at 1000h, 2000h and 3000h; SC is 2. -/
def vector (ch : Channel) : Channel :=
  { ch with sc := 2, d := ((ch.d.set 0 (words 0x1000)).set 1 (words 0x2000)).set 2 (words 0x3000) }

/-- ADD D0, D1, D2. -/
def addOps : SOps := ⟨false, 0, 1, 2, 15, 0⟩
def addAll : Instr := .streamAddSub 0 .none false addOps

/-- BPOW D0, D1, D2 with one band (G3 = 1) over frames of four elements. -/
def powOps : TOps := ⟨0, 1, 2, 15, 2, 3⟩
def power : Instr := .bpow 0 .none powOps

/-- D0 and D1 are binary32 values, D2 a band table of words; SC is 4. -/
def bands (ch : Channel) : Channel :=
  { ch with sc := 4, g := ch.g.set 3 1
            d := ((ch.d.set 0 (0x1000 + 6 * 2 ^ 64)).set 1 (0x2000 + 6 * 2 ^ 64)).set 2 (0x3000 + 5 * 2 ^ 64) }

/-- A slot with nothing in it. -/
def noSlot : Slot :=
  ⟨0, [], false, 0, none, none, 0, false, false, false, false, false, Channel.reset.snap, 0, 0, 0, false, none, [], 0, [], 0, false, [], 0, [], [], none⟩

/-- The head of channel 0. -/
def head (s : State) : Slot := (s.chan 0).slots.headD noSlot

/-- Decoded, dispatched, and with both elements complete. -/
def add1 : State := after addAll (mem0 vector)
def add2 : State := after (.streamDispatchStart 0 1) add1
def add3 : State := after (.elementComplete 0 1 1) (after (.elementComplete 0 1 0) add2)
def add4 : State := after (.stripComplete 0) add3

/-- The value or the exception of a result. -/
def Res.val? {α : Type} : Res α → Option α
  | .ok a => some a
  | _ => none
def Res.exc? {α : Type} : Res α → Option Exc
  | .exc x => some x
  | _ => none

def addM : Option Member := ((mem0 vector).chan 0).memberOf .none (.addSub false) (.ofS addOps)

theorem witness_StreamInstructionsTakeASlot (m : Member) (h : addM = some m) :
    StreamReady (mem0 vector) (mem0 vector) 0 .none (.addSub false) (.ofS addOps) m := by
  have g : ((mem0 vector).chan 0).opened = [] := by decide
  have one : addM.all (fun m => angles [m] ≤ 1) = true := by decide +kernel
  refine ⟨by decide, by decide, rfl, rfl, rfl, by decide +kernel, by decide +kernel, h, ?_, fun _ => ?_, fun _ => by decide,
    fun _ => by decide⟩
  · rw [h] at one
    rw [g]
    exact of_decide_eq_true one
  have e : ((mem0 vector).chan 0).elements (.ofS addOps) = 2 := by decide +kernel
  have : addM.all (fun m => wholeOk [m] 2) = true := by decide +kernel
  rw [h] at this
  rw [g, e]
  exact this

theorem witness_StreamInstructionsTakeASlot_member : addM.isSome = true ∧ streamOf addAll = some (0, .none, .addSub false, .ofS addOps) ∧
    ((mem0 vector).chan 0).infl < 24 := ⟨by decide +kernel, rfl, by decide +kernel⟩

/-- The clauses of a full table, of an illegal encoding, of KEY in user mode, of an empty PMASK and of a grant. -/
theorem witness_StreamInstructionsTakeASlot_other :
    24 ≤ (({ (mem0 vector).chan 0 with slots := List.replicate 24 { noSlot with members := (head add1).members } } : Channel).infl) ∧
    ((mem0 vector).chan 0).decodes = true ∧ ((mem0 vector).chan 0).group = none ∧
    ((mem0 vector).chan 0).waitsOperands (.addSub false) (.ofS addOps) = false ∧
    streamPrefixes { Prefixes.none with atomic := true } (.ofS addOps) (.addSub false) 0 = false ∧
    ((at0 ram fun ch => mapped vector { ch with csw := 0 }).chan 0).sup = false ∧
    ((at0 ram fun ch => mapped vector { ch with pmask := 0 }).chan 0).pmask = 0 ∧
    ((at0 ram fun ch => mapped vector { ch with pmask := 0 }).chan 0).quiet = true := by decide +kernel

/-- A decode of ADD that waits for a slot, with the pipe mask `pm`, behind the slots `q`. -/
def granting (m : Member) (pm : Word) (q : List Slot) : State :=
  mem0 fun ch => { vector ch with wait := .slot ((vector ch).request .none (.ofS addOps) m), pmask := pm, slots := q }

theorem witness_SlotGrant : (addM.any fun m =>
    decide ((((granting m 1 []).chan 0).wait = .slot (((mem0 vector).chan 0).request .none (.ofS addOps) m)) ∧
      ((granting m 1 []).chan 0).infl < 24 ∧ ((granting m 1 []).chan 0).pmask ≠ 0) &&
    decide (((granting m 0 [noSlot]).chan 0).infl < 24 ∧ ((granting m 0 [noSlot]).chan 0).pmask = 0 ∧
      ((granting m 0 [noSlot]).chan 0).group = none ∧ ((granting m 0 [noSlot]).chan 0).slots ≠ [])) = true := by decide +kernel

/-- ADD D0, D0, D2, which is in place, dispatched and with both elements complete. -/
def place3 : State := after (.elementComplete 0 1 1) (after (.elementComplete 0 1 0) (after (.streamDispatchStart 0 1)
  (after (.streamAddSub 0 .none false ⟨false, 0, 0, 2, 15, 0⟩) (mem0 vector))))

theorem witness_PipesTakeStrips_inPlace : place3.pipes[(0 : Fin 32)].work = some (0, 1, 0) ∧
    (place3.chan 0).slots.find? (·.sid == 1) = some (head place3) ∧ (head place3).commits = true ∧ (head place3).commitsLate = false ∧ (place3.chan 0).mute = false ∧
    (head place3).reduces = false ∧ (head place3).isUnit = false ∧ (∀ j, j < 2 → (head place3).complete j = true) ∧
    0 ≤ (head place3).wm ∧ (head place3).last.any (fun m => m.d == .mem (words 0x1000) &&
      (Res.val? (commitStrip place3 0 (head place3) m (words 0x1000) 0 2).1).isSome) = true := by decide +kernel

/-- RSUM of D1 with its carry record at D0, dispatched and with both elements complete. -/
def sum3 : State := after (.elementComplete 0 1 1) (after (.elementComplete 0 1 0) (after (.streamDispatchStart 0 1)
  (after (.rsum 0 .none ⟨false, 0, 1, 15, 15, 0⟩) (mem0 vector))))

theorem witness_PipesTakeStrips_reduction : sum3.pipes[(0 : Fin 32)].work = some (0, 1, 0) ∧
    (sum3.chan 0).slots.find? (·.sid == 1) = some (head sum3) ∧ (head sum3).reduces = true ∧
    (head sum3).isUnit = false ∧ (∀ j, j < 2 → (head sum3).complete j = true) := by decide +kernel

theorem witness_PipesTakeStrips :
    (add1.chan 0).slots.find? (·.sid == 1) = some (head add1) ∧ (head add1).started = false ∧
    (add1.chan 0).mute = false ∧ (head add1).record = none ∧ (∀ x ∈ (head add1).memOperands, dMode x.2.1 < 2) ∧
    canStart add1 0 (head add1) = true ∧ (Res.val? (beginSlot add1 0 (head add1)).1).isSome = true ∧
    add3.pipes[(0 : Fin 32)].work = some (0, 1, 0) ∧ (add3.chan 0).slots.find? (·.sid == 1) = some (head add3) ∧
    (head add3).commits = false ∧ ((add1.chan 0).slots.map (·.sid)).Nodup ∧ (add3.chan 0).mute = false ∧ (head add3).isUnit = false ∧
    (∀ j, j < 256 → j < (head add3).count → (head add3).complete j = true) := by decide +kernel

/-- A second instruction, ADD D4, D1, D3, whose operand B no region maps: dispatched behind ADD D0, D1, D2. -/
def faulty : State :=
  let s := mem0 fun ch => vector { ch with d := (ch.d.set 3 (words 0xF0000000)).set 4 (words 0x5000), pmask := 3 }
  after (.streamDispatchStart 0 2) (after (.streamDispatchStart 0 1) (after (.streamAddSub 0 .none false ⟨false, 4, 1, 3, 15, 0⟩)
    (after addAll s)))
def second (s : State) : Slot := (s.chan 0).slots.getLastD noSlot

theorem witness_ElementsAndUnits :
    (add2.chan 0).findSlot 1 = some (head add2, false) ∧ (head add2).canRun 0 = true ∧ (head add2).writesZero 0 = false ∧
    (head add2).last.map (·.d) = some (.mem (words 0x1000)) ∧ (head add2).commits = false ∧ (head add2).reduces = false ∧
    (head add2).scans = false ∧ (prepareIndices 0 0 ((head add2).indexOperands 0) (head add2) add2).2.1 = head add2 ∧
    (Res.val? (prepareIndices 0 0 ((head add2).indexOperands 0) (head add2) add2).1) = some () ∧
    (Res.val? (elemOf add2 0 (head add2) 0).1).isSome = true ∧
    (head add2).last.any (fun m => (Res.val? (destAddr add2 0 (head add2) m (words 0x1000) 0).1).isSome) = true ∧
    (faulty.chan 0).findSlot 2 = some (second faulty, false) ∧ (second faulty).canRun 0 = true ∧
    (Res.exc? (runElem faulty 0 (second faulty) 0).1).isSome = true ∧ (faulty.chan 0).slots.head? = some (head faulty) ∧
    (head faulty).sid ≠ (second faulty).sid := by decide +kernel

/-- BPOW, dispatched: its unit can be run. -/
def pow2 : State := after (.streamDispatchStart 0 1) (after power (mem0 bands))

theorem witness_ElementsAndUnits_unit : (pow2.chan 0).slots.find? (·.sid == 1) = some (head pow2) ∧
    (head pow2).canUnit 0 = true ∧ (Res.val? (runUnit pow2 0 (head pow2) 0).1).isSome = true ∧ 0 * (head pow2).strip = (head pow2).wm := by decide +kernel

/-- The unit of BPOW is complete. -/
def pow3 : State := after (.unitComplete 0 1 0) pow2

theorem witness_PipesTakeStrips_unit : pow3.pipes[(0 : Fin 32)].work = some (0, 1, 0) ∧
    (pow3.chan 0).slots.find? (·.sid == 1) = some (head pow3) ∧ (head pow3).isUnit = true ∧ (head pow3).unitDone 0 = true := by
  decide +kernel

/-- A drain that a stop has begun. -/
def draining : State := add2.modChan 0 fun ch => { ch with slots := [], drains := [⟨1, [head add2], .stop⟩] }

theorem witness_RetirementAndDrains :
    (add4.chan 0).slots = [head add4] ∧ (head add4).count ≤ (head add4).wm ∧ (head add4).fault = none ∧
    add4.working 0 (head add4).sid = false ∧ (head add4).last.map (·.d) = some (.mem (words 0x1000)) ∧
    (head add4).last.map (·.op.reduces) = some false ∧ (head add4).last.map (·.op.scans) = some false ∧
    (add4.chan 0).heldX = none ∧ (add4.chan 0).req = none ∧
    (draining.chan 0).drains[0]? = some ⟨1, [head add2], .stop⟩ ∧ (head add2).r91 = false := by decide +kernel

/-- A member of RSUM. -/
def rsumM : Member := ⟨0, .rsum, .none, .none, .none, .none, [], 0, 0, 0, false, false, .I, false, 4⟩

/-- A member of another operation and class. -/
def lane (op : SOp) (cls : Cls) : Member := { rsumM with op := op, cls := cls }

theorem witness_LaneResults :
    ((lane (.logic .and) .I).op = .logic .and ∧ (lane (.div .div) .I).op = .div .div ∧ (0 : Nat) < 1) ∧
    ((lane .fdiv .F).cls = .F ∧ fNaN 0x7FC00000 = true ∧ fInf 0x7F800000 = true ∧ fZero 0 = true ∧ fExp 0x3F800000 ≠ 255 ∧
      fZero 0x3F800000 = false ∧ fMant 0x3F800000 * 2 ^ 64 = 2 ^ 64 * fMant 0x3F800000 + 0 ∧ 0 < fMant 0x3F800000 ∧
      fUnit 0x3F800000 % 2 ≠ 0 ∧ 2 ^ 57 * 2 ^ 57 ≤ fMant 0x3F800000 * 2 ^ 91 ∧
      fMant 0x3F800000 * 2 ^ 91 < (2 ^ 57 + 1) * (2 ^ 57 + 1)) ∧
    ((lane (.dadd false) .DS).cls = .DS ∧ decBad .DS 0x1C = none ∧ decBad .DL 0x1C = none ∧ lowCause (decBad .DS 0) none = some 1 ∧
      (decVal .DS 0x9999999C).natAbs < 10 ^ decDigits .DS ∧ 10 ^ decDigits .DS ≤ (decVal .DS 0x9999999C + decVal .DS 0x1C).natAbs) ∧
    clsOf 6 = .F := by decide +kernel

/-- A unit of two points: a frame of FFT, and one band of BPOW with one element. -/
theorem witness_LaneResults_units :
    (let m := { lane .fft .X with ext := 1 }
     ([0, 0] : List (BitVec 64)).length = 2 ^ m.logN ∧ m.logN ≤ 16) ∧
    (let m := { lane .bpow .F with ext := 1, gval := 1 }
     (∀ b < m.gval.toNat, ([0, 1] : List Nat).getD (2 * b) 0 + ([0, 1] : List Nat).getD (2 * b + 1) 0 ≤ 2 ^ m.logN) ∧
     (∃ b < m.gval.toNat, 2 ^ m.logN < ([2, 1] : List Nat).getD (2 * b) 0 + ([2, 1] : List Nat).getD (2 * b + 1) 0) ∧
     ((blockTotal noSlot.env m [some 0x3F800000]).any fun x => x.2.isSome) = true) := by decide +kernel

theorem witness_BlockSumIsTheSum : rsumM.op = .rsum ∧ rsumM.wide = false ∧ rsumM.sat = false ∧ ([1, 2, 3] : List Word).length ≤ 256 := by
  decide

/-- ELEMENT_COMPLETE of ADD with both operands 0 in memory leaves WM at 1. -/
theorem test_element : (head (after (.elementComplete 0 1 0) add2)).wm = 1 := by decide +kernel
/-- STREAM_RETIRE frees the slot. -/
theorem test_retire : ((after (.streamRetire 0) add4).chan 0).slots = [] := by decide +kernel

/-- The carry record of `n` blocks whose one entry, at level `j`, is `v`. -/
def rangeRec (n j : Nat) (v : Word) : CarryRec := ⟨n, (noCarry.set j (some (lw v)))⟩

/-- The worked example beside R437: 100 blocks in ranges of 16; after the fold gblocks is 100 and carries 6, 5 and 2 are
present, and the result is the sum. -/
theorem test_widened_sum :
    wideRanges 100 4 = [(0, 16), (16, 16), (32, 16), (48, 16), (64, 16), (80, 16), (96, 4)] ∧
    (let rs := [1, 2, 3, 4, 5, 6].map (rangeRec 16 4) ++ [rangeRec 4 2 7]
     (foldRecords ⟨0, false⟩ rsumM rs).map (fun x => (x.2.1, (List.range 25).filter fun i => ((x.2.2[i]?).getD none).isSome)) =
       some (100, [2, 5, 6]) ∧
     wideResult ⟨0, false⟩ rsumM rs = some (lw 28)) := by decide +kernel

/-! ### The Ledger Engine -/

/-- Both packed operands hold +0; G2 and G4 address them. -/
def ledgerMem : State :=
  { mem0 (fun ch => { ch with g := (ch.g.set 2 0x1000).set 4 0x2000, lsav := 0x8000 }) with mem := [(0x1000, 0x0C), (0x2000, 0x0C)] }

theorem witness_LedgerInstructionsWaitForTheEngine :
    (ledgerOf (.padd 0 .none 2 4 0 0)).any (fun k => k.1 == 0) = true ∧ (ledgerMem.chan 0).stq = [] ∧
    Ready ledgerMem ledgerMem 0 { ledgerScalar .none 5 with legal := l1Ok 0 && l2Ok 0 && true, reads := [2, 4] } :=
  ⟨by decide, by decide, ⟨by decide, rfl, rfl, rfl, by decide, by decide, by decide, .inl (by decide), by decide⟩⟩

/-- PADD and LUNPIN, each waiting and then at work. -/
def padd1 : State := after (.padd 0 .none 2 4 0 0) ledgerMem
def padd2 : State := after (.ledgerEngineGrant 0) padd1
def unpin1 : State := after (.lunpin 0 .none) ledgerMem
def unpin2 : State := after (.ledgerEngineGrant 0) unpin1

/-- A context with one unit left, which stores a byte and gives CC 2. -/
def oneUnit : LUnit := ⟨[(0x1000, [0x1C])], [], some 2⟩
def lastUnit : LCtx := ⟨0, 0, 0x8000, 0, [oneUnit], none, [], (0, []), []⟩
def padd3 : State := { padd2 with lge := { padd2.lge with work := some lastUnit } }

theorem witness_LedgerEngineSteps :
    ((unpin1.lrun 0).map (·.ins.opc) = some 0x21 ∧ unpin1.lge.cur = none ∧ unpin1.lge.spill = none ∧ unpin1.lge.load = none ∧
      ledgerTurn unpin1 = some 0) ∧
    ((padd1.lrun 0).map (·.ins.opc) = some 0 ∧ (padd1.lrun 0).map (·.resume) = some false ∧ padd1.lge.cur = none ∧
      ledgerTurn padd1 = some 0 ∧ padd1.lge.pinOf 0 = none ∧ padd1.lge.slotOf 0 = none ∧
      ((List.finRange 4).find? fun j => !padd1.lge.slots[j].pin && padd1.lge.slots[j].ctx.isNone) = some 0) ∧
    ((padd3.lworking 0).map (·.ins.opc) = some 0 ∧ slotClass 0 = true ∧ padd3.lge.work = some lastUnit ∧
      (padd3.lworking 0).any (fun r => (commitUnit padd3 0 r oneUnit).1 == .ok &&
        ((commitUnit padd3 0 r oneUnit).2.chan 0).req == none && ((commitUnit padd3 0 r oneUnit).2.chan 0).lpst == 0) = true) ∧
    ((unpin2.lworking 0).map (·.ins.opc) = some 0x21 ∧ (unpin2.chan 0).req = none ∧ (unpin2.chan 0).lpst = 0) := by
  decide +kernel

/-- Channel 0's save area for that context, with zeros for STATE. -/
def saveBytes : List Byte := saveArea 0 lastUnit 1 (List.replicate 240 0)
def reload : LLoad := ⟨0, 0, 0, 0, 0x8000⟩
def loading : State := { (ledgerMem.setBytes 0x8000 saveBytes) with lge := { ledgerMem.lge with
  load := some reload, saved := ledgerMem.lge.saved.set 0 [⟨List.replicate 240 0, lastUnit⟩] } }
def spilling : State := { ledgerMem with lge := { ledgerMem.lge with
  spill := some (0, lastUnit, 0), loc := ledgerMem.lge.loc.set 0 (.inSlot 0) } }

theorem witness_SpillsAndReloads :
    spilling.lge.spill = some (0, lastUnit, 0) ∧ spilling.lge.loc[(0 : Chan)] = .inSlot 0 ∧ spilling.lge.cur = none ∧
    (writeLong 5 spilling 0 (supervisorHow 0 .wr true) 0x8000 saveBytes).1 = .ok ∧
    loading.lge.load = some reload ∧ loading.lge.cur ≠ some reload.chan ∧
    (readLong 5 loading 0 (supervisorHow 0 .rd false) 0x8000 256).1 = .ok saveBytes ∧ saveCause reload saveBytes = none ∧
    (loading.lge.saved[(0 : Chan)]).find? (fun z => z.state == saveBytes.drop 16) = some ⟨List.replicate 240 0, lastUnit⟩ ∧
    saveCause reload (List.replicate 256 0) = some 0 := by decide +kernel

/-- CRC-32 of the nine digits, the check value of that code. -/
theorem test_crc32 : crc32 [0x31, 0x32, 0x33, 0x34, 0x35, 0x36, 0x37, 0x38, 0x39] = 0xCBF43926 := by decide +kernel

/-- R213: −12 in two bytes is 01 2Dh, and its field is valid. -/
theorem test_packed : packBytes 2 (-12) = [0x01, 0x2D] ∧ packedVal [0x01, 0x2D] = -12 ∧ packedCause [0x01, 0x2D] = none ∧
    packedCause [0x01, 0x22] ≠ none := by decide +kernel

/-- 7 + 5 in two bytes stores 01 2Ch with CC 2; 99 + 1 in one byte does not fit (CC 3). -/
theorem test_padd : (decResult ⟨0, 0, 0, 0, 1, 0, 0, false, 5⟩ Channel.reset [7, 5]).1.stores = [(0, [0x01, 0x2C])] ∧
    (decResult ⟨0, 0, 0, 0, 0, 0, 0, false, 5⟩ Channel.reset [9, 1]).1.cc = some 3 := by decide +kernel

/-! ### Events -/

/-- Event 40 is enabled for channel 0 at level 2, event 41 for the host, event 42 has its LB_TRIG bit. -/
def eventsOn : State := dev [(R.evcfg 40, 0x120), (R.evcfg 41, 0x300), (R.lbTrig 1, 0x400), (R.lbRate 3, 0)]

theorem witness_EventAssertions :
    (eventReserved 40 = false ∧ eventReserved 41 = false ∧ eventReserved 42 = false) ∧
    (eventsOn.rbit (R.lbTrig 1) 8 = false ∧ bit (eventsOn.reg (R.evcfg 40)) 8 = true ∧ bit (eventsOn.reg (R.evcfg 40)) 9 = false) ∧
    (bit (eventsOn.reg (R.evcfg 41)) 9 = true) ∧ (bit (eventsOn.reg (R.evcfg 43)) 8 = false) ∧
    (eventsOn.rbit (R.lbTrig 1) 10 = true ∧ wfld (eventsOn.reg (R.lbRate 3)) 15 0 = 0) := by decide +kernel

/-- An asserted event is pending. -/
theorem test_event : (after (.eventAssert 40) eventsOn).rbit (R.evcPend 1) 8 = true := by decide +kernel

/-- Event 40 is pending for a running channel 0 that maps DRAM. -/
def recognise : State := at0 (ram ++ [(R.evcfg 40, 0x120), (R.evcPend 1, 0x100)]) (mapped fun ch => { ch with vl := 0, csw := 0x3000 })

theorem witness_EventsAreTakenInOrder :
    ((recognise.chan 0).st = .running ∧ (recognise.chan 0).wait = .none ∧ (recognise.chan 0).slots = [] ∧
      (recognise.chan 0).group = none ∧ (recognise.chan 0).window = none ∧ (recognise.chan 0).heldX = none ∧
      (recognise.chan 0).impr = [] ∧ (recognise.chan 0).req = none ∧ haltAsked recognise 0 = false ∧
      eligibleEvents recognise 0 = [40]) ∧
    (∃ t, EntryOk ((recognise.modChan 0 Channel.deliverAll).setBit (R.evcPend 1) 8 false) 0 552 entry0 0x200 t) :=
  ⟨by decide +kernel, entry_ok (ps := [(480, 32)]) (by decide +kernel) (by decide +kernel) (by decide +kernel) (by decide +kernel)⟩

theorem witness_EventRegisterWrites : debugOk (dev []) .host ∧ debugOk (dev [(R.bnmLcs, 0x100)]) .sextant ∧ asBnm .bnm = true ∧
    (dev []).rbit (R.evcPend 1) 8 = false ∧ bit (0 : Word) 8 = false := by
  exact ⟨(fun h => by cases h), fun _ => by decide, by decide, by decide, by decide⟩

/-- Channel 0 has a window; the device is out of reset. -/
def windowed : State := at0 [(R.bnmLcs, 0x100)] fun ch => { ch with window := some ⟨3⟩ }

theorem witness_WindowsAndCounters : (windowed.chan 0).window.isSome = true ∧ (windowed.chan 0).req = none ∧
    (windowed.chan 0).st = .running ∧ windowed.rst.hold = none ∧ windowed.rbit R.bnmLcs 8 = true := by decide +kernel

/-! ### Memory -/

/-- 1 GiB of DRAM, wholly initialised, with 8 channels' scrubbing on; the PCI Express link is up. -/
def ramUp (l : List (Nat × Word)) : State := dev (ram ++ [(R.pxLink, 1), (R.mcCtl 0, 0x100)] ++ l)

theorem witness_DramAccesses : (0x41 : BitVec 48).toNat < (ramUp []).dramSize ∧ (ramUp []).inited 0x41 = true ∧
    (ramUp []).inited 0x40 = true ∧ (ramUp []).poison.contains 1 = false ∧
    ({ ramUp [] with poison := [1] } : State).poison.contains 1 = true := by decide +kernel

/-- A partial write changes its bytes alone. -/
theorem test_partial_write : (after (.dramPartialWrite .bnm 0x41 [7] .clean) (ramUp [])).byte 0x41 = 7 ∧
    (after (.dramPartialWrite .bnm 0x41 [7] .clean) (ramUp [])).byte 0x42 = 0 := by decide +kernel

/-- The sweep has not begun; the key table starts at line 0. -/
def sweeping : State := dev [(R.mcCfg 0, 0x10000), (R.kcKtlen, 1)]

theorem witness_SweepScrubAndDimm : (sweeping.rbit R.smsMinit 31 = false ∧ sweeping.chunks = [] ∧
    sweeping.rfld R.smsMinit 18 0 * 2 ^ 24 < sweeping.dramSize ∧ sweeping.rfld R.smsMinit 18 0 ≤ 0 * 64) ∧
    (sweeping.ktBase / 64 ≤ 0 ∧ 0 < sweeping.ktBase + sweeping.ktBytes ∧ 0 < sweeping.dramSize) ∧
    (mcOf (0 * 64) = 0 ∧ (ramUp []).inited (0 * 64) = true ∧ (ramUp []).rfld (R.mcCtl 0) 15 8 ≠ 0 ∧ (ramUp []).dramSize ≠ 0) ∧
    asBnm .bnm = true := by decide +kernel

/-- Bank 0 belongs to the host; bank 1 is being wiped, bank 2 changes hands. -/
def banks : State := { dev [(R.cbOwner 0, 0x11)] with wiping := [1, 32], handover := [(2, 3, true)] }

theorem witness_ChartBanks : (banks.owns 0 (ownerCode .host) = .pass ∧ banks.anyPoison (bankBase 0) 32 = false ∧
      (0 : BitVec 16).toNat * 32 < bankSize 0) ∧ banks.owns 0 (ownerCode .bnm) = .refuse ∧
    banks.cpoison.contains ((bankBase 0 + 0 * 32 + 4 * 0) / 4) = false ∧ banks.wiping.contains 0 = false ∧
    banks.handover.find? (·.1 == 2) = some (2, 3, true) ∧ banks.wiping.contains 1 = true ∧ banks.wiping.contains 32 = true ∧
    banks.target 0xF00000000000 = .dflt := by decide +kernel

/-! ### Commands -/

/-- Ring 0 enabled with 4 entries each way at 0 and 1000h of host memory, and `k` entries announced. -/
def ring (k : Word) : List (Nat × Word) := [(R.ringCfg 0, 0x10202), (R.ringSbaseL 0, 0x1000), (R.ringCtail 0, k), (R.ringStail 0, 0x10000)]

/-- The device at READY with one packet's entry in the ring: MEM_STATUS. -/
def ringed (k : Word) (l : List Byte) : State := (ramUp (ring k)).setHbytes 0 l
def memStatusPacket : List Byte := [5, 2, 7, 0, 0, 0, 0, 0, 0, 0, 0, 0, 0, 0, 0, 0]

/-- A command that ring 0 runs. -/
def commanding (l : List (Nat × Word)) (p : Packet) : State :=
  { ramUp l with cmds := { Cmds.reset with rings := .ofFn fun n => if n = 0 then { RingSt.reset with run := some ⟨p, false, none, none⟩ } else .reset } }

/-- Every command of the statements about packets runs in such a state. -/
theorem runs_commanding (l : List (Nat × Word)) (p : Packet) : Runs (commanding l p) (.ring 0) p.opcode p :=
  ⟨⟨_, rfl, rfl, rfl, rfl, .inl rfl⟩, rfl, fun n h => by injection h with h; subst h; rfl⟩

/-- A packet with these parameters and payload. -/
def packet (op : Nat) (p0 p1 : Word) (l : List Byte) : Packet := ⟨op, 7, false, false, true, false, 0, 0, l.length, p0, p1, l⟩

theorem witness_DoorbellsAndRings :
    ((ramUp (ring 0)).rbit (R.ringCfg 0) 16 = true ∧ (ramUp (ring 0)).rbit (R.ringStat 0) 1 = false ∧
      (9 : Nat) ≠ (ramUp (ring 0)).rfld (R.ringCtail 0) 15 0 ∧ (ramUp (ring 0)).cSize 0 ≤ 9 ∧ (ramUp (ring 0)).sSize 0 ≤ 9 ∧
      1 < (ramUp (ring 0)).cSize 0 ∧
      (1 + (ramUp (ring 0)).cSize 0 - 0) % 4 ≤ (0 + (ramUp (ring 0)).cSize 0 - 1 - 0 + (ramUp (ring 0)).cSize 0) % 4) ∧
    ((1 : Nat) ≠ ((ramUp (ring 0 ++ [(R.ringStail 0, 1)])).cmds.rings[(0 : Fin 4)]).head ∧
      (1 + 4 - 0) % 4 ≤ ((ramUp [(R.ringCfg 0, 0x10202), (R.ringStail 0, 1)]).rfld (R.ringStail 0) 15 0 + 4 - 0) % 4) ∧
    ((ramUp []).rbit (R.ringCfg 0) 16 = false) ∧
    ((packet 0x0201 0 0 []).prog = true ∧ (packet 0x0201 0 0 []).long = true ∧
      (commanding (ring 0) (packet 0x0201 0 0 [])).sFull 0 = false ∧ (commanding (ring 0) (packet 0x0201 0 0 [])).rbit R.pxLink 0 = true) := by
  decide +kernel

theorem witness_PacketsStart : (ringed 1 memStatusPacket).startable 0 = true ∧
    (parsePacket memStatusPacket).opcode = 0x0205 ∧ routeOf (ringed 1 memStatusPacket) (.ring 0) (parsePacket memStatusPacket) = .here ∧
    checkPacket (ringed 1 memStatusPacket) (.ring 0) none memStatusPacket = none ∧
    (checkPacket (ringed 1 memStatusPacket) (.ring 0) none (List.replicate 16 0)).isSome = true ∧
    ((ramUp []).cmds.mbx = none ∧ (ramUp []).packetsOk = true ∧ (ramUp []).bnm.halted = false ∧
      (∀ n : Fin 4, (ramUp []).rbit (R.ringCfg n) 16 = false) ∧
      objBusy (ramUp []) .mailbox (parsePacket (List.replicate 1040 0)).objs = false) ∧
    (ramUp (ring 0)).rbit (R.ringCfg 0) 16 = true := by decide +kernel

theorem witness_ChannelCommands : ((commanding [] (packet 0x0101 0 0 [])).chan 0).st = .stopped ∧
    wfld (packet 0x0102 0 0 []).p0 11 8 + wfld (packet 0x0102 0 0 []).p0 19 16 < 16 ∧
    (packet 0x0103 0 1 []).p1 &&& ~~~ (commanding [(R.xbgGpol 0, 1)] (packet 0x0103 0 1 [])).reg (R.xbgGpol 0) = 0 ∧
    (packet 0x0103 0 2 []).p1 &&& ~~~ (commanding [(R.xbgGpol 0, 1)] (packet 0x0103 0 2 [])).reg (R.xbgGpol 0) ≠ 0 ∧
    ((at0 [] id).chan 0).st = .running ∧ ((at0 [] id).chan 0).wait = .none ∧ ((at0 [] id).chan 0).window = none ∧
    ((at0 [] id).chan 0).slots = [] ∧ ((at0 [] id).chan 0).drains = [] ∧ ((at0 [] id).chan 0).heldX = none := by decide +kernel

theorem witness_StatusCommands :
    (let s := commanding (ring 0) (packet 0x0205 0 0 [])
     s.sFull 0 = false ∧ (s.cmds.rings[(0 : Fin 4)]).drop = false ∧ s.rbit R.pxLink 0 = true ∧ s.rbit (R.evcfg 496) 9 = false) ∧
    ((commanding [] (packet 0x0107 0 0 [])).chan 0).st ≠ .running := by decide +kernel

/-- MEM_FILL of 4 bytes at 40h. -/
def fill : Packet := packet 0x0203 0 0xAB [0x40, 0, 0, 0, 0, 0, 0, 0, 4, 0, 0, 0, 0, 0, 0, 0]

theorem witness_MemoryCommands : (let s := commanding [] fill
    s.sx.all = false ∧ memFields fill = (0x40, 4, 0) ∧ foreignBank s 0x40 4 = none ∧ s.target 0x40 = .dram ∧ s.inited 0x40 = true ∧
      s.poison.contains (0x40 / 64) = false ∧ s.keyWritable 0x40 = true ∧ s.rbit R.pxLink 0 = true) ∧
    (let s := commanding [(R.cbOwner 0, 3)] (packet 0x0204 0x300 0 [])
     s.wiping.contains 0 = false ∧ wfld 0x300 12 8 = s.rfld (R.cbOwner 0) 4 0 ∧ bit (0x300 : Word) 16 = false ∧
       s.handover.any (·.1 == 0) = false ∧ (4 : Nat) ≠ s.rfld (R.cbOwner 0) 4 0) := by decide +kernel

/-- A proposal of item 2 by ring 0 under nonce 0, and its packet. -/
def policyValue : List Byte := [1, 0, 0, 0]
def propose : Packet :=
  let body : List Byte := [2, 0, 0, 0, 0, 0, 0, 0] ++ wordBytes (bearingDigest 2 0 policyValue) ++ [0, 0, 0, 0] ++ policyValue
  packet 0x0301 0 0 body
def proposed (q : Party) : State :=
  { commanding [(R.xbgNonce, 1)] propose with bnm := { Bnm.reset with prop := some ⟨q, 2, 0, propose.pw 8, policyValue, 0⟩ } }

theorem witness_CrossBearing : partyOfSrc (commanding [] propose) (.ring 0) = some .ring0 ∧
    (commanding [] propose).reg R.xbgNonce ≠ 0xFFFFFFFF ∧ propose.pw 4 = (commanding [] propose).reg R.xbgNonce ∧
    propose.pw 8 = bearingDigest (leAt propose.payload 0 1) (propose.pw 4) (propose.payload.drop 16) ∧
    validValue (commanding [] propose) (leAt propose.payload 0 1) (propose.payload.drop 16) = true ∧
    (commanding [] propose).bnm.prop = none ∧
    ((proposed .ring0).time.toNat < 0 + 2000000000 ∧ leAt propose.payload 0 1 = 2 ∧ (proposed .vlan).bnm.prop.isSome = true) := by
  decide +kernel

theorem witness_TelemetryAndLogCommands : wfld (0x100 : Word) 11 8 = 1 ∧ wfld (0x400 : Word) 11 8 = 4 ∧
    (commanding [] (packet 0x0402 0 0 [])).rbit R.pxLink 0 = true ∧ (packet 0x0403 800 0 []).p0.toNat < 1024 ∧
    (commanding [] (packet 0x0501 1 0 [])).log.hold = [] ∧
    (commanding [] (packet 0x0503 0 0 [])).log.seq ≠ 0xFFFFFFFFFFFF := by decide +kernel

/-- Slot B of the firmware is valid too. -/
def slots : State := { commanding [] (packet 0x0602 0 0 []) with nor := { Nor.factory with desc0 := ({ BootDesc.factory with fwOk := (true, true) } : BootDesc).sealed } }

theorem witness_ServiceCommands : (bootDesc (commanding [] (packet 0x0602 0 0 []))).valid false true = false ∧
    (bootDesc slots).valid false true = true ∧ runsB slots false = false ∧
    (∃ k, verifyImage (commanding [] (packet 0x0601 0 0 [])) false [] = .fail k) ∧
    (commanding [] (packet 0x0903 0 0 [0x40])).target 0x40 = .dram ∧ (commanding [] (packet 0x0903 0 0 [0x40])).anyPoison 0x40 4 = false ∧
    ((at0 [] fun ch => { ch with st := .halted }).chan 0).st = .halted ∧ (at0 [] id).rbit R.sxHaltReq 16 = false :=
  ⟨by decide +kernel, by decide +kernel, by decide +kernel, ⟨_, rfl⟩, by decide +kernel, by decide +kernel, by decide +kernel, by decide +kernel⟩

/-! ### The Binnacle and the responder -/

/-- `s` with other sensors. -/
def withSensors (s : State) (f : Sensors → Sensors) : State := { s with bnm := { s.bnm with sensors := f s.bnm.sensors } }

theorem witness_SensorsAndVoltage : (dev []).rst.hold = none ∧
    (let s := withSensors (dev []) fun x => { x with throttle := true }
     s.bnm.sensors.throttle = true ∧ s.bnm.sensors.rising = false ∧ s.bnm.sensors.fault = false ∧
       s.rfld R.bnmVctl 25 16 < s.bnm.sensors.goal) ∧
    (withSensors (dev []) fun x => { x with throttle := true, rising := true }).bnm.sensors.rising = true ∧
    (sixteenths ((dev []).rfld R.bnmTherm 7 0) ≤ hottest [1600] ∧ sixteenths ((dev []).rfld R.bnmTherm 15 8) ≤ hottest [1600]) ∧
    hottest [400] ≤ sixteenths ((dev []).rfld R.bnmTherm 7 0) - 80 ∧
    (800 : Nat) + 15 < (900 : BitVec 16).toNat ∧ (dev []).bnm.sensors.setpoint = 800 := by decide +kernel

/-- The set-point that the steps aim at falls by 10 mV while throttling. -/
theorem test_throttle : (after (.throttleStep false) (withSensors (dev []) fun x => { x with throttle := true })).bnm.sensors.goal = 790 := by
  decide +kernel

/-- No source runs a command. -/
theorem no_command (l : List (Nat × Word)) (src : CmdSrc) : (dev l).running src = none := by
  cases src with
  | ring n => exact (by decide : ∀ n : Fin 4, (dev []).running (.ring n) = none) n
  | mailbox => rfl
  | vlan => rfl
  | forwarded n => exact (by decide : ∀ n : Fin 4, (dev []).running (.forwarded n) = none) n
  | console b => rfl

theorem witness_WatchdogTamperLifeCycle : (dev []).rst.hold = none ∧ (dev []).bnm.halted = false ∧
    (∀ src r, (dev []).running src = some r → r.pkt.opcode ≠ 0x0601) ∧
    ({ (dev []) with bnm := { Bnm.reset with lcReset := true } } : State).bnm.lcReset = true :=
  ⟨rfl, rfl, fun src r h => (by rw [no_command] at h; cases h), rfl⟩

/-- A record with its CRC is valid. -/
theorem newest_sealed (r : SettingsRec) : newest [r.sealed] = some r.sealed := by
  have : r.sealed.crcOk = true := by simp [SettingsRec.crcOk, SettingsRec.sealed, SettingsRec.store, SettingsRec.head]
  simp [newest, highest, this]

/-- A settings image with one record, of nothing that the device holds now. -/
def oldSettings : State :=
  { dev [] with nor := { Nor.factory with settings := [SettingsRec.sealed ⟨3, 9, { settingsOf (dev []) with nonce := 5 }, 0⟩] } }
/-- The same with the record up to date. -/
def newSettings : State := { dev [] with nor := { Nor.factory with settings := [SettingsRec.sealed ⟨3, 9, settingsOf (dev []), 0⟩] } }
/-- The console is a party; slot 0 holds the digest of credential 7; the management key is 5. -/
def operated : State :=
  let s := dev [(R.nxCfg 0, 0x21)]
  { s with
    ifc := { s.ifc with nx := s.ifc.nx.set 0 { s.ifc.nx[(0 : Fin 4)] with up := true } }
    fuses := { s.fuses with verifiers := s.fuses.verifiers.set 0 (some (digest (beBytes 32 7))) }
    bnm := { s.bnm with mgmtKey := some 5, rxCeil := 9, console := ⟨some 1000, 1, none⟩ } }

theorem witness_ConsoleAndSettings :
    ((∃ n, newest oldSettings.nor.settings = some n ∧ n.val ≠ settingsOf oldSettings) ∧
      (∃ n, newest newSettings.nor.settings = some n ∧ n.val = settingsOf newSettings)) ∧
    (operated.bnm.console.lock = none ∧ operated.fuses.verifiers[(0 : Fin 4)] = some (digest (beBytes 32 (7 : BitVec 256).toNat)) ∧
      (∀ i : Fin 4, (dev []).fuses.verifiers[i] ≠ some (digest (beBytes 32 (7 : BitVec 256).toNat)))) ∧
    (operated.consoleIs3 = true ∧ operated.wiping.contains 32 = false ∧ (dev []).consoleIs3 = false ∧ (dev []).bnm.mgmtKey = none ∧
      operated.bnm.mgmtKey = some 5 ∧ operated.rst.hold = none ∧ (operated.ifc.nx[(0 : NxPort)]).up = true ∧
      operated.rbit (R.nxCfg 0) 5 = true) :=
  ⟨⟨⟨_, newest_sealed _, by decide +kernel⟩, ⟨_, newest_sealed _, by decide +kernel⟩⟩, by decide +kernel, by decide +kernel⟩

/-- A packet under sequence number 1, whatever the open decryption makes of it: the clause of a packet that opens has
these other premises. -/
theorem witness_ConsoleAndSettings_packet : (let l : List Byte := [0, 0, 0, 0, 1, 0, 0, 0, 0, 0, 0, 0] ++ List.replicate 16 0
    leAt l 1 1 = 0 ∧ 28 ≤ l.length ∧ operated.bnm.rxLast < leAt l 4 8 ∧ leAt l 4 8 ≤ operated.bnm.rxCeil) ∧
    operated.cmds.vlan = none ∧ operated.packetsOk = true ∧ operated.bnm.halted = false ∧
    objBusy operated .vlan (parsePacket (List.replicate 16 0)).objs = false ∧ leAt (List.replicate 12 0) 4 8 ≤ operated.bnm.rxLast := by
  decide +kernel

/-- The link is up and the negotiation is complete. -/
def negotiated : State := { dev [(R.pxLink, 1)] with bnm := { Bnm.reset with spdm := ⟨true, true, true, []⟩ } }

theorem witness_ResponderAnswers : negotiated.rst.hold = none ∧ negotiated.rbit R.pxLink 0 = true ∧ negotiated.bnm.halted = false ∧
    negotiated.bnm.spdm = ⟨true, true, true, []⟩ ∧ (dev [(R.pxLink, 1)]).bnm.spdm = ⟨false, false, false, []⟩ := by decide

/-! ### The host and the network ports -/

/-- A load of a word into G1 by base G2 whose request has left the device with tag 7. -/
def away : RLoad := ⟨4, 7, .w, 2, 0x40, 0, ((mem0 id).chan 0).snap, none⟩

/-- Bank 0 belongs to the host; channel 0 maps DRAM and has that load outstanding. -/
def hosted (kenrid : Bool) : State :=
  let s := at0 (ram ++ [(R.cbOwner 0, 0x11), (R.pxLink, 1), (R.klStat 0, 9)])
    (mapped fun ch => { ch with remotes := [away], loads := [⟨4, [.g 1 0], [], true⟩] })
  { s with ifc := { s.ifc with remote := [⟨7, 0, kenrid, 0x40⟩], cfgMode := 2 } }

theorem witness_HostAccesses :
    ((hosted false).rst.hold = none ∧ (hosted false).rbit R.pxLink 0 = true ∧ inBlock 0xF00000 = true ∧ barHidden 0xF00000 = true ∧
      inBlock 0x1FFFFC = false ∧ inBlock R.cbcPolicy = true ∧ barHidden R.cbcPolicy = false) ∧
    ((hosted false).bankWaits 0 = false ∧ (hosted false).rfld (R.cbOwner 0) 4 0 = 0x11 ∧ (hosted false).anyPoison 0x800000000000 4 = false ∧
      (hosted false).rfld (R.cbOwner 1) 4 0 ≠ 0x11) ∧
    ((hosted false).ifc.remote = [⟨away.tag, 0, false, 0x40⟩] ∧ ((hosted false).chan 0).remotes = [away] ∧
      ((hosted false).chan 0).loads = [⟨away.id, [.g 1 0], [], true⟩] ∧ ((hosted false).chan 0).heldX = none ∧
      ((hosted false).chan 0).req = none ∧
      (let u := { hosted false with ifc := { (hosted false).ifc with remote := [] } }
       (tryExc ((assertEvent u 396).modChan 0 fun ch => ch.rewind away) 0 (dataExc 2 6 0x40) 0).isSome = true ∧
       (tryExc ((assertEvent u 397).modChan 0 fun ch => ch.rewind away) 0 (dataExc 2 7 0x40) 0).isSome = true)) ∧
    ((hosted false).ifc.cfgMode ≠ 0 ∧ (hosted false).rbit R.bnmLcs 4 = false ∧ (dev []).rbit R.pxLink 0 = false ∧
      ({ dev [] with ifc := { Ifc.reset with cfgMode := 1 } } : State).ifc.cfgMode = 1) := by decide +kernel

/-- Wherever the capabilities stand, Device Control has a word of its own, and a BAR is none of them. -/
theorem witness_HostAccesses_config :
    (∃ k : BitVec 12, k.toNat / 4 * 4 = Config.pcieCap + 8) ∧
    ((0x10 : BitVec 12).toNat / 4 * 4 = 0x10 ∧ Config.msixCap ≠ 0x10 ∧ Config.aerCap + 4 ≠ 0x10 ∧
      Config.pcieCap + 8 ≠ 0x10 ∧ Config.pcieCap + 0x28 ≠ 0x10) ∧
    2 < wfld (0x60 : Word) 7 5 ∧ bit (0x60 : Word) 15 = false := by
  have e : Config.pcieCap < 0x90 ∧ 0x48 ≤ Config.pcieCap ∧ Config.pcieCap % 4 = 0 := by
    unfold Config.pcieCap Config.pmCap; omega
  refine ⟨⟨BitVec.ofNat 12 (Config.pcieCap + 8), ?_⟩, ⟨by decide, ?_, ?_, by omega, by omega⟩, by decide, by decide⟩
  · rw [BitVec.toNat_ofNat]; omega
  · unfold Config.msixCap; omega
  · unfold Config.aerCap Config.extCap; split <;> omega

/-- Port 0 is up; rule 0 sends untagged frames of Ethertype 88B5h to ring 0 of bank 0, which the port owns. -/
def ported (full : Nat) : State :=
  let s := dev [(R.nxCfg 0, 0x11), (R.nxRuleMatch 0 0, 0x10000), (R.nxRuleKey 0 0, 0x88B5), (R.nxRuleConc 0 0, 0xFFFF0000),
    (R.nxRingCfg 0 0, 0x11000 + 3 * 32), (R.cbOwner 0, 3), (R.nxRingThr 0 0, 1)]
  { s with ifc := { s.ifc with nx := s.ifc.nx.set 0 { s.ifc.nx[(0 : Fin 4)] with up := true, full := #v[full, 0, 0, 0], tx := [⟨[1], false⟩] } } }

/-- A sensor frame of one sample. -/
def sensorFrame : EthFrame :=
  ⟨64, true, false, false, 0, 0x88B5, none, [0x53, 0x51, 1, 0, 0, 0, 0, 0, 0, 0, 0, 0, 0, 0, 1, 0] ++ List.replicate 30 0⟩

theorem witness_NetworkPorts :
    (((ported 0).ifc.nx[(0 : Fin 4)]).up = true ∧ (ported 0).sx.all = false ∧ frameBad sensorFrame = false ∧
      isManagement (ported 0) 0 sensorFrame = false ∧ ruleMatches (ported 0) 0 sensorFrame 0 = true ∧
      (ported 0).rfld (R.nxRuleMatch 0 0) 15 14 % 4 = 0 ∧ (ported 0).bankWaits 0 = false ∧ headerOk sensorFrame.payload = true ∧
      bit ((ported 0).reg (R.nxRingCfg 0 0)) 16 = true ∧ 16 + frameLen sensorFrame.payload ≤ (ported 0).nxSlotBytes 0 0 ∧
      (ported 0).nxFull 0 0 = false ∧ (ported 1).nxFull 0 0 = true ∧
      (ported 0).rfld (R.cbOwner 0) 4 0 = wfld ((ported 0).reg (R.nxRingCfg 0 0)) 8 5 ∧ seqGap (ported 0) 0 0 0 = false) ∧
    (frameBad { sensorFrame with checkOk := false } = true ∧ ({ sensorFrame with pause := true } : EthFrame).pause = true ∧
      (∀ r, ruleMatches (dev []) 0 sensorFrame r = false) ∧ headerOk [] = false ∧
      isManagement (dev [(R.nxCfg 0, 0x20)]) 0 { sensorFrame with ethertype := 0x88B6 } = true) ∧
    (((ported 1).ifc.nx[(0 : Fin 4)]).full[(0 : Fin 4)] ≠ 0 ∧ 1 ≤ (1 + (ported 1).nxSlots 0 0 - (ported 1).rfld (R.nxRingRidx 0 0) 10 0) % (ported 1).nxSlots 0 0) ∧
    ((1 : Word).toNat < (ported 1).nxSlots 0 0 ∧ nxRingFits 0x11000 = true ∧ (dev []).rbit (R.nxRingCfg 0 0) 16 = false ∧
      (∀ q : Fin 4, q ≠ 0 → (ported 0).rbit (R.nxCfg q) 4 = false) ∧ ((ported 0).ifc.nx[(0 : Fin 4)]).tx = [⟨[1], false⟩]) ∧
    (((dev [(R.nxCfg 0, 1)]).ifc.nx[(0 : Fin 4)]).up = false ∧ 4 ≤ (dev []).rst.stage ∧ (dev [(R.nxCfg 0, 1)]).rfld (R.nxCfg 0) 1 0 = 1) := by
  decide +kernel

/-- The taken frame lies in its slot, its WIDX advance still to come (R416, R417). -/
theorem test_frame : ((after (.frameReceive 0 sensorFrame) (ported 0)).ifc.nx[(0 : Fin 4)]).full[(0 : Fin 4)] = 1 := by decide +kernel

/-! ### Time, pins, trips, SMB1 -/

/-- Alarm 1 is armed for 1000 ns; timer 2 runs with PER; the gPTP port is 0. -/
def timed : State :=
  { ported 0 with regs := [(R.chrArm, 2), (R.chrAlmL 1, 1000), (R.tmrCfg 2, 3), (R.nxCfg 0, 0x10), (R.kpCfg 0, 0x10001), (R.evcfg 416, 0x100)] }

theorem witness_TimeAndTimers : gptpPort timed = some 0 ∧ (timed.ifc.nx[(0 : Fin 4)]).up = true ∧ timed.follows = false ∧
    (∀ k, k < 4 → (ported 0).rbit R.chrArm k = false) ∧ gptpPort (ported 0) = some 0 ∧
    (timed.rbit R.chrArm 1 = true ∧ timed.time.toNat ≤ timed.almTime 1 ∧ (∀ j : Fin 4, j ≠ 1 → timed.rbit R.chrArm j.val = false)) ∧
    (∀ k : Fin 4, timed.rbit R.chrArm k.val = true → timed.time.toNat < timed.almTime k.val) ∧
    (timed.rbit (R.tmrCfg 2) 0 = true ∧ (timed.chan 2).st ≠ .halted ∧ timed.rbit (R.tmrCfg 2) 1 = true ∧
      (dev [(R.tmrCfg 2, 1)]).rbit (R.tmrCfg 2) 1 = false) := by decide +kernel

/-- A timer without PER stops at its match (R421). -/
theorem test_timer : (after (.timerCompareMatch 2) { timed with regs := [(R.tmrCfg 2, 1), (R.tmrCnt 2, 8), (R.tmrCmp 2, 9)] }).rbit (R.tmrCfg 2) 0 = false := by
  decide +kernel

theorem witness_CapturesAndPins : (timed.rbit (R.kpCfg 0) 0 = true ∧ timed.rbit (R.kpCfg 0) 1 = false ∧ timed.kpHeldOff 0 = false ∧
      timed.ifc.kpFifo[(0 : Fin 16)] = [] ∧ timed.rbit (R.evcfg (416 + 0)) 8 = true ∧ timed.rbit (R.evcfg (416 + 0)) 9 = false) ∧
    (after (.phaseReferenceCapture 0 false) timed).kpHeldOff 0 = true ∧
    (after (.phaseReferenceCapture 0 false) timed).ifc.kpFifo[(0 : Fin 16)] = [0] ∧
    (timed.rst.hold = none ∧ bit timed.ifc.gpio 3 = false ∧ timed.rbit R.gpioDir 3 = false) := by decide +kernel

theorem witness_TripsAndHeartbeat : debugOk (dev []) .bnm ∧ asBnm .bnm = true ∧ (1 : Word) &&& 0xFF ≠ (dev []).reg R.tripMask ∧
    (dev []).rst.hold = none ∧ 4 ≤ (dev []).rst.stage ∧
    (dev [(R.tripHbcfg, 100)]).rbit R.tripHbcfg 16 = false ∧ (dev [(R.tripHbcfg, 100)]).rfld R.tripHbcfg 15 0 ≠ 0 :=
  ⟨(fun h => by cases h), by decide, by decide, rfl, by decide, by decide, by decide⟩

theorem witness_BoardBusAnswers : (dev []).rst.hold = none ∧ 4 ≤ (dev []).rst.stage := by decide

/-! ### Kenrid Link and the cascade -/

/-- A signal for device 1. -/
def pulse : Flit := ⟨1, .signal false 0, 0⟩

/-- Port 0 is up and operational with the flits `fl` unacknowledged; the device is the lodestar or device 2; routes 0 and 1
lead to port 0. -/
def linked (fl : List SentFlit) (lode : Bool) (l : List (Nat × Word)) : State :=
  let s := ramUp ([(R.klStat 0, 0x19)] ++ l)
  { s with ifc := { s.ifc with
    kl := s.ifc.kl.set 0 ⟨fl, [], 12, 0, false, 5⟩
    casc := ⟨lode, if lode then 0 else 2, 3, ((Vector.replicate 8 none).set 0 (some 0)).set 1 (some 0), (Vector.replicate 4 []).set 0 [1]⟩ } }

theorem witness_KenridLinkAndCascade :
    (let s := linked [⟨10, 0, pulse, 0⟩, ⟨11, 0, pulse, 0⟩] true []
     s.rbit (R.klStat 0) 0 = true ∧ s.ifc.kl[(0 : KlPort)].sent[0]? = some ⟨10, 0, pulse, 0⟩ ∧ s.ifc.kl[(0 : KlPort)].sent ≠ [] ∧
       (∀ f ∈ s.ifc.kl[(0 : KlPort)].sent, f.tries < 7) ∧ (∀ n : Fin 4, (s.cmds.rings[n]).fwd = none)) ∧
    (∀ j < 2, ([⟨10, 0, pulse, 0⟩, ⟨11, 0, pulse, 0⟩] : List SentFlit)[j]?.map (·.seq) = some ((10 : BitVec 12) + BitVec.ofNat 12 j)) ∧
    (∃ f ∈ (linked [⟨10, 7, pulse, 0⟩] true []).ifc.kl[(0 : KlPort)].sent, 7 ≤ f.tries) ∧
    ((dev [(R.klCfg 0, 1)]).rbit (R.klStat 0) 0 = false ∧ (dev [(R.klCfg 0, 1)]).rst.hold = none ∧ 4 ≤ (dev []).rst.stage ∧
      (dev [(R.klCfg 0, 1)]).rbit (R.klCfg 0) 0 = true) ∧
    ((linked [] true []).ifc.casc.lodestar = true ∧ (3 : Fin 8).val ≤ (linked [] true []).ifc.casc.devices ∧
      ((linked [] true []).ifc.casc.grown 0 3).permitted = true ∧
      (let c := (linked [] true []).ifc.casc
       ({ c with branch := #v[[1, 2], [3], [], []] }.grown 2 4).permitted = false ∧
       ({ c with branch := #v[[1, 2], [2, 1], [], []] }).best 2 = some 1)) ∧
    ((dev [(R.klStat 0, 1)]).ifc.casc.lodestar = false ∧ (dev [(R.klStat 0, 1)]).ifc.casc.index = 0) ∧
    ((linked [] true [(R.klStat 1, 9)]).rbit (R.klStat 1) 3 = true ∧ ((linked [] true []).ifc.casc.routes[(1 : Fin 8)]).isSome = true ∧
      (linked [] true []).ifc.casc.routes[(1 : Fin 8)] ≠ some 1 ∧
      (∀ r : Fin 4, r ≠ 3 → (2 : Fin 8) ∉ (linked [] true []).ifc.casc.branch[r])) := by decide +kernel

/-- Ring 0 has sent a packet to another device. -/
def forwarding : State :=
  { ramUp [(R.klStat 0, 9)] with cmds := { Cmds.reset with rings := .ofFn fun n => if n = 0 then { RingSt.reset with fwd := some (packet 0x0205 0 0 []) } else .reset } }

theorem witness_KenridTraffic :
    (let s := linked [] false []
     s.rbit (R.klStat 0) 0 = true ∧ s.rbit (R.klStat 0) 3 = true ∧ s.target 0x40 = .dram ∧ s.rfld (R.klCfg 0) 7 4 = 0 ∧
       s.inited 0x40 = true ∧ s.keyWritable 0x40 = true ∧ s.writable 0x40 = true ∧ s.poison.contains 1 = false ∧
       s.ifc.casc.lodestar = false ∧ s.packetsOk = true ∧ s.bnm.halted = false ∧ (s.cmds.fwd[(0 : Fin 4)]) = none ∧
       objBusy s (.forwarded 0) (parsePacket memStatusPacket).objs = false ∧ s.kenridRoute 0 = some 0 ∧
       (s.ifc.kl[(0 : KlPort)]).sent.length < 64 ∧ s.follows = true) ∧
    (0x80 ≤ (linked [] false [(R.kcKtbase, 1)]).keyByte 0x40) ∧
    ((hosted true).ifc.remote = [⟨away.tag, 0, true, 0x40⟩] ∧ ((hosted true).chan 0).remotes = [away] ∧
      ((hosted true).chan 0).loads = [⟨away.id, [.g 1 0], [], true⟩] ∧ ((hosted true).chan 0).heldX = none ∧
      ((hosted true).chan 0).req = none ∧
      (let u := { hosted true with ifc := { (hosted true).ifc with remote := [] } }
       (tryExc (u.modChan 0 fun ch => ch.rewind away) 0 (dataExc 2 6 0x40) 0).isSome = true) ∧
      (hosted true).rbit (R.klStat 0) 0 = true ∧ (hosted true).rbit (R.klStat 0) 3 = true) ∧
    ((forwarding.cmds.rings[(0 : Fin 4)]).fwd = some (packet 0x0205 0 0 []) ∧ ((List.replicate 16 (2 : Byte)).getD 14 0).getLsbD 1 = true) ∧
    ((linked [] true []).ifc.casc.lodestar = true ∧ ((linked [] true []).kenridRoute 1).isSome = true) ∧
    (linked [] false [(R.chrStat, 4)]).rbit R.chrStat 2 = true := by decide +kernel

/-! ### The Logbook and the Sextant -/

/-- A record, and a Logbook with that record waiting and `recs` written. -/
def logRec (code : Nat) : LogRec := ⟨0, 5, code, 100, 0x210, 0, []⟩
def logging (l : List (Nat × Word)) (recs : List LogRec) : State :=
  let s := dev l
  { s with log := { s.log with waiting := [logRec 1], recs := recs, hold := [], seq := 4, lastOcc := 50 } }

theorem witness_LogbookSteps :
    (let s := logging [] [logRec 2]
     s.reg R.lbFrzMask = 0 ∧ s.rbit R.lbStat 15 = false ∧ s.log.recs.length < 16383 ∧ s.log.seq + 1 < 0xFFFFFFFFFFFE ∧
       mergeable (logRec 2) s.log.lastOcc (logRec 1) = false) ∧
    (mergeable (logRec 1) (logging [] [logRec 1]).log.lastOcc (logRec 1) = true ∧ (logRec 1).rep < 0xFFFF) ∧
    ((logging [(R.lbFrzMask, 1)] []).reg R.lbFrzMask ≠ 0 ∧ (logging [(R.lbFrzMask, 1)] []).log.hold = [] ∧
      (logging [(R.lbFrzMask, 1)] []).log.recs = []) ∧
    (0x7C1E : Word).extractLsb' 0 16 = 0x7C1E ∧ (logging [] []).log.seq + 1 < 0xFFFFFFFFFFFE := by decide +kernel

/-- The recorder writes the waiting record with the next number. -/
theorem test_record : (after .logbookRecordWrite (logging [] [logRec 2])).log.recs = [{ logRec 1 with seq := 5 }, logRec 2] := by decide +kernel

theorem witness_TapInstructions : (dev []).rbit R.bnmLcs 8 = false ∧ (dev [(R.bnmLcs, 0x100)]).rbit R.bnmLcs 8 = true ∧
    (let a : BitVec 64 := BitVec.ofNat 64 (2 ^ 60 + R.cbcPolicy / 4 * 2 ^ 34)
     inBlock ((a.extractLsb' 34 26).toNat * 4) = true ∧ a.getLsbD 60 = true ∧ (a.extractLsb' 34 26).toNat * 4 ≠ R.sxFeedCtl ∧
       (a.extractLsb' 34 26).toNat * 4 < 0x1100000) := by decide +kernel

/-- Debugging is enabled; channel 0 is asked to halt. -/
def halting (f : Channel → Channel) : State := at0 [(R.bnmLcs, 0x300), (R.sxHaltReq, 1)] f

theorem witness_HaltsAndReleases : (asBnm .bnm = true ∧ debugOk (halting id) .bnm) ∧
    (((halting id).chan 0).st = .running ∧ (halting id).rbit R.sxHaltReq 16 = false ∧
      (∀ src r, (halting id).running src = some r → ∀ k, r.waits ≠ some (.halts k)) ∧ (halting id).rbit R.sxHaltReq 0 = true) ∧
    (((halting id).chan 0).wait = .none ∧ ((halting id).chan 0).slots = [] ∧ ((halting id).chan 0).group = none ∧
      ((halting id).chan 0).window = none ∧ ((halting id).chan 0).heldX = none ∧ ((halting id).chan 0).impr = [] ∧
      ((halting id).chan 0).req = none) ∧
    (halting id).rbit R.sxHaltReq 1 = false ∧ (dev [(R.sxHaltReq, 0x20000)]).rbit R.sxHaltReq 17 = true ∧
    (((halting fun ch => { ch with st := .halted }).chan 0).st = .halted ∧ ((halting id).chan 0).drains = []) :=
  ⟨⟨rfl, fun h => by cases h⟩, ⟨rfl, by decide, (fun src r h => (by
    have : (halting id).running src = (dev []).running src := by cases src <;> rfl
    rw [this, no_command] at h; cases h)), by decide⟩,
   ⟨rfl, rfl, rfl, rfl, rfl, rfl, rfl⟩, by decide, by decide, ⟨rfl, rfl⟩⟩

/-- A halted channel 0, DRAM, the word that feeds MOV G3, G4, and SX_MDATA at 40h with the override. -/
def fed (l : List (Nat × Word)) : State :=
  at0 (ram ++ [(R.bnmLcs, 0x300), (R.sxMaddrL, 0x40), (R.sxMctl, 0x10), (R.sxFeed 0, 0x3440)] ++ l) fun ch => { ch with st := .halted }

theorem witness_WindowAndTerminals :
    ((fed []).rbit R.bnmLcs 8 = true ∧ (fed []).sxAddr = 0x40 ∧ (fed []).target 0x40 = .dram ∧ (fed []).rfld R.sxMctl 3 0 = 0 ∧
      (fed []).rbit R.bnmLcs 9 = true ∧ (fed []).inited 0x40 = true ∧ (fed []).keyWritable 0x40 = true ∧
      (fed []).anyPoison 0x40 4 = false ∧ (fed []).rbit R.sxMctl 4 = true) ∧
    (bit (0x10 : Word) 4 = true ∧ feedChan 0x10 = 0 ∧ ((fed []).chan (feedChan 0x11)).st ≠ .halted) ∧
    (((fed []).chan 0).st = .halted ∧ ((fed []).chan 0).wait = .none ∧ ((fed []).chan 0).loads = [] ∧ ((fed []).chan 0).stq = [] ∧
      ((fed []).chan 0).req = none ∧
      (fed []).reg (R.sxFeed 0) &&& 0xFFFF = BitVec.ofNat 32 (0x40 + 256 * (16 * (3 : Reg).val + (4 : Reg).val))) ∧
    ((fed []).rbit R.sxTstat 0 = false ∧ (fed [(R.sxTstat, 1)]).rbit R.sxTstat 0 = true ∧ (fed []).rbit R.sxTstat 16 = false) := by
  decide +kernel

/-! ### Resets and the start -/

/-- Reset is held, or every request of a reset is due. -/
def resetting : State :=
  let s := dev [(R.wdgCfg, 0x103E8), (R.evcLockStat, 1)]
  { s with
    rst := { s.rst with cwdgGo := true, lockup := some 5, stage := 5, req := some ⟨.system, 8, 0, false⟩ }
    cmds := { s.cmds with asked := some true } }

theorem witness_ResetRequests : resetting.rst.hold = none ∧ (resetting.rst.stage < 8 ∧ resetting.rbit R.bnmLcs 4 = false) ∧
    (resetting.rbit R.wdgCfg 16 = true ∧ resetting.rst.cwdgGo = true ∧ ∀ c, (resetting.chan c).st ≠ .halted) ∧
    (resetting.rst.lockup.isSome = true ∧ resetting.reg R.evcLockStat ≠ 0) ∧ resetting.cmds.asked = some true ∧
    State.reset.rst.hold.isSome = true ∧ (dev []).rbit R.wdgCfg 16 = false := by decide +kernel

theorem witness_ResetsAreApplied : resetting.rst.req = some ⟨.system, 8, 0, false⟩ ∧ resetting.rst.load = true ∧
    (∀ c, (resetting.chan c).st = .stopped ∧ (resetting.chan c).slots = [] ∧ (resetting.chan c).group = none ∧
      (resetting.chan c).heldX = none ∧ (resetting.chan c).wait = .none ∧ (resetting.chan c).loads = []) ∧
    resetting.wiping = [] ∧ resetting.handover = [] ∧
    ({ resetting with rst := { resetting.rst with req := some ⟨.core, 0x200, 0, false⟩, load := false } } : State).rst.req =
      some ⟨.core, 0x200, 0, false⟩ := by decide +kernel

/-- Memory outlives a system reset, and does not outlive a power-on reset. -/
theorem test_reset_memory : (after .systemReset { resetting with mem := [(0x40, 1)] }).byte 0x40 = 1 ∧
    (after (.powerOnReset false) { resetting with mem := [(0x40, 1)] }).byte 0x40 = 0 := by decide +kernel

theorem witness_StartSteps : State.reset.rst.hold.isSome = true ∧ State.reset.rst.therm = false ∧ State.reset.rfld R.rstStat 3 2 < 3 ∧
    State.reset.bnm.freshFw = false ∧ State.reset.bnm.freshP = false ∧
    pickSlot { State.reset with nor := { Nor.factory with desc0 := { BootDesc.factory with fwOk := (false, false) } } } false = none ∧
    (pickSlot State.reset false).isSome = true ∧
    ({ State.reset with regs := [(R.rstStat, 12)] } : State).rfld R.rstStat 3 2 = 3 ∧
    (dev []).rst.hold = none ∧ resetting.rst.stage = 5 := by decide +kernel

/-! ### Clauses that the tests above do not meet -/

/-- D2 is a record of words for the carries of SCAN D1, D1, which is in place, dispatched and with both elements complete:
its one strip is its last and ends within a block. -/
def scan3 : State := after (.elementComplete 0 1 1) (after (.elementComplete 0 1 0) (after (.streamDispatchStart 0 1)
  (after (.scan 0 .none ⟨false, 1, 1, 15, 2, 0⟩) (mem0 fun ch => { vector ch with d := (vector ch).d.set 2 (0x3000 + 5 * 2 ^ 64) }))))

theorem witness_PipesTakeStrips_late : scan3.pipes[(0 : Fin 32)].work = some (0, 1, 0) ∧
    (scan3.chan 0).slots.find? (·.sid == 1) = some (head scan3) ∧ (head scan3).commitsLate = true ∧ (head scan3).reduces = false ∧
    (head scan3).isUnit = false ∧ 0 ≤ (head scan3).wm ∧ min (head scan3).count (head scan3).strip = (head scan3).count ∧
    (head scan3).last ≠ none ∧ (∀ j, j < 2 → (head scan3).complete j = true) := by decide +kernel

/-- A head with two complete elements, this destination, and ADD or RSUM as its one member. -/
def complete (op : SOp) (d : Opnd) (wm : Nat) : Slot :=
  { noSlot with
    sid := 1, count := 2, wm := wm, started := true, next := 1, carry := noCarry, vec := true
    members := [{ lane op .I with d := d }]
    elems := [(0, ⟨3, 0, false⟩), (1, ⟨4, 0, false⟩)] }
def retiring (sl : Slot) : State := at0 [] fun ch => { ch with slots := [sl] }

/-- Whether the last fold of a reduction is done and leaves a result. -/
def folds (sl : Slot) : Bool :=
  match sl.last with
  | some m => (match sl.foldLast m with
    | .done u => (u.result m).isSome
    | _ => false)
  | none => false

theorem witness_RetirementAndDrains_results :
    (∀ sl ∈ [complete (.addSub false) (.vreg 3) 2, complete (.addSub false) (.mreg 2) 2, complete .rsum (.vreg 3) 0],
      ((retiring sl).chan 0).slots = [sl] ∧ sl.finished = true ∧ sl.mustRead = false ∧ sl.fault = none ∧
      (retiring sl).working 0 sl.sid = false ∧ ((retiring sl).chan 0).heldX = none ∧ ((retiring sl).chan 0).req = none ∧
      ((retiring sl).chan 0).mute = false ∧ (sl.elems.map (·.1)).Nodup) ∧
    (complete (.addSub false) (.vreg 3) 2).reduces = false ∧ (complete (.addSub false) (.vreg 3) 2).scans = false ∧
    (complete .rsum (.vreg 3) 0).scans = false ∧ (complete .rsum (.vreg 3) 0).record = none ∧
    folds (complete .rsum (.vreg 3) 0) = true := by decide +kernel

/-- A sum of elements 3 and 4 retires with 7 in entry 0 of its V register. -/
theorem test_sum_retires : vword ((after (.streamRetire 0) (retiring (complete .rsum (.vreg 3) 0))).chan 0).v[(3 : Fin 16)] 0 = 7 := by
  decide +kernel

/-- RSUM with a record, its strip complete. -/
def sum4 : State := after (.stripComplete 0) sum3

theorem witness_RetirementAndDrains_record :
    (sum4.chan 0).slots = [head sum4] ∧ (head sum4).finished = true ∧ (head sum4).mustRead = false ∧ (head sum4).fault = none ∧
    sum4.working 0 (head sum4).sid = false ∧ (head sum4).scans = false ∧ folds (head sum4) = true ∧ (head sum4).commitsLate = false ∧
    (head sum4).record.isSome = true ∧ (sum4.chan 0).heldX = none ∧ (sum4.chan 0).req = none ∧
    ((head sum4).record.any fun x => (head sum4).last.any fun m => (match (head sum4).foldLast m with
      | .done u => (let (bs, s2) := carryBytes sum4 u
        let (w, s3) := writeRecord s2 0 u m x.2.1 0 (leBytes 8 0 ++ bs)
        w == .ok && decide ((s3.chan 0).slots = [head sum4]))
      | _ => false)) = true := by decide +kernel

/-- A drain that an exception has begun: its frame lies at 1E0h. -/
def framed (dz : Bool) : State := add2.modChan 0 fun ch => { ch with slots := [], drains := [⟨1, [{ head add2 with dz := dz }], .frame 0x1E0 0⟩] }

/-- The final WM can be written into the frame at 1E0h, and its CSW word read and written. -/
def frameTaken (s : State) : Bool :=
  match (s.chan 0).drains[0]? with
  | none => false
  | some dr =>
    let s1 := freePipes (s.modChan 0 fun ch => { ch with drains := [] }) 0 dr
    let (x, s2) := frameWrite s1 0 0 0x1E8 0
    x == .ok && (match readEff s2 0 (supervisorHow 0 .rd false) 0x1E4 4 with
      | (.ok _, s3) => (frameWrite s3 0 0 0x1E4 0x40).1 == .ok
      | _ => false)

theorem witness_RetirementAndDrains_frame : ((framed false).chan 0).drains = [⟨1, [{ head add2 with dz := false }], .frame 0x1E0 0⟩] ∧
    ((framed true).chan 0).drains = [⟨1, [{ head add2 with dz := true }], .frame 0x1E0 0⟩] ∧
    frameTaken (framed false) = true ∧ frameTaken (framed true) = true ∧ ((framed true).chan 0).st ≠ .lockedUp ∧
    ((framed true).chan 0).mute = false ∧ (head add2).r91 = false := by decide +kernel

/-- A channel in user mode. -/
def user : State := at0 [] fun ch => { ch with csw := 0 }

theorem witness_ReturnFromHandler_lockup :
    (0 : Chan) ≠ bnmCore ∧ ((mem0 odd).chan 0).req = none ∧
    Ready (mem0 odd) (mem0 odd) 0 { p := .none, len := 1, priv := true, alone := true, reads := [15] } ∧
    ((decoded (mem0 odd) 0 false).chan 0).frameDrains = false ∧ (((decoded (mem0 odd) 0 false).chan 0).rg 15).toNat % 8 ≠ 0 ∧
    ((decoded (mem0 odd) 0 false).chan 0).req = none :=
  ⟨by decide, rfl, ⟨by decide, rfl, rfl, rfl, by decide, by decide, by decide, .inl (by decide), by decide⟩, by decide, by decide, rfl⟩

/-- A return through a misaligned frame locks the channel up with cause 1h and G15 (R268, R275). -/
theorem test_lockup : ((after (.rete 0 .none) (mem0 odd)).chan 0).st = .lockedUp ∧
    (after (.rete 0 .none) (mem0 odd)).reg (R.evcLockCause 0) = 1 ∧ (after (.rete 0 .none) (mem0 odd)).reg (R.evcLockAddr 0) = 0x201 := by
  decide +kernel

theorem witness_TrapsTakeTheirVectors_refused : (user.chan 0).decodes = true ∧ (user.chan 0).impr = [] ∧ (user.chan 0).group = none ∧
    (user.chan 0).sup = false ∧ fetch user 0 1 = (.ok, user) ∧ fetch user 0 2 = (.ok, user) ∧ fetch user 0 4 = (.ok, user) ∧
    (0x14 : Byte) ∈ [(0x02 : Byte), 0x03, 0x06, 0x07, 0x14] ∧ 0x18 ≤ (0x18 : Byte).toNat :=
  ⟨by decide, rfl, rfl, by decide, rfl, rfl, rfl, by decide, by decide⟩

/-- Ring 0 runs a command whose final status waits; two status entries stand before it, and the ring may be halted. -/
def owing (halted : Bool) : State :=
  { ramUp [(R.ringCfg 0, 0x10202), (R.ringStail 0, 0x10002), (R.ringStat 0, if halted then 2 else 0)] with
    cmds := { Cmds.reset with rings := .ofFn fun n =>
      if n = 0 then { RingSt.reset with run := some ⟨packet 0x0205 0 0 [], false, none, some ⟨0, 0, 0⟩⟩ } else .reset } }

theorem witness_DoorbellsAndRings_final : ∀ h : Bool,
    (owing h).rbit (R.ringCfg 0) 16 = true ∧ (1 : Nat) ≠ ((owing h).cmds.rings[(0 : Fin 4)]).head ∧ 1 < (owing h).sSize 0 ∧
    ¬ (((owing h).rfld (R.ringStail 0) 15 0 + (owing h).sSize 0 - ((owing h).cmds.rings[(0 : Fin 4)]).head) % (owing h).sSize 0 <
      (1 + (owing h).sSize 0 - ((owing h).cmds.rings[(0 : Fin 4)]).head) % (owing h).sSize 0) ∧
    ((owing h).rfld (R.ringStail 0) 15 0 + 1) % (owing h).sSize 0 ≠ 1 ∧ (owing h).rbit R.pxLink 0 = true ∧
    (owing h).rbit (R.evcfg 496) 9 = false ∧ (owing h).rbit (R.ringStat 0) 1 = h := by decide +kernel

/-- The waiting status of a halted ring is written once SHEAD moves (R349, R367). -/
theorem test_final : ((after (.dbSheadWrite 0 1) (owing true)).cmds.rings[(0 : Fin 4)]).run.isNone = true ∧
    (after (.dbSheadWrite 0 1) (owing true)).rbit (R.ringStat 0) 0 = false := by decide +kernel

theorem witness_CrossBearing_expiry : (proposed .ring0).bnm.prop.any (fun x => (proposed .ring0).time.toNat < x.time + 2000000000) = true ∧
    (let s := { proposed .ring0 with time := 2000000000 }
     s.bnm.prop.any (fun x => x.time + 2000000000 ≤ s.time.toNat) = true) := by decide +kernel

/-! ### The Ledger Engine's boundaries -/

/-- LPIN at work with its slot. -/
def pin2 : State := after (.ledgerEngineGrant 0) (after (.lpin 0 .none) ledgerMem)
/-- A unit that stores nothing and writes G3. -/
def regUnit : LUnit := ⟨[], [(3, 5)], some 2⟩
/-- PADD at work on a context of two units. -/
def twoUnits : State := { padd1 with lge := { ledgerMem.lge with
  cur := some 0, using_ := some 0, work := some { lastUnit with units := [regUnit, oneUnit] } } }
/-- PADD resumes: with its context in slot 0, with one of another opcode there, and with none. -/
def resuming (x : Option LCtx) : State :=
  let s := ledgerMem.modChan 0 fun ch => { ch with csw := wbit ch.csw 18 true }
  let s := after (.padd 0 .none 2 4 0 0) s
  { s with lge := { s.lge with
      slots := s.lge.slots.set 0 { s.lge.slots[(0 : Fin 4)] with ctx := x, owner := 0 }
      loc := s.lge.loc.set 0 (if x.isSome then .inSlot 0 else .none) } }

theorem witness_LedgerEngineSteps_boundaries :
    ((pin2.lworking 0).map (·.ins.opc) = some 0x20 ∧ pin2.lge.using_.isSome = true ∧ (pin2.chan 0).req = none ∧ (pin2.chan 0).lpst = 0) ∧
    ((twoUnits.lworking 0).map (·.ins.opc) = some 0 ∧ slotClass 0 = true ∧ (twoUnits.lge.work.map (·.units.length)) = some 2 ∧
      twoUnits.lge.using_.isSome = true ∧
      (∀ r, (commitUnit twoUnits 0 r regUnit).1 = .ok ∧ ((commitUnit twoUnits 0 r regUnit).2.chan 0).req = none ∧
        (commitUnit twoUnits 0 r regUnit).2.lge = twoUnits.lge)) ∧
    (∀ x ∈ [some lastUnit, some { lastUnit with opc := 1 }, none],
      ((resuming x).lrun 0).map (·.resume) = some true ∧ ((resuming x).lrun 0).map (·.ins.opc) = some 0 ∧ (resuming x).lge.cur = none ∧
      (resuming x).lge.spill = none ∧ (resuming x).lge.load = none ∧ ledgerTurn (resuming x) = some 0 ∧
      (resuming x).lge.pinOf 0 = none ∧ (resuming x).lge.ctxOf 0 = x) :=
  ⟨by decide +kernel, ⟨by decide +kernel, by decide, by decide +kernel, by decide +kernel, fun _ => ⟨rfl, rfl, rfl⟩⟩, by decide +kernel⟩

/-- The premises on one result: −12 fits one byte of digits and a sign with a digit more. -/
theorem witness_DecimalArithmetic_other :
    ((0x5A : Byte).toInt = (90 : Nat) ∧ (-12 : Int).natAbs < 10 ^ (2 * 2 - 1) ∧ 10 ^ (2 * 1 - 1) ≤ (-12 : Int).natAbs) ∧
    ((0x02 : Byte).toNat / 64 < 2 ∧ packedCause [0x01, 0x2D] = none ∧ (packedVal [0x01, 0x2D]).natAbs < 10 ^ ((0x02 : Byte).toNat % 64 + 1)) ∧
    (editUnits ⟨0x19, 2, 4, 6, 0, 0, 0, false, 5⟩ 2 (some 7) 0x1000 0x1000 [[]]).getLast?.isSome = true := by decide +kernel

/-- A string instruction at work on two bytes at 1000h against two bytes or a table at 2000h. -/
def stringAt (i : Instr) : State :=
  after (.ledgerEngineGrant 0) (after i (ledgerMem.modChan 0 fun ch => { ch with g := (ch.g.set 3 2).set 5 2 }))

def readsOk (x : LRead × State) : Bool :=
  match x.1 with
  | .ok _ => true
  | _ => false

theorem witness_DecimalArithmetic_strings :
    ([(Instr.mvl 0 .none 2 4 0x20, (0x10 : Byte)), (.cll 0 .none 2 4 0x20, 0x11), (.trl 0 .none 2 4 0, 0x12), (.trtl 0 .none 2 4 6 1, 0x13)].all
      fun (i, k) =>
        let s := stringAt i
        (s.lworking 0).any (fun r => r.ins.opc == k && readsOk (readOps s 0 r.rd [(0x1000, 2)]) && readsOk (readOps s 0 r.rd [(0x2000, 2)]) &&
          readsOk (tableBytes s 0 r.rd 0x2000 none [1, 2]) &&
          (match liveUnit s 0 r with
           | (.ok u true, t) => (commitUnit t 0 r u).1 == .ok && ((commitUnit t 0 r u).2.chan 0).req.isNone &&
               (commitUnit t 0 r u).2.lge.cur == some 0 && ((commitUnit t 0 r u).2.chan 0).lpst == 0
           | _ => false))) = true ∧
    aliased ((stringAt (.mvl 0 .none 2 4 0x20)).chan 0) 0x1000 2 0x2000 2 = false := by decide +kernel

/-- MVL pads with its byte: two bytes are moved and the registers count them (R227). -/
theorem test_mvl : ((after (.ledgerUnitBoundary 0) (stringAt (.mvl 0 .none 2 4 0x20))).chan 0).rg 3 = 0 := by decide +kernel

/-! ### Time, halts, the console and the links -/

theorem witness_HaltsAndReleases_waiting : (let s := halting fun ch => { ch with st := .waiting, pc := 0x40 }
    (s.chan 0).st = .waiting ∧ (s.chan 0).remotes = [] ∧ (s.chan 0).wait = .none ∧ (s.chan 0).slots = [] ∧ (s.chan 0).impr = [] ∧
      (s.chan 0).loads = []) ∧
    (let b := (dev [(R.sxHaltReq, 0x20000)]).chan bnmCore
     b.slots = [] ∧ b.group = none ∧ b.wait = .none ∧ b.window = none ∧ b.remotes = [] ∧ b.heldX = none ∧ b.impr = []) := by decide +kernel

/-- A waiting channel halts with the address of its WAIT. -/
theorem test_halt_waiting : ((after (.halt 0) (halting fun ch => { ch with st := .waiting, pc := 0x40 })).chan 0).pc = 0x40 ∧
    ((after (.halt 0) (halting fun ch => { ch with st := .waiting, pc := 0x40 })).chan 0).st = .halted := by decide +kernel

theorem witness_ResetsAreApplied_rings : (∀ src, (dev []).running src = none) ∧
    ({ dev [] with rst := { (dev []).rst with req := some ⟨.core, 0x200, 0, false⟩ } } : State).rst.req = some ⟨.core, 0x200, 0, false⟩ :=
  ⟨no_command [], rfl⟩

/-- A held reset with a store that need not be loaded and three failed starts. -/
def restarting (rails : List Rail) (wait : Nat) : State :=
  { State.reset with regs := [(R.rstStat, 12)], rst := { State.reset.rst with load := false, rails := rails, railWait := wait } }

theorem witness_StartSteps_release : (restarting [] 0).rst.rails = [] ∧ (restarting [] 0).rst.railWait ≤ (restarting [] 0).ticks ∧
    (restarting [] 0).rst.load = false ∧ (restarting [] 0).rfld R.rstStat 3 2 = 3 ∧ (restarting [] 0).rst.hold.isSome = true ∧
    (restarting [] 0).rst.therm = false ∧ State.reset.rfld R.rstStat 3 2 = 0 ∧
    State.reset.rst.rails = [] ∧ State.reset.rst.railWait ≤ State.reset.ticks ∧
    (restarting [.aon] 0).rst.rails ≠ [] ∧ (restarting [] 5).ticks < (restarting [] 5).rst.railWait := by decide +kernel

theorem witness_ConsoleAndSettings_spacing : (∀ t, oldSettings.bnm.lastSet = some t → t + 60000000000 ≤ oldSettings.ticks) ∧
    (∃ t, ({ oldSettings with bnm := { oldSettings.bnm with lastSet := some 0 } } : State).bnm.lastSet = some t ∧
      oldSettings.ticks < t + 60000000000) :=
  ⟨fun _ h => (by cases h), 0, rfl, by decide⟩

theorem witness_WindowAndTerminals_fed : (fed []).seals = [] ∧ (fed []).sx.pend = [] ∧ (fed []).sx.feeding = none ∧
    ((fed []).chan 0).mute = false ∧ ((fed []).chan 0).drains = [] ∧ ((fed []).chan 0).window = none ∧
    (0xFC : Nat) ∈ [0x00, 0x70, 0x80, 0x95, 0x96, 0xEF, 0xF8, 0xF9, 0xFA, 0xFC, 0xFD, 0xFE, 0xFF] := by decide

/-- Ordinary memory has no seal but the one its address gives it, and nothing waits in a bridge. -/
theorem witness_sealed : (mem0 id).seals = [] ∧ (decoded (mem0 id) 0 false).seals = [] ∧ (mem0 (queued 0x41)).seals = [] ∧
    (commanding [] fill).seals = [] ∧ (commanding [] (packet 0x0903 0 0 [0x40])).seals = [] ∧ (linked [] false []).seals = [] := by
  decide +kernel

/-- A load that has been sent, and one that stands in no bridge. -/
theorem witness_LoadsReachTheirRegisters_sent : ∀ l ∈ ([⟨3, [.g 1 7], [], false⟩, ⟨3, [.g 1 7], [2], true⟩] : List Load),
    (l.sent = true ∨ l.via = []) ∧ ((at0 [] fun ch => { ch with loads := [l] }).chan 0).loads.filter (·.id == 3) = [l] ∧
      ∀ r ∈ ((at0 [] fun ch => { ch with loads := [l] }).chan 0).remotes, r.id ≠ 3 := by decide

theorem witness_NetworkPorts_switched : (let s := ported 0
    (s.ifc.nx[(0 : Fin 4)]).up = true ∧ nxTrains (masked 0x0FFF003F (s.reg (R.nxCfg 0)) 0x11) = true ∧ wfld (0 : Word) 1 0 = 0 ∧
      wfld (3 : Word) 1 0 = 3) ∧ (dev [(R.nxCfg 0, 1)]).rfld (R.nxCfg 0) 3 2 ≤ 1 := by decide +kernel

theorem witness_PacketsStart_opcode : (parsePacket memStatusPacket).opcode ≠ 0x0105 ∧ (parsePacket memStatusPacket).opcode ≠ 0x0106 ∧
    (parsePacket memStatusPacket).opcode ≠ 0x0108 := by decide

theorem witness_ElementsAndUnits_indices : ((faulty.chan 0).mute = false ∧ (second faulty).isUnit = false ∧ (second faulty).fault = none) ∧
    (add2.chan 0).mute = false ∧ (pow2.chan 0).mute = false := by decide +kernel

theorem witness_HostAccesses_timeouts :
    timeoutDisabled (hosted false) = false ∧
    timeoutDisabled { hosted false with ifc := { (hosted false).ifc with cfg := [(Config.pcieCap + 0x28, 0x10)] } } = true ∧
    (let u := { hosted false with ifc := { (hosted false).ifc with remote := [] } }
     (tryExc ((assertEvent (aerLog u 14) 396).modChan 0 fun ch => ch.rewind away) 0 (dataExc 2 6 0x40) 0).isSome = true ∧
     (tryExc ((assertEvent (aerLog u 12) 397).modChan 0 fun ch => ch.rewind away) 0 (dataExc 2 7 0x40) 0).isSome = true) ∧
    dimmsOk (Vector.replicate 8 0x10000) = true ∧ dimmsOk (Vector.replicate 8 0) = false :=
  ⟨rfl, by simp [timeoutDisabled, look, bit], by decide +kernel, by decide, by decide⟩
end Sys2Proof.Tests.Slice0
end

section
/-! SUPPORT. The hardware loops of 02 R68 and R69: the loop-end step case by case, what LOOP and LOOPI open, and the
refusal of an illegal scalar instruction. -/
namespace Sys2Proof.Machine

/-! ### The loop-end step, level by level (R69) -/

/-- What closing level `k` leaves: its count is 0 and the level is open no more. -/
def Channel.closeLevel (ch : Channel) (k : Fin 4) : Channel := { ch with lpc := ch.lpc.set k 0, lpst := k }

section
variable {ch : Channel} {a : Word} {k : Fin 4}

theorem getD_val (v : Vector Word 4) (k : Fin 4) (w : Word) : v.getD k w = v[k] := by
  simp [Vector.getD]

theorem goTo_past (hk : ch.lpst = k + 1) (ha : a ≠ ch.lpe[k]) : ch.goTo a = { ch with pc := a } := by
  simpa [Channel.goTo, hk, getD_val] using fun h => absurd h.symm ha

theorem goTo_levelEnd (hk : ch.lpst = k + 1) (ha : a = ch.lpe[k]) :
    ch.goTo a = loopStep (k + 1) { ch with pc := a } := by
  simp [Channel.goTo, hk, ha, getD_val]

theorem loopStep_round (h : 1 < ch.lpc[k].toNat) :
    loopStep (k + 1) ch = { ch with lpc := ch.lpc.set k (ch.lpc[k] - 1), pc := ch.lps[k] } := by
  have h' : (ch.lpc[k.val]).toNat > 1 := h
  simp [loopStep, h']

theorem loopStep_close (h : ch.lpc[k].toNat ≤ 1) :
    loopStep (k + 1) ch =
      if k.val > 0 && ch.lpe.getD (k - 1) 0 == ch.lpe[k] then loopStep k (ch.closeLevel k) else ch.closeLevel k := by
  have h' : ¬ (ch.lpc[k.val]).toNat > 1 := Nat.not_lt.2 h
  simp [loopStep, h', Channel.closeLevel]

theorem goTo_round (hk : ch.lpst = k + 1) (ha : a = ch.lpe[k]) (h : 1 < ch.lpc[k].toNat) :
    ch.goTo a = { ch with lpc := ch.lpc.set k (ch.lpc[k] - 1), pc := ch.lps[k] } := by
  exact (goTo_levelEnd hk ha).trans (loopStep_round (ch := { ch with pc := a }) h)

/-- A level that ends hands the address on to the next level, which tests it again. -/
theorem goTo_close (hk : ch.lpst = k + 1) (ha : a = ch.lpe[k]) (h : ch.lpc[k].toNat ≤ 1) :
    ch.goTo a = (ch.closeLevel k).goTo a := by
  rw [goTo_levelEnd hk ha, loopStep_close (ch := { ch with pc := a }) h, ha]
  rfl

/-- Once level `k` is closed and no outer level ends at the address, the channel goes on there. -/
theorem closeLevel_goTo (ho : ∀ j : Fin 4, j + 1 = k.val → ch.lpe[j] ≠ a) :
    (ch.closeLevel k).goTo a = { ch.closeLevel k with pc := a } := by
  obtain hk | ⟨j, hj⟩ : k.val = 0 ∨ ∃ j : Fin 4, j + 1 = k.val := by
    cases e : k.val with
    | zero => exact .inl rfl
    | succ n => exact .inr ⟨⟨n, by omega⟩, rfl⟩
  · exact goTo_outside _ a hk
  · exact goTo_past (k := j) hj.symm (ho j hj).symm
end

/-! ### Opening a level (R68) -/

/-- What LOOP and LOOPI leave of `u` below depth 4, for a body of `len` bytes at `next`: a count of 0 passes the body
by, any other opens the level. -/
def LevelOpened (c : Chan) (u t : State) (next count len : Word) : Prop :=
  OnlyChan c u t ∧
  (count = 0 → t.chan c = (u.chan c).goTo (next + len)) ∧
  (count ≠ 0 → ∀ k : Fin 4, (u.chan c).lpst = k → t.chan c = { u.chan c with
    lps := (u.chan c).lps.set k next, lpe := (u.chan c).lpe.set k (next + len), lpc := (u.chan c).lpc.set k count,
    lpst := k + 1, pc := next })

theorem finish_onlyChan (s : State) (c : Chan) (next : Word) (f : Channel → Channel) :
    OnlyChan c s (finish s c next f) := onlyChan_modChan _ _ _

@[simp] theorem finish_chan (s : State) (c : Chan) (next : Word) (f : Channel → Channel) :
    (finish s c next f).chan c = (f (s.chan c)).goTo next := modChan_chan_self _ _ _

/-- The body of a new level does not end where it begins, so that its first instruction is gone to. -/
theorem openLoop_opened (u : State) (c : Chan) (next count : Word) {len : Word} (hlen : len ≠ 0)
    (hd : (u.chan c).lpst < 4) : LevelOpened c u (openLoop u c next count len) next count len := by
  by_cases h0 : count = 0
  · simp [LevelOpened, openLoop, hd, h0, finish_onlyChan]
  · simp only [LevelOpened, openLoop, hd, h0, dif_pos, if_false, finish_onlyChan, finish_chan, false_imp_iff, true_and]
    intro _ k hk
    have hend : next ≠ next + len := fun h => hlen (by simpa using h.symm)
    rw [goTo_past (k := k) (by simp [hk]) (by simpa [hk] using hend)]
    simp [hk]

theorem openLoop_overflow {u : State} {c : Chan} (next count len : Word) (hd : (u.chan c).lpst = 4) :
    openLoop u c next count len = raise u c { vec := 10, addr := (u.chan c).pc } (u.chan c).pc := by
  simp [openLoop, hd]

/-- A scalar instruction whose encoding is not legal raises vector 1 at its own address, with SRP and LRS cleared
(R55, R89, R237). -/
theorem scalar_illegal {s s1 : State} {c : Chan} {i : Scalar} (hdec : (s.chan c).decodes = true)
    (himpr : (s.chan c).impr = []) (hfetch : fetch s c i.bytes = (.ok, s1)) (hgroup : (s.chan c).group = none)
    (hlegal : i.legal = false) (hslot : i.slot = none) (body : State → Word → State) :
    scalar s c i body = raise (clearResume s1 c i.ledger) c { vec := 1, addr := (s.chan c).pc } (s.chan c).pc := by
  have hfetch' : fetch s c (prefixBytes i.p + i.len) = (.ok, s1) := hfetch
  simp [scalar, scalarOr, hdec, takeImpr, himpr, hfetch', hgroup, hlegal, refuse, Scalar.keepsLrs, hslot]

/-! ### The three instructions -/

theorem exec_loop (c : Chan) (p : Prefixes) (cnt : Reg) (len : BitVec 16) (s : State) :
    exec (.loop c p cnt len) s = .next (scalar s c { p := p, len := 4, legal := len != 0, reads := [cnt] } fun s next =>
      openLoop s c next ((s.chan c).rg cnt) (len.zeroExtend 32)) := rfl

theorem exec_loopi (c : Chan) (p : Prefixes) (cnt len : BitVec 16) (s : State) :
    exec (.loopi c p cnt len) s = .next (scalar s c { p := p, len := 5, legal := len != 0 } fun s next =>
      openLoop s c next (cnt.zeroExtend 32) (len.zeroExtend 32)) := rfl

theorem exec_lexit (c : Chan) (p : Prefixes) (s : State) :
    exec (.lexit c p) s = .next (scalar s c { p := p, len := 1 } fun s next =>
      finish s c next fun ch => { ch with lpst := ch.lpst - 1 }) := rfl

theorem zeroExtend_ne_zero {len : BitVec 16} (h : (len != 0) = true) : len.zeroExtend 32 ≠ 0 := by
  simp only [bne_iff_ne] at h
  bv_omega

/-- Settles O9: LOOP and LOOPI go through `openLoop` in the decoded state, LEXIT through `finish`. -/
theorem hardwareLoops : Obligations.HardwareLoops := by
  unfold Obligations.HardwareLoops
  refine ⟨fun ch a => ⟨goTo_outside ch a, fun k hk => ⟨goTo_past hk, goTo_round hk, ?_, ?_⟩⟩, ?_⟩
  · exact fun ha hc ho => (goTo_close hk ha hc).trans (closeLevel_goTo ho)
  · exact fun ha hc _ => goTo_close hk ha hc
  · intro s s1 c p len
    refine ⟨fun cnt hr => ?_, fun cnt hr => ?_, fun hr => ?_, ?_⟩
    · rw [exec_loop, scalar_ready hr]
      exact ⟨fun hd => ⟨_, rfl, openLoop_opened _ c _ _ (zeroExtend_ne_zero hr.legal) hd⟩,
        fun hd => congrArg _ (openLoop_overflow _ _ _ hd)⟩
    · rw [exec_loopi, scalar_ready hr]
      exact ⟨fun hd => ⟨_, rfl, openLoop_opened _ c _ _ (zeroExtend_ne_zero hr.legal) hd⟩,
        fun hd => congrArg _ (openLoop_overflow _ _ _ hd)⟩
    · rw [exec_lexit, scalar_ready hr]
      exact ⟨_, rfl, finish_onlyChan _ _ _ _, finish_chan _ _ _ _⟩
    · rintro rfl hdec himpr hgroup
      refine ⟨fun cnt hf => ?_, fun cnt hf => ?_⟩
      · rw [exec_loop, scalar_illegal hdec himpr ?_ hgroup rfl rfl]
        exact hf
      · rw [exec_loopi, scalar_illegal hdec himpr ?_ hgroup rfl rfl]
        exact hf

end Sys2Proof.Machine
end

section
/-! SUPPORT. What an access of a channel that reads, and the preload of its vectors, leave of the channels (R47, R65, R126,
R254). -/
namespace Sys2Proof.Machine

/-- A channel beside what a read or a preload of its vectors can change: CHn_STEPSH, the reservation and the vector cache
(R47, R65, R254). -/
def Channel.unread (ch : Channel) : Channel := { ch with stepsH := 0, resv := none, vcache := [], preload := [] }

/-- Every channel beside what a read can change. -/
def State.unread (s : State) (d : Chan) : Channel := (s.chan d).unread

theorem unread_of_chans {s t : State} (h : t.chans = s.chans) : t.unread = s.unread := by
  funext d
  simp only [State.unread, State.chan, h]

theorem unread_modChan {s : State} {c : Chan} {f : Channel → Channel} (h : (f (s.chan c)).unread = (s.chan c).unread) :
    (s.modChan c f).unread = s.unread := by
  funext d
  by_cases hd : d = c
  · subst hd; simpa [State.unread] using h
  · simp [State.unread, modChan_chan_other s c d f hd]

/-! ### The errors and checks of an access keep the channels -/

@[simp] theorem countMc_chans (s : State) (m : Fin 8) (o : Nat) (hi corr : Bool) : (countMc s m o hi corr).chans = s.chans := by
  unfold countMc
  exact (apply_ite State.chans _ _ _).trans (by simp)

@[simp] theorem putSeal_chans (s : State) (line : Nat) (v : BitVec 16) : (s.putSeal line v).chans = s.chans := rfl

@[simp] theorem setErrAddr_chans (s : State) (m : Fin 8) (pa kind : Nat) (scrub : Bool) :
    (setErrAddr s m pa kind scrub).chans = s.chans := by
  rw [setErrAddr, setReg_chans, setReg_chans]

@[simp] theorem dramError_chans (s : State) (m : Fin 8) (pa kind : Nat) (scrub : Bool) (k : Nat) :
    (dramError s m pa kind scrub k).chans = s.chans := by
  rw [dramError, formRecord_chans, assertEvent_chans, setErrAddr_chans]

@[simp] theorem lineOutcome_chans (s : State) (pa : Nat) (cond : LineCond) (scrub : Bool) :
    (lineOutcome s pa cond scrub).chans = s.chans := by
  unfold lineOutcome
  dsimp only
  split
  · rfl
  · split <;> simp

@[simp] theorem senseLine_chans (s : State) (pa : Nat) : (senseLine s pa).chans = s.chans := by
  unfold senseLine
  split <;> simp

@[simp] theorem refuseKey_chans (s : State) : (refuseKey s).2.chans = s.chans := count_chans _ _

@[simp] theorem keyCheck_chans (s : State) (pa : Nat) (a : BitVec 4) (wr : Bool) : (keyCheck s pa a wr).2.chans = s.chans := by
  unfold keyCheck
  dsimp only
  repeat' split
  all_goals simp

@[simp] theorem defaultAnswer_chans (s : State) (m : Master) (pa : Nat) (wr : Bool) :
    (defaultAnswer s m pa wr).chans = s.chans := by
  rw [defaultAnswer, assertEvent_chans, count_chans, setReg_chans, setReg_chans]

@[simp] theorem denyAccess_chans (s : State) (m : Master) (b : Fin 33) (pa : Nat) (wr : Bool) :
    (denyAccess s m b pa wr).chans = s.chans := by
  unfold denyAccess
  split <;> simp [denyCrossbar, recordDeny]

@[simp] theorem checkPiece_chans (s : State) (c : Chan) (h : How) (e : Nat) : (checkPiece s c h e).2.chans = s.chans := by
  unfold checkPiece
  split
  · rfl
  · next pa _ =>
    split
    · rfl
    · split
      · have hk := keyCheck_chans s pa (if c = bnmCore then 0 else h.key) h.wr
        split
        · next hr => rwa [hr] at hk
        · next hr => rwa [hr] at hk
        · next hr =>
          rw [hr] at hk
          split <;> exact hk
      · split <;> simp
      · rfl

@[simp] theorem checkPieces_chans (c : Chan) (h : How) (ps : List (Nat × Nat)) (s : State) :
    (checkPieces s c h ps).2.chans = s.chans := by
  induction ps generalizing s with
  | nil => rfl
  | cons p ps ih =>
    obtain ⟨e, n⟩ := p
    have hp := checkPiece_chans s c h e
    have ih' := (ih (checkPiece s c h e).2).trans hp
    unfold checkPieces
    split
    · next hr => rwa [hr] at hp
    · next hr =>
      rw [hr] at ih'
      split <;> next hr' => rwa [hr'] at ih'
    · next hr =>
      rw [hr] at ih'
      split
      · next hr' => rwa [hr'] at ih'
      · exact ih'

@[simp] theorem checkAccess_chans (s : State) (c : Chan) (h : How) (e n : Nat) : (checkAccess s c h e n).2.chans = s.chans :=
  checkPieces_chans c h _ s

@[simp] theorem readHost_chans (s : State) (x n : Nat) : (readHost s x n).2.chans = s.chans := by
  unfold readHost
  split
  · rfl
  · dsimp only
    split <;> simp [aerLog]

@[simp] theorem readKenrid_chans (s : State) (m : Master) (d : Fin 8) (x pa n : Nat) :
    (readKenrid s m d x pa n).2.chans = s.chans := by
  unfold readKenrid
  split
  · simp
  · dsimp only
    split <;> rfl

/-! ### Reads -/

@[simp] theorem clearResv_unread (s : State) (line : Nat) : (clearResv s line).unread = s.unread := by
  funext d
  simp only [State.unread, State.chan, clearResv, Fin.getElem_fin, Vector.getElem_map]
  split <;> rfl

@[simp] theorem markKey_unread (s : State) (pa : Nat) (wr : Bool) : (markKey s pa wr).unread = s.unread := by
  have hs := unread_of_chans (senseLine_chans s (s.ktBase + pa / 4096))
  unfold markKey
  split
  · dsimp only
    split
    · exact hs
    · exact (unread_of_chans (setByte_chans _ _ _)).trans ((clearResv_unread _ _).trans hs)
  · rfl

@[simp] theorem setReg_unread (s : State) (o : Nat) (w : Word) : (s.setReg o w).unread = s.unread :=
  unread_of_chans (setReg_chans s o w)

/-- The blocks in the order in which `ctlRead0` tells them apart: channels, pipes, the Sextant, and the registers whose
reads latch another or take from a FIFO. -/
@[simp] theorem ctlRead0_unread (s : State) (m : Master) (o : Nat) : (ctlRead0 s m o).2.unread = s.unread := by
  unfold ctlRead0
  dsimp only
  split
  · split
    · exact unread_modChan rfl
    · rfl
  · split
    · split <;> rfl
    · split
      · split
        · split
          · rfl
          · split
            · exact setReg_unread _ _ _
            · rfl
        · split
          · exact unread_of_chans ((assertEvent_chans _ _).trans (setBit_chans _ _ _ _))
          · rfl
        · rfl
      · split
        · exact setReg_unread _ _ _
        · split
          · exact setReg_unread _ _ _
          · split
            · exact setReg_unread _ _ _
            · split
              · split
                · rfl
                · exact setReg_unread _ _ _
              · rfl

/-- A core that is not the Binnacle's reads no memory through SX_MDATA (R466). -/
theorem ctlRead_chan {c : Chan} (hc : c ≠ bnmCore) (s : State) (o : Nat) : ctlRead s (.chan c) o = ctlRead0 s (.chan c) o := by
  simp [ctlRead, asBnm, hc]

theorem ctlReadBytes_unread {c : Chan} (hc : c ≠ bnmCore) (f : Nat) (s : State) (o n : Nat) :
    (ctlReadBytes f s (.chan c) o n).2.unread = s.unread := by
  induction f generalizing s o n with
  | zero => rfl
  | succ f ih =>
    cases n with
    | zero => rfl
    | succ n =>
      simp only [ctlReadBytes, ctlRead_chan hc]
      exact (ih _ _ _).trans (ctlRead0_unread s _ _)

theorem readTarget_unread {c : Chan} (hc : c ≠ bnmCore) (s : State) (pa n : Nat) :
    (readTarget s (.chan c) pa n).2.unread = s.unread := by
  unfold readTarget
  split
  · dsimp only
    split <;> exact unread_of_chans (senseLine_chans s pa)
  · split <;> rfl
  · exact ctlReadBytes_unread hc _ _ _ _
  · exact unread_of_chans (readHost_chans _ _ _)
  · exact unread_of_chans (readKenrid_chans _ _ _ _ _ _)
  · rfl
  · rfl
  · exact unread_of_chans (defaultAnswer_chans _ _ _ _)

theorem readParts_unread {c : Chan} (hc : c ≠ bnmCore) (ps : List ((Nat × Nat) × (Nat × Nat))) (s : State) :
    (readParts s c ps).2.unread = s.unread := by
  induction ps generalizing s with
  | nil => rfl
  | cons p ps ih =>
    obtain ⟨⟨e, k⟩, pa, n⟩ := p
    have hr := readTarget_unread hc s pa n
    have ih' := ih (markKey (readTarget s (.chan c) pa n).2 pa false)
    unfold readParts
    split
    · next hg =>
      rw [hg] at hr ih'
      have ih'' := ih'.trans ((markKey_unread _ _ _).trans hr)
      split
      · next hg' => rwa [hg'] at ih''
      · exact ih''
    · next hg => rwa [hg] at hr
    · next hg =>
      rw [hg] at hr
      exact (markKey_unread _ _ _).trans hr
    · next hg => rwa [hg] at hr

theorem readEff_unread {c : Chan} (hc : c ≠ bnmCore) (s : State) (h : How) (e n : Nat) :
    (readEff s c h e n).2.unread = s.unread := by
  have hs := unread_of_chans (checkAccess_chans s c h e n)
  unfold readEff
  split
  · next hk => rwa [hk] at hs
  · next hk => rwa [hk] at hs
  · next hk =>
    rw [hk] at hs
    exact (readParts_unread hc _ _).trans hs

theorem fetchVector_unread {c : Chan} (hc : c ≠ bnmCore) (s : State) (v : Nat) : (fetchVector s c v).2.unread = s.unread := by
  have hr := readEff_unread hc s (supervisorHow 0 .rd false) ((s.chan c).vbar.toNat + 16 * v) 16
  unfold fetchVector
  dsimp only
  split
  · next hg =>
    rw [hg] at hr
    split <;> exact hr
  · next hg => rwa [hg] at hr
  · next hg => rwa [hg] at hr

theorem cacheVec_unread (ch : Channel) (v : Nat) (l : List Byte) (fixed : Bool) :
    (ch.cacheVec v l fixed).unread = ch.unread := by
  simp only [Channel.cacheVec, apply_ite Channel.unread]
  exact ite_self _

theorem preloadFrom_unread {c : Chan} (hc : c ≠ bnmCore) (vs : List Nat) (s : State) :
    (preloadFrom c vs s).unread = s.unread := by
  induction vs generalizing s with
  | nil => exact unread_modChan rfl
  | cons v vs ih =>
    have hf := fetchVector_unread hc s v
    unfold preloadFrom
    split
    · exact unread_modChan rfl
    · split
      · next l t hv =>
        rw [hv] at hf
        have hcache : (t.modChan c fun ch => ch.cacheVec v l true).unread = t.unread := unread_modChan (cacheVec_unread _ v l true)
        exact (ih _).trans (hcache.trans hf)
      · next hv =>
        rw [hv] at hf
        exact (ih _).trans hf
      · exact unread_modChan rfl

theorem preload_unread {c : Chan} (hc : c ≠ bnmCore) (s : State) : (preload s c).unread = s.unread :=
  (preloadFrom_unread hc _ _).trans (unread_modChan rfl)

end Sys2Proof.Machine
end

section
/-! SUPPORT. What the answer to a command leaves as it is (11 R347-R349, R366-R369; 12 R384, R385, R400). -/
namespace Sys2Proof.Machine

/-- What no answer to a command changes: the channels, memory and the Ledger Engine. -/
def State.served (s : State) : Vector Channel 17 × List Host.Cell × Ledger := (s.chans, s.mem, s.lge)

theorem served_eq {s t : State} : t.served = s.served ↔ t.chans = s.chans ∧ t.mem = s.mem ∧ t.lge = s.lge := by
  simp [State.served]

@[simp] theorem setReg_served (s : State) (o : Nat) (w : Word) : (s.setReg o w).served = s.served := rfl
@[simp] theorem setBit_served (s : State) (o i : Nat) (b : Bool) : (s.setBit o i b).served = s.served := rfl
@[simp] theorem setFld_served (s : State) (o hi lo v : Nat) : (s.setFld o hi lo v).served = s.served := rfl
@[simp] theorem modRing_served (s : State) (n : Fin 4) (f : RingSt → RingSt) : (s.modRing n f).served = s.served := rfl
@[simp] theorem answers_served (s : State) (a : Answer) : (s.answers a).served = s.served := rfl
@[simp] theorem sendFlit_served (s : State) (q : Fin 4) (dest : Nat) (b : FlitBody) : (sendFlit s q dest b).served = s.served := rfl

@[simp] theorem setHbytes_served (s : State) (a : Nat) (l : List Byte) : (s.setHbytes a l).served = s.served := by
  simp [State.served]

@[simp] theorem formRecord_served (s : State) (cls code source : Nat) (ws : List Word) :
    (formRecord s cls code source ws).served = s.served := by
  obtain ⟨r, b, w, l, h, -⟩ := formRecord_state s cls code source ws
  rw [h]
  rfl

@[simp] theorem assertEvent_served (s : State) (n : Nat) : (assertEvent s n).served = s.served := by
  obtain ⟨r, h, b, w, l, m, he, -⟩ := assertEvent_state s n
  rw [he]
  rfl

@[simp] theorem haltRing_served (s : State) (n : Fin 4) (e : Nat) : (haltRing s n e).served = s.served := by
  unfold haltRing
  split
  · rfl
  · rw [assertEvent_served, formRecord_served, setFld_served, setBit_served]

@[simp] theorem showFull_served (s : State) (n : Fin 4) : (showFull s n).served = s.served := setBit_served _ _ _ _

@[simp] theorem writeStatus_served (s : State) (n : Fin 4) (p : Packet) (st : Status) (fast final : Bool) :
    (writeStatus s n p st fast final).served = s.served := by
  unfold writeStatus
  split
  · exact haltRing_served _ _ _
  · dsimp only
    split
    · rw [assertEvent_served, showFull_served, setReg_served, setHbytes_served]
    · rw [showFull_served, setReg_served, setHbytes_served]

@[simp] theorem flushStatus_served (s : State) (n : Fin 4) : (flushStatus s n).served = s.served := by
  unfold flushStatus
  split
  · split
    · split
      · exact showFull_served _ _
      · rw [setBit_served, modRing_served, writeStatus_served]
    · rfl
  · rfl

@[simp] theorem endRing_served (s : State) (n : Fin 4) (st : Status) : (endRing s n st).served = s.served := by
  unfold endRing
  split
  · rw [setBit_served, modRing_served]
  · rw [flushStatus_served, modRing_served]

@[simp] theorem endMailbox_served (s : State) (p : Packet) (st : Status) : (endMailbox s p st).served = s.served :=
  assertEvent_served _ _

@[simp] theorem saveSettings_served (s : State) (ok : Bool) : (saveSettings s ok).served = s.served := by
  unfold saveSettings
  dsimp only
  split
  · rfl
  · exact formRecord_served _ _ _ _ _

@[simp] theorem saveNow_served (s : State) : (saveNow s).served = s.served := by
  unfold saveNow
  split
  · exact saveSettings_served _ _
  · exact saveSettings_served _ _

@[simp] theorem sendVlan_served (s : State) (keyId : Byte) (body : List Byte) : (sendVlan s keyId body).served = s.served := by
  unfold sendVlan
  split
  · rfl
  · dsimp only
    split
    · exact saveNow_served _
    · rfl

@[simp] theorem endVlan_served (s : State) (p : Packet) (st : Status) : (endVlan s p st).served = s.served :=
  sendVlan_served _ _ _

@[simp] theorem endForwarded_served (s : State) (n : Fin 4) (l : List Byte) : (endForwarded s n l).served = s.served := by
  unfold endForwarded
  dsimp only
  split <;> rfl

/-- The end of a command changes no channel, no byte of memory and nothing of the Ledger Engine. -/
@[simp] theorem finishCmd_served (s : State) (src : CmdSrc) (p : Packet) (st : Status) :
    (finishCmd s src p st).served = s.served := by
  cases src with
  | ring n => exact endRing_served _ _ _
  | mailbox => exact endMailbox_served _ _ _
  | vlan => exact endVlan_served _ _ _
  | forwarded n => exact (endForwarded_served _ _ _).trans (answers_served _ _)
  | console b => exact answers_served _ _

@[simp] theorem endWhere_served (s : State) (f : CmdSrc → Running → Option Status) : (endWhere s f).served = s.served := by
  unfold endWhere
  induction sources generalizing s with
  | nil => rfl
  | cons src l ih =>
    rw [List.foldl_cons, ih]
    split
    · split
      · rfl
      · split
        · exact finishCmd_served _ _ _ _
        · rfl
    · rfl

@[simp] theorem setRun_served (s : State) (src : CmdSrc) (r : Running) : (s.setRun src r).served = s.served := by
  cases src <;> rfl

@[simp] theorem waitFor_served (s : State) (src : CmdSrc) (a : Awaits) : (waitFor s src a).served = s.served := by
  unfold waitFor
  split
  · exact setRun_served _ _ _
  · rfl

end Sys2Proof.Machine
end

section
/-! SUPPORT. The channel commands of 11 R357-R359. -/
namespace Sys2Proof.Machine

/-! ### A command that runs -/

section
variable {s : State} {src : CmdSrc} {op : Nat} {p : Packet} (h : Runs s src op p)
include h

theorem withRun_runs (f : State → Packet → State) : withRun s src op f = f s p := by
  obtain ⟨⟨r, hr, hp, hf, hw, hb⟩, ho, hh⟩ := h
  cases src <;> simp_all [withRun]

/-- A command that ends when it executes ends with its status, in the state that it has left. -/
theorem answerRun_runs {f : State → Packet → Status × State} {st : Status} {u : State} (hf : f s p = (st, u)) :
    Host.Outcome.next (answerRun s src op f) =
      (.next (finishCmd u src p st) : Host.Outcome State Fault Refusal) := by
  rw [answerRun, withRun_runs h, hf]

end

theorem modChan_modChan (s : State) (c : Chan) (f g : Channel → Channel) :
    (s.modChan c f).modChan c g = s.modChan c fun ch => g (f ch) := by
  simp [State.modChan, State.setChan, State.chan]

theorem modChan_same (s : State) (c : Chan) : s.modChan c (fun ch => ch) = s := by
  simp [State.modChan, State.setChan, State.chan]

/-! ### CH_LOADCTX (R357) -/

theorem foldl_setG_rg (v : Reg → Word) (l : List Reg) (ch : Channel) (r : Reg) :
    (l.foldl (fun ch q => ch.setG q (v q)) ch).rg r = if r ∈ l then v r else ch.rg r := by
  induction l generalizing ch with
  | nil => rfl
  | cons q l ih =>
    rw [List.foldl_cons, ih]
    by_cases hl : r ∈ l
    · simp [hl]
    · by_cases hq : r = q
      · subst hq; simp
      · simp [hl, hq, setG_rg_other]

theorem foldl_setG_frame (v : Reg → Word) (l : List Reg) (ch : Channel) :
    ∃ g ls, l.foldl (fun ch q => ch.setG q (v q)) ch = { ch with g := g, loads := ls } := by
  induction l generalizing ch with
  | nil => exact ⟨_, _, rfl⟩
  | cons q l ih => exact ih _

/-- LPST takes a value up to 4 (R69). -/
def loadedDepth (w : Word) (old : Nat) : Nat := if wfld w 2 0 ≤ 4 then wfld w 2 0 else old

theorem store_pc (ch : Channel) (w : Word) : ch.store 0x004 w = { ch with pc := w } := rfl
theorem store_csw (ch : Channel) (w : Word) : ch.store 0x008 w = { ch with csw := masked 0x0F0FFFFF ch.csw w } := rfl
theorem store_fsw (ch : Channel) (w : Word) : ch.store 0x00C w = { ch with fsw := w &&& 0x71F } := rfl
theorem store_wm (ch : Channel) (w : Word) : ch.store 0x010 w = { ch with wm := w } := rfl
theorem store_sc (ch : Channel) (w : Word) : ch.store 0x014 w = { ch with sc := w } := rfl
theorem store_vl (ch : Channel) (w : Word) : ch.store 0x018 w = { ch with vl := min w.toNat 256 } := rfl
theorem store_slim (ch : Channel) (w : Word) : ch.store 0x01C w = { ch with slim := w &&& 0xFFFFFFF8 } := rfl
theorem store_lsav (ch : Channel) (w : Word) : ch.store 0x020 w = { ch with lsav := w &&& 0xFFFFFF00 } := rfl
theorem store_vbar (ch : Channel) (w : Word) : ch.store 0x028 w = { ch with vbar := w &&& 0xFFFFC000 } := rfl
theorem store_lpst (ch : Channel) (w : Word) : ch.store 0x024 w = { ch with lpst := loadedDepth w ch.lpst } := by
  show (if wfld w 2 0 ≤ 4 then _ else ch) = _
  rw [loadedDepth]
  split <;> rfl

/-- The registers that the record writes, and nothing else but the loads that no longer reach a G register. -/
theorem loadCtx_eq (p : Packet) (ch : Channel) : ∃ g ls,
    (∀ r : Reg, g[r] = p.pw (4 * r.val)) ∧
    loadCtx p ch = { ch with
      g := g, loads := ls, pc := p.pw 64, csw := masked 0x0F0FFFFF ch.csw (p.pw 68), fsw := p.pw 72 &&& 0x71F
      slim := p.pw 76 &&& 0xFFFFFFF8, lsav := p.pw 80 &&& 0xFFFFFF00, vbar := p.pw 84 &&& 0xFFFFC000
      vl := min (p.pw 88).toNat 256, sc := p.pw 92, wm := p.pw 96, lpst := loadedDepth (p.pw 100) ch.lpst } := by
  obtain ⟨g, ls, hg⟩ := foldl_setG_frame (fun r => p.pw (4 * r.val)) (List.finRange 16) ch
  have hr := foldl_setG_rg (fun r => p.pw (4 * r.val)) (List.finRange 16) ch
  refine ⟨g, ls, fun r => ?_, ?_⟩
  · simpa [hg, Channel.rg] using hr r
  · simp only [loadCtx, hg, ctxFields, List.foldl_cons, List.foldl_nil, store_pc, store_csw, store_fsw, store_slim, store_lsav,
      store_vbar, store_vl, store_sc, store_wm, store_lpst]

/-! ### CH_SETREGION (R358) -/

theorem merge_ones (old w : Word) : merge ones old w = w := by
  have h : ones = BitVec.allOnes 32 := rfl
  rw [merge, h, BitVec.and_allOnes, BitVec.not_allOnes, BitVec.and_zero, BitVec.zero_or]

/-- The Binnacle's write of a whole word of the region map is stored in any state of the channel (R282). -/
theorem chanWrite_map (s : State) (c : Chan) {o : Nat} (v : Word) (ho : 0x400 ≤ o) :
    chanWrite s .bnm c o v ones = s.modChan c (·.storeMap o v) := by
  simp only [chanWrite]
  rw [if_neg (by omega), if_neg (by omega), if_pos ho, if_pos (.inl rfl), merge_ones]
  rfl

theorem storeMap_base (ch : Channel) {k : Nat} (w : Word) (hk : k < 16) :
    ch.storeMap (0x400 + 16 * k) w = { ch with rbase := ch.rbase.set k w } := by
  have hi : (0x400 + 16 * k - 0x400) / 16 = k := by omega
  simp only [Channel.storeMap, hi]
  rw [dif_pos (by omega), if_pos (by omega)]

theorem storeMap_attr (ch : Channel) {k : Nat} (w : Word) (hk : k < 16) :
    ch.storeMap (0x404 + 16 * k) w = { ch with rattr := ch.rattr.set k (w &&& 0x1F0FFF) } := by
  have hi : (0x404 + 16 * k - 0x400) / 16 = k := by omega
  simp only [Channel.storeMap, hi]
  rw [dif_pos (by omega), if_neg (by omega), if_pos (by omega)]
  rfl

/-- Entries `first` to `first + n - 1` of the region map are written. -/
def Channel.setEntries (ch : Channel) (first n : Nat) (base attr : Nat → Word) : Channel :=
  (List.range n).foldl
    (fun ch i => (ch.storeMap (0x400 + 16 * (first + i)) (base i)).storeMap (0x404 + 16 * (first + i)) (attr i)) ch

theorem setEntries_eq (ch : Channel) {first n : Nat} (base attr : Nat → Word) (hn : first + n ≤ 16) :
    ∃ b a, ch.setEntries first n base attr = { ch with rbase := b, rattr := a } ∧
      ∀ i < n, b.toList[first + i]? = some (base i) ∧ a.toList[first + i]? = some (attr i &&& 0x1F0FFF) := by
  induction n with
  | zero => exact ⟨ch.rbase, ch.rattr, rfl, fun i hi => absurd hi (Nat.not_lt_zero i)⟩
  | succ n ih =>
    obtain ⟨b, a, he, hi⟩ := ih (by omega)
    have hlt : first + n < 16 := by omega
    refine ⟨b.set (first + n) (base n), a.set (first + n) (attr n &&& 0x1F0FFF), ?_, fun i hin => ?_⟩
    · rw [Channel.setEntries, List.range_succ, List.foldl_append, ← Channel.setEntries, he, List.foldl_cons, List.foldl_nil,
        storeMap_base _ _ hlt, storeMap_attr _ _ hlt]
    · by_cases h : i = n
      · subst h
        simp [hlt]
      · have hne : first + n ≠ first + i := by omega
        simpa [hne, Ne.symm h] using hi i (by omega)

theorem setRegion_modChan (s : State) (c : Chan) (first n : Nat) (base attr : Nat → Word) :
    (List.range n).foldl (fun s i =>
      chanWrite (chanWrite s .bnm c (0x400 + 16 * (first + i)) (base i) ones) .bnm c (0x404 + 16 * (first + i)) (attr i) ones) s =
    s.modChan c (·.setEntries first n base attr) := by
  induction n with
  | zero => exact (modChan_same s c).symm
  | succ n ih =>
    rw [List.range_succ, List.foldl_append, ih, List.foldl_cons, List.foldl_nil, chanWrite_map _ _ _ (by omega),
      chanWrite_map _ _ _ (by omega), modChan_modChan, modChan_modChan]
    simp only [Channel.setEntries, List.range_succ, List.foldl_append, List.foldl_cons, List.foldl_nil]

/-! ### CH_START (R39, R254, R359) -/

theorem chan_ne_bnmCore (p : Packet) : p.chan ≠ bnmCore :=
  Fin.ne_of_val_ne (Nat.ne_of_lt (Nat.mod_lt _ (by decide)))

theorem startChannel_chans (s : State) (c : Chan) :
    (startChannel s c).chans = (refetch (s.modChan c fun ch => { ch with st := .running }) c).chans := by
  unfold startChannel
  generalize refetch _ c = t
  dsimp only
  split <;> rfl

/-- What starts beside the reads of the preload. -/
def Channel.started (ch : Channel) : Channel := { ch with st := .running, icache := [], fbuf := [] }

theorem startChannel_unread {c : Chan} (hc : c ≠ bnmCore) (s : State) :
    (startChannel s c).unread = (s.modChan c Channel.started).unread :=
  calc (startChannel s c).unread
    _ = (refetch (s.modChan c fun ch => { ch with st := .running }) c).unread := unread_of_chans (startChannel_chans s c)
    _ = ((s.modChan c fun ch => { ch with st := .running }).modChan c fun ch => { ch with icache := [], fbuf := [] }).unread :=
      preload_unread hc _
    _ = (s.modChan c Channel.started).unread := by rw [modChan_modChan]; rfl

theorem unread_fields {a b : Channel} (h : a.unread = b.unread) :
    a.st = b.st ∧ a.pc = b.pc ∧ a.csw = b.csw ∧ a.g = b.g ∧ a.icache = b.icache ∧ a.fbuf = b.fbuf :=
  ⟨(congrArg Channel.st h :), (congrArg Channel.pc h :), (congrArg Channel.csw h :), (congrArg Channel.g h :),
    (congrArg Channel.icache h :), (congrArg Channel.fbuf h :)⟩

theorem startChannel_self {c : Chan} (hc : c ≠ bnmCore) (s : State) :
    ((startChannel s c).chan c).unread = (s.chan c).started.unread :=
  (congrFun (startChannel_unread hc s) c).trans (congrArg Channel.unread (modChan_chan _ _ _))

theorem startChannel_other {c d : Chan} (hc : c ≠ bnmCore) (s : State) (hd : d ≠ c) :
    ((startChannel s c).chan d).unread = (s.chan d).unread :=
  (congrFun (startChannel_unread hc s) d).trans (congrArg Channel.unread (modChan_chan_other _ _ _ _ hd))

/-! ### CH_STOP and CH_QUIESCE (R359) -/

theorem bit_wbit (w : Word) {i : Nat} (hi : i < 32) (b : Bool) : bit (wbit w i b) i = b := by
  have hm : (fmask i i).getLsbD i = true := by
    rw [fmask, BitVec.getLsbD_ofNat, Nat.add_sub_cancel_left]
    simp [hi]
  have hv : (BitVec.ofNat 32 (b.toNat * 2 ^ i)).getLsbD i = b := by
    rw [BitVec.getLsbD_ofNat]
    cases b <;> simp [hi]
  rw [bit, wbit, wset, BitVec.getLsbD_or, BitVec.getLsbD_and, BitVec.getLsbD_and, BitVec.getLsbD_not, hm, hv]
  simp

theorem releaseLedger_modChan (s : State) (c d : Chan) (f : Channel → Channel) :
    releaseLedger (s.modChan d f) c = (releaseLedger s c).modChan d f := rfl
@[simp] theorem releaseLedger_chan (s : State) (c d : Chan) : (releaseLedger s c).chan d = s.chan d := rfl
@[simp] theorem releaseLedger_rbit (s : State) (c : Chan) (o i : Nat) : (releaseLedger s c).rbit o i = s.rbit o i := rfl
@[simp] theorem releaseLedger_loc (s : State) (c : Chan) : (releaseLedger s c).lge.loc[c] = .none := by
  simp [releaseLedger]

@[simp] theorem unlock_chan (s : State) (c d : Chan) : (unlock s c).chan d = s.chan d := by
  unfold unlock
  dsimp only
  split <;> rfl

theorem unlock_lockStat (s : State) {c : Chan} : (unlock s c).rbit R.evcLockStat c.val = false := by
  have h : (s.setBit R.evcLockStat c.val false).rbit R.evcLockStat c.val = false := by
    rw [State.rbit, State.setBit, State.modReg, reg_setReg_self, bit_wbit _ (by omega)]
  unfold unlock
  dsimp only
  split
  · exact h
  · exact h

/-- A running channel with nothing in flight. -/
structure Channel.Still (ch : Channel) : Prop where
  running : ch.st = .running
  wait    : ch.wait = .none
  window  : ch.window = none
  slots   : ch.slots = []
  group   : ch.group = none
  drains  : ch.drains = []
  heldX   : ch.heldX = none
  remotes : ch.remotes = []

theorem still_iff {ch : Channel} : ch.Still ↔ ch.st = .running ∧ ch.wait = .none ∧ ch.window = none ∧ ch.slots = [] ∧
    ch.group = none ∧ ch.drains = [] ∧ ch.heldX = none ∧ ch.remotes = [] :=
  ⟨fun ⟨hr, hw, hn, hs, hg, hd, hx, hm⟩ => ⟨hr, hw, hn, hs, hg, hd, hx, hm⟩,
    fun ⟨hr, hw, hn, hs, hg, hd, hx, hm⟩ => ⟨hr, hw, hn, hs, hg, hd, hx, hm⟩⟩

/-- Such a channel once it has stopped and the command has ended. -/
def Channel.stoppedHere (ch : Channel) : Channel :=
  { ch.deliverAll.setCsw 18 false with st := .stopped, wait := .none, window := none, req := none }

/-- From `s` to `t` channel `c`, which had nothing in flight, has stopped, and its Ledger context is gone. -/
structure StoppedHere (c : Chan) (s t : State) : Prop where
  chan   : t.chan c = (s.chan c).stoppedHere
  others : ∀ d, d ≠ c → t.chan d = s.chan d
  memory : t.mem = s.mem
  ledger : t.lge.loc[c] = .none

theorem StoppedHere.of_served {c : Chan} {s t u : State} (h : StoppedHere c s t) (hu : u.served = t.served) :
    StoppedHere c s u := by
  obtain ⟨hc, hm, hl⟩ := served_eq.1 hu
  have hch : ∀ d, u.chan d = t.chan d := fun d => by rw [State.chan, hc]; rfl
  exact ⟨(hch c).trans h.chan, fun d hd => (hch d).trans (h.others d hd), hm.trans h.memory, by rw [hl]; exact h.ledger⟩

/-- The stop commands that wait for a channel without drains end, and nothing else happens to channels and memory. -/
theorem finishStops_served {s : State} {c : Chan} {detail : Nat} (hr : (s.chan c).req = some (.done detail))
    (hd : (s.chan c).drains = []) :
    (finishStops s c).served = (s.modChan c fun ch => { ch with req := none }).served := by
  simp [finishStops, hr, hd]

theorem stopLedger_idle {s : State} {c : Chan} (h : (s.chan c).wait = .none) : stopLedger s c = s := by
  simp [stopLedger, h]

theorem stopStreams_idle {s : State} {c : Chan} (hs : (s.chan c).slots = []) (hg : (s.chan c).group = none) (dest : DrainTo) :
    stopStreams s c dest = s.modChan c Channel.deliverAll := by
  simp [stopStreams, Channel.head, hs, hg]

theorem stopChannel_still {s : State} {c : Chan} (h : (s.chan c).Still) (detail : Nat) :
    ∃ k, stopChannel s c detail =
      finishStops ((releaseLedger s c).modChan c fun ch => { ch.stoppedHere with req := some (.done k) }) c := by
  unfold stopChannel
  dsimp only
  rw [stopLedger_idle h.wait, stopStreams_idle h.slots h.group, releaseLedger_modChan, modChan_modChan]
  exact ⟨_, rfl⟩

theorem stopChannel_stoppedHere {s : State} {c : Chan} (h : (s.chan c).Still) (detail : Nat) :
    StoppedHere c s (stopChannel s c detail) := by
  obtain ⟨k, hk⟩ := stopChannel_still h detail
  have hstop : StoppedHere c s ((releaseLedger s c).modChan c Channel.stoppedHere) :=
    ⟨modChan_chan _ _ _, fun d hd => modChan_chan_other _ c d _ hd, rfl, releaseLedger_loc s c⟩
  have hfin : (((releaseLedger s c).modChan c fun ch => { ch.stoppedHere with req := some (.done k) }).modChan c
      fun ch => { ch with req := none }).served = ((releaseLedger s c).modChan c Channel.stoppedHere).served := by
    rw [modChan_modChan]
    rfl
  rw [hk]
  refine hstop.of_served ((finishStops_served (detail := k) ?_ ?_).trans hfin)
  · rw [modChan_chan]
  · rw [modChan_chan]
    exact h.drains

/-- A stop or a quiesce acts at once on such a channel. -/
theorem settle_still {s : State} {c : Chan} (h : (s.chan c).Still)
    (hq : (s.chan c).req = some .stop ∨ (s.chan c).req = some .quiesce) : settle s c = stopChannel s c 0 := by
  have hl : leaveWait s c = s := by simp [leaveWait, h.running]
  rcases hq with hq | hq <;>
    simp [settle, hq, hl, h.running, h.window, h.wait, h.slots, h.heldX, Channel.interruptible, h.remotes]

theorem askChannel_stoppedHere {s : State} {c : Chan} (h : (s.chan c).Still) (src : CmdSrc) {q : ChReq}
    (hq : q = .stop ∨ q = .quiesce) : StoppedHere c s (askChannel s src c q) := by
  obtain ⟨hc, hm, -⟩ := served_eq.1 (waitFor_served s src (.chan c))
  have hch : ∀ d, (waitFor s src (.chan c)).chan d = s.chan d := fun d => by rw [State.chan, hc]; rfl
  have hask : ((waitFor s src (.chan c)).modChan c fun ch => { ch with req := some q }).chan c =
      { s.chan c with req := some q } := by rw [modChan_chan, hch]
  have hs : Channel.Still { s.chan c with req := some q } := { h with }
  rw [← hask] at hs
  have hstop := stopChannel_stoppedHere hs 0
  rw [askChannel, settle_still hs (by rw [hask]; simpa using hq)]
  exact ⟨hstop.chan.trans (by rw [hask]; rfl), fun d hd => (hstop.others d hd).trans ((modChan_chan_other _ c d _ hd).trans (hch d)),
    hstop.memory.trans hm, hstop.ledger⟩

theorem StoppedHere.halts {c : Chan} {s t : State} (h : StoppedHere c s t) :
    (t.chan c).st = .stopped ∧ (t.chan c).req = none ∧ (t.chan c).pc = (s.chan c).pc ∧ (t.chan c).wm = (s.chan c).wm ∧
      (t.chan c).lrs = false ∧ t.lge.loc[c] = .none ∧ (∀ a, t.byte a = s.byte a) ∧ ∀ d, d ≠ c → t.chan d = s.chan d := by
  rw [h.chan]
  exact ⟨rfl, rfl, rfl, rfl, bit_wbit _ (by decide) _, h.ledger, fun a => by rw [State.byte, h.memory]; rfl, h.others⟩

/-! ### The commands, case by case -/

section
variable {s : State} {src : CmdSrc} {p : Packet}

theorem chLoadctx_stopped (h : Runs s src 0x0101 p) (hst : (s.chan p.chan).st = .stopped) :
    exec (.chLoadctx src) s = .next (finishCmd (s.modChan p.chan (loadCtx p)) src p ⟨0, 0, 0⟩) :=
  answerRun_runs h (if_pos hst)

theorem chSetregion_entries (h : Runs s src 0x0102 p) :
    exec (.chSetregion src) s = .next (finishCmd (s.modChan p.chan
      (·.setEntries (wfld p.p0 11 8) (wfld p.p0 19 16 + 1) (fun i => p.pw (8 * i)) fun i => p.pw (8 * i + 4))) src p ⟨0, 0, 0⟩) :=
  answerRun_runs h (congrArg (Prod.mk _) (setRegion_modChan s _ _ _ (fun i => p.pw (8 * i)) fun i => p.pw (8 * i + 4)))

theorem chStart_stopped (h : Runs s src 0x0104 p) (hst : (s.chan p.chan).st = .stopped) :
    exec (.chStart src) s = .next (finishCmd (startChannel s p.chan) src p ⟨0, 0, 0⟩) :=
  answerRun_runs h (if_pos hst)

theorem chStop_running (h : Runs s src 0x0105 p) (hst : (s.chan p.chan).st = .running) :
    exec (.chStop src) s = .next (askChannel s src p.chan .stop) :=
  congrArg Host.Outcome.next ((withRun_runs h _).trans (by simp only [hst]))

theorem chStop_stopped (h : Runs s src 0x0105 p) (hst : (s.chan p.chan).st = .stopped) (hq : (s.chan p.chan).req = none) :
    exec (.chStop src) s = .next (finishCmd s src p ⟨0, 2, (s.chan p.chan).wm⟩) :=
  congrArg Host.Outcome.next ((withRun_runs h _).trans (by simp only [hst, alreadyStopped, hq]))

theorem chStop_halted (h : Runs s src 0x0105 p) (hst : (s.chan p.chan).st = .halted) :
    exec (.chStop src) s = .next (finishCmd s src p ⟨0x30, 3, 0⟩) :=
  congrArg Host.Outcome.next ((withRun_runs h _).trans (by simp only [hst, wrongState, ChSt.code]; rfl))

theorem chStop_lockedUp (h : Runs s src 0x0105 p) (hst : (s.chan p.chan).st = .lockedUp) :
    exec (.chStop src) s = .next (finishCmd (releaseLedger
      (unlock (s.modChan p.chan fun ch => { ch with st := .stopped }) p.chan) p.chan) src p ⟨0, 0, (s.chan p.chan).wm⟩) :=
  congrArg Host.Outcome.next ((withRun_runs h _).trans (by simp only [hst]))

theorem chQuiesce_running (h : Runs s src 0x0106 p) (hst : (s.chan p.chan).st = .running) :
    exec (.chQuiesce src) s = .next (askChannel s src p.chan .quiesce) :=
  congrArg Host.Outcome.next ((withRun_runs h _).trans (by simp only [hst]))

theorem chQuiesce_stopped (h : Runs s src 0x0106 p) (hst : (s.chan p.chan).st = .stopped) (hq : (s.chan p.chan).req = none) :
    exec (.chQuiesce src) s = .next (finishCmd s src p ⟨0, 2, (s.chan p.chan).pc⟩) :=
  congrArg Host.Outcome.next ((withRun_runs h _).trans (by simp only [hst, alreadyStopped, hq]))

theorem chQuiesce_refused (h : Runs s src 0x0106 p) (hst : (s.chan p.chan).st = .halted ∨ (s.chan p.chan).st = .lockedUp) :
    exec (.chQuiesce src) s = .next (finishCmd s src p (wrongState (s.chan p.chan))) :=
  congrArg Host.Outcome.next ((withRun_runs h _).trans (by rcases hst with hst | hst <;> simp only [hst]))

end

/-- Settles O35: each command is answered from the state that its own effect leaves (`loadCtx_eq`, `setEntries_eq`,
`startChannel_unread`, `askChannel_stoppedHere`). -/
theorem channelCommands : Obligations.ChannelCommands := by
  unfold Obligations.ChannelCommands
  refine ⟨fun s src p => ⟨fun h => ?loadctx, fun h hle => ?setregion, fun h => ?grant, fun h => ?start⟩,
    fun s src p => ⟨fun h => ?stop, fun h => ?quiesce⟩⟩
  case loadctx =>
    refine ⟨fun hst => ?_, fun hst => answerRun_runs h (if_neg hst)⟩
    obtain ⟨g, ls, hg, hl⟩ := loadCtx_eq p (s.chan p.chan)
    refine ⟨_, chLoadctx_stopped h hst, onlyChan_modChan _ _ _, ?_⟩
    rw [modChan_chan, hl]
    exact ⟨hg, rfl, rfl, rfl, rfl, rfl, rfl, rfl, rfl, rfl, hst⟩
  case setregion =>
    obtain ⟨b, a, he, hi⟩ := setEntries_eq (s.chan p.chan) (fun i => p.pw (8 * i)) (fun i => p.pw (8 * i + 4))
      (first := wfld p.p0 11 8) (n := wfld p.p0 19 16 + 1) hle
    refine ⟨_, chSetregion_entries h, onlyChan_modChan _ _ _, ?_⟩
    rw [modChan_chan, he]
    exact ⟨fun i hle => hi i (Nat.lt_succ_of_le hle), rfl⟩
  case grant =>
    refine ⟨fun hb => ?_, fun hb => answerRun_runs h (if_pos hb)⟩
    exact ⟨_, answerRun_runs h (if_neg (not_not_intro hb)), onlyChan_modChan _ _ _, modChan_chan _ _ _⟩
  case start =>
    refine ⟨fun hst => ?_, fun hst => answerRun_runs h (if_neg hst)⟩
    have hc := chan_ne_bnmCore p
    obtain ⟨hr, hpc, hcsw, hg, hi, hf⟩ := unread_fields (startChannel_self hc s)
    exact ⟨_, chStart_stopped h hst, hr, hpc, hcsw, hg, hi, hf,
      fun d hd => (unread_fields (startChannel_other hc s hd)).1⟩
  case stop =>
    refine ⟨fun hs => ?_, chStop_stopped h, chStop_halted h, fun hst => ?_⟩
    · have hs' := still_iff.2 hs
      exact ⟨_, chStop_running h hs'.running, (askChannel_stoppedHere hs' src (.inl rfl)).halts⟩
    · refine ⟨_, chStop_lockedUp h hst, ?_, ?_, releaseLedger_loc _ _⟩
      · rw [releaseLedger_chan, unlock_chan, modChan_chan]
      · rw [releaseLedger_rbit, unlock_lockStat]
  case quiesce =>
    refine ⟨fun hs => ?_, chQuiesce_stopped h, chQuiesce_refused h⟩
    have hs' := still_iff.2 hs
    exact ⟨_, chQuiesce_running h hs'.running, (askChannel_stoppedHere hs' src (.inr rfl)).halts⟩

end Sys2Proof.Machine
end
